-- ==== Sys2Proof/Word.lean ====
section
/-! DEFINITION. The word types of the MQ-460: bytes, the 16-bit halves a port carries, and the 32-bit words
of terminal memory (00_scope, "Byte and word order"). -/

namespace Sys2Proof

/-- A byte of a terminal memory word. -/
abbrev Byte := BitVec 8

/-- A register seen through a port (R183), or a half-word of terminal memory. -/
abbrev Half := BitVec 16

/-- A word of terminal memory (R169). -/
abbrev Word := BitVec 32

end Sys2Proof
end

