-- ==== Sys2Proof/Syntax.lean ====
section
/-! DEFINITION. The commands of the MQ-460: one constructor of `Instr` for each row of spec/opcode_table.json.

A row is one step of the part, whole and indivisible. The steps of outside agents carry what the agent gives
(a port and a value, the data lines, or whether RESET stays asserted). The steps in which a block takes a request it holds carry the ring,
port or requester concerned where the part has several, and nothing else: the content of the request is in State. -/

namespace Sys2Proof

/-- A, B and T: the three rings, and the three ports they belong to (R183: indices 0 to 12 of a port name the
registers of the port's own ring). -/
inductive RingId where
  | a | b | t
  deriving DecidableEq, Repr

/-- Feed Port A, Feed Port B and the Terminal Port. -/
abbrev Port := RingId

/-- Who asks the Memory Master for a transaction (R168). -/
inductive Requester where
  | ring (r : RingId)
  | loader
  deriving DecidableEq, Repr

/-- The commands, in the order of the opcode table. -/
inductive Instr where
  | hardwareReset
  | selectorWrite (p : Port) (v : Half)
  | writeIgnored (p : Port) (v : Half)
  | ringOn (p : Port) (v : Half)
  | ringOff (p : Port) (v : Half)
  | kick (p : Port) (v : Half)
  | attnPendingClear (p : Port) (v : Half)
  | attnEnableWrite (p : Port) (v : Half)
  | ringBaseWrite (p : Port) (v : Half)
  | ringLengthWrite (p : Port) (v : Half)
  | counterClear (p : Port) (v : Half)
  | start
  | stop
  | ignoredCommand (v : Half)
  | setupAddressWrite (v : Half)
  | raise (v : Half)
  | probeSelect (v : Half)
  | attentionCauseSet (p : Port)
  | memoryRequest (q : Requester)
  | busGrant
  | transferAcknowledge (data : Word)
  | responseLimitExpiry
  | statusReadEnd (r : RingId)
  | bodyReadEnd (r : RingId)
  | outcomeTaken (r : RingId)
  | writeBackEnd (r : RingId)
  | ringFetchFault (r : RingId)
  | writebackFault (r : RingId)
  | ringFrameEvent (r : RingId)
  | silent (r : RingId)
  | update
  | snapshot
  | condition
  | defineInstrument
  | removeInstrument
  | setSources
  | renderQueueRoom
  | bindingLookup
  | append
  | removal
  | plainRender
  | tickRender
  | resetRender
  | spanQueueRoom
  | bindField
  | lookupResult
  | appendCompletion
  | unbindField
  | removalCompletion
  | moveField
  | styleField
  | setPen
  | expiry
  | sweepTrigger
  | sweepStep
  | repaint
  | armRequest
  | removeRequest
  | highlightExpiry
  | spanWrite
  | writeCells
  | fillCells
  | setCursor
  | cursorChange
  | openOverlay
  | closeOverlay
  | openingRow
  | closingRow
  | overlayEndReport
  | ringStoppedReport
  | setupReadEnd
  | fetchFault
  | glyphReadEnd
  | fontFault
  | glyphWrite
  | frameScanStart
  | frameEvent
  | blinkPhaseChange
  deriving DecidableEq, Repr

end Sys2Proof
end

