-- ==== Sys2Proof/Machine/State.lean ====
section
/-! DEFINITION. The state of the MQ-460, block by block, as plain data, and its contents after hardware reset.

Each structure below is the state of one block of the Block Overview (00_scope), with the requests that the block
has been sent and has not yet taken. The large stores are sparse tables (`Tab`): a list of (number, content) pairs,
where an unlisted number holds the contents that hardware reset or the cleared record gives it. -/

namespace Sys2Proof.Machine

/-- No meaning of this model faults: the spec describes an effect for every command (see NOTES.md, Stops). -/
inductive Fault where
  deriving DecidableEq, Repr

/-- Reasons to refuse a command. -/
inductive Refusal where
  /-- Raised by `exec` alone, for a command that has no meaning in this model yet; safe. No arm raises it now. -/
  | notModelled (mnemonic : String)
  deriving DecidableEq, Repr

/-! ### Containers -/

/-- One value for each of A, B and T. -/
structure PerRing (α : Type) where
  a : α
  b : α
  t : α
  deriving DecidableEq, Repr

/-- A sparse table: the listed entries of a store, by number. -/
abbrev Tab (α : Type) := List (Nat × α)

/-- How many entries a store has, and what an unlisted entry holds. -/
structure TabSpec (α : Type) where
  size : Nat
  dflt : α

/-! ### Cells, pens and colours (R69, R85, R138, R180) -/

/-- A cell value: a glyph code 0..511 and a pen number 0..31 (R85, R180). -/
structure CellValue where
  glyph : BitVec 9
  pen : BitVec 5
  deriving DecidableEq, Repr

/-- Blink class of a pen (R69, R141); NONE is `steady`. -/
inductive BlinkClass where
  | steady | phase0 | phase1
  deriving DecidableEq, Repr

/-- A pen (R69). -/
structure Pen where
  foreground : BitVec 4
  background : BitVec 4
  blink : BlinkClass
  underline : Bool
  reverse : Bool
  deriving DecidableEq, Repr

/-- A palette entry (R138). -/
structure Colour where
  red : BitVec 4
  green : BitVec 4
  blue : BitVec 4
  deriving DecidableEq, Repr

/-- A glyph: 16 lines, line 0 at the top; in a line, bit 7 is dot 0, the leftmost (R135, R182). -/
abbrev Glyph := Vector Byte 16

/-! ### The quote map (Section 1) -/

/-- A present item: a signed 32-bit value and a scale 0..6 (R2). -/
structure Item where
  value : Word
  scale : Fin 7
  deriving DecidableEq, Repr

/-- Trading condition (R1). -/
inductive Condition where
  | trading | paused
  deriving DecidableEq, Repr

/-- Sequence state (R1, R3). -/
inductive SeqState where
  | unsequenced | synced | gapped
  deriving DecidableEq, Repr

/-- A slot of the instrument table (R1). -/
structure Slot where
  occupied : Bool
  key : Word
  sources : PerRing Bool
  condition : Condition
  seqState : SeqState
  lastSeq : BitVec 24
  items : Vector (Option Item) 8
  bindings : List Nat
  link : Option Nat
  deriving DecidableEq, Repr

/-- The cleared contents of a slot (R1). -/
def Slot.cleared : Slot where
  occupied := false
  key := 0
  sources := ⟨false, false, false⟩
  condition := .trading
  seqState := .unsequenced
  lastSeq := 0
  items := #v[none, none, none, none, none, none, none, none]
  bindings := []
  link := none

/-! ### Fields (Section 3) -/

/-- Field state (R43). -/
inductive FieldState where
  | free | bound | suspended
  deriving DecidableEq, Repr

/-- Colour rule (R42). -/
inductive ColourRule where
  | plain | sign | tick
  deriving DecidableEq, Repr

/-- Tick (R42, R66); NONE is `steady`. -/
inductive Tick where
  | steady | up | down
  deriving DecidableEq, Repr

/-- What BIND_FIELD and STYLE_FIELD carry of a field's style (R51, R59). -/
structure Style where
  places : Fin 7
  rule : ColourRule
  hold : Fin 4
  steadyPen : BitVec 5
  upPen : BitVec 5
  downPen : BitVec 5
  stalePen : BitVec 5
  plus : Bool
  blankZero : Bool
  squeeze : Bool
  deriving DecidableEq, Repr

/-- A record of the field table (R42). -/
structure FieldRec where
  state : FieldState
  slot : Nat
  item : Fin 8
  row : Nat
  col : Nat
  width : Nat
  style : Style
  tick : Tick
  overflow : Nat
  deriving DecidableEq, Repr

/-- The cleared style (R42). -/
def Style.cleared : Style := ⟨0, .plain, 0, 0, 0, 0, 0, false, false, false⟩

/-- The cleared contents of a field record (R42). -/
def FieldRec.cleared : FieldRec := ⟨.free, 0, 0, 0, 0, 0, Style.cleared, .steady, 0⟩

/-- A span write: first cell and the cells rightward from it (R49). -/
structure SpanWrite where
  row : Nat
  col : Nat
  cells : List CellValue
  deriving DecidableEq, Repr

/-! ### Descriptors and outcomes (Sections 9 and 11) -/

/-- A descriptor as fetched: word 0 from the status read, words 1 to 15 from the body read (R150). -/
structure Descriptor where
  word0 : Word
  body : List Word
  deriving DecidableEq, Repr

/-- The status codes 1 to 21 that the MQ-460 writes (11.1); EXISTS is `existing`. -/
inductive Status where
  | applied | appliedGap | duplicate | stale | noKey | notSource | badForm | done | tableFull | existing | notFound
  | hasBindings | bindingsFull | fieldInUse | notBound | outOfRange | overlap | noOverlay | stackFull | saveFull
  | wrongPort
  deriving DecidableEq, Repr

/-! ### Requests between blocks -/

/-- A render request from the Quote Engine to the Field Unit (R31). -/
inductive RenderRequest where
  | plain (f : Nat)
  | tick (f : Nat) (old : Option Int) (new : Int)
  | reset (f : Nat)
  deriving DecidableEq, Repr

/-- What the Quote Engine is asked for (R7): applies, instrument commands, and binding requests. -/
inductive QuoteRequest where
  | apply (r : RingId) (d : Descriptor)
  | define (d : Descriptor)
  | remove (d : Descriptor)
  | setSources (d : Descriptor)
  | lookup (key : Word)
  | append (f slot : Nat)
  | removal (f : Nat)
  deriving DecidableEq, Repr

/-- What a binding lookup returns (R52). -/
inductive LookupResult where
  | notFound
  | full (slot : Nat)
  | found (slot : Nat)
  deriving DecidableEq, Repr

/-- What the Field Unit is asked for (R46, R127). -/
inductive FieldRequest where
  | render (q : RenderRequest)
  | lookupResult (l : LookupResult)
  | appendDone (f slot : Nat)
  | removalDone (f : Nat)
  | bind (d : Descriptor)
  | unbind (d : Descriptor)
  | move (d : Descriptor)
  | style (d : Descriptor)
  | setPen (d : Descriptor)
  | repaint
  | expiry (f : Nat)
  | trigger
  | step
  deriving DecidableEq, Repr

/-- What the Plane Controller is asked for (R86). -/
inductive PlaneRequest where
  | span (w : SpanWrite)
  | writeCells (d : Descriptor)
  | fillCells (d : Descriptor)
  | setCursor (d : Descriptor)
  | openOverlay (d : Descriptor)
  | closeOverlay
  | row
  deriving DecidableEq, Repr

/-- What the Field Unit asks of the Highlight Timer (R75). -/
inductive HighlightRequest where
  | arm (f : Nat) (hold : Fin 4)
  | remove (f : Nat)
  deriving DecidableEq, Repr

/-- What a Ring Unit receives: ends of its transactions (R175) and outcomes (R153). -/
inductive RingInput where
  | statusEnd (w : Word)
  | bodyEnd (ws : List Word)
  | writeBackEnd
  | fault
  | outcome (st : Status) (result : Word)
  deriving DecidableEq, Repr

/-- What the Setup Loader receives at the end of its transactions (R175). -/
inductive LoaderInput where
  | setupWords (ws : List Word)
  | glyphWords (ws : List Word)
  | fault
  deriving DecidableEq, Repr

/-! ### Ports and attention (Section 12) -/

/-- The attention causes of the two kinds of port (R187). -/
inductive Cause where
  | done | reject | gap | silent | halt | resync | device
  | feed | overflow | startDone | stopDone
  deriving DecidableEq, Repr

/-- A Port Interface with its Attention Unit (R183, R187, R188). `causes` holds the causes sent and not yet taken. -/
structure PortUnit where
  selector : BitVec 5
  attnPending : BitVec 8
  attnEnable : BitVec 8
  causes : List Cause
  deriving DecidableEq, Repr

/-- The table a probe selection names (R186). -/
inductive ProbeTable where
  | none | field | instrument | overlay
  deriving DecidableEq, Repr

/-- The probe selection (R186). -/
structure Probe where
  table : ProbeTable
  index : BitVec 10
  deriving DecidableEq, Repr

/-! ### Rings and the Memory Master (Sections 9 and 10) -/

/-- Ring state (R149). -/
inductive RingState where
  | off | on | silent | stopping | halted
  deriving DecidableEq, Repr

/-- Fetch phase (R150). READY is not held between events; RETURN is `handBack`. -/
inductive FetchPhase where
  | idle | ready | status | waiting | body | owner | handBack
  deriving DecidableEq, Repr

/-- The descriptor in flight (R147, R150): word 0 while the body is being read, then the whole. -/
inductive InFlight where
  | none
  | header (word0 : Word)
  | fetched (d : Descriptor)
  deriving DecidableEq, Repr

/-- HALT_REASON (R147). -/
inductive HaltReason where
  | none | fetch | writeback
  deriving DecidableEq, Repr

/-- A Ring Unit (R147). Ring T has no silence counter and no silence limit; both stay 0 there. -/
structure RingUnit where
  base : Word
  lengthCode : Fin 7
  index : Nat
  state : RingState
  phase : FetchPhase
  inFlight : InFlight
  applied : Half
  duplicate : Half
  stale : Half
  rejected : Half
  haltReason : HaltReason
  silenceCounter : Nat
  silenceLimit : Nat
  input : List RingInput
  frames : List Half
  deriving DecidableEq, Repr

/-- The five kinds of transaction (R169). The kind says the requester, the direction and the word count. -/
inductive TxKind where
  | statusRead (r : RingId)
  | bodyRead (r : RingId)
  | writeBack (r : RingId)
  | setupRead
  | glyphRead
  deriving DecidableEq, Repr

/-- Phase of the transaction in flight (R168). -/
inductive TxPhase where
  | requesting | transferring
  deriving DecidableEq, Repr

/-- A transaction (R168): kind, first address, words moved, and the words read so far or to be written. -/
structure Transaction where
  kind : TxKind
  addr : Nat
  moved : Nat
  data : List Word
  phase : TxPhase
  deriving DecidableEq, Repr

/-- At most one request from each requester (R168). -/
structure Requests where
  rings : PerRing (Option Transaction)
  loader : Option Transaction
  deriving DecidableEq, Repr

/-- The Memory Master (R168). `sent` holds requests on their way to it, `held` those that have arrived. -/
structure MemoryMaster where
  inFlight : Option Transaction
  held : Requests
  sent : Requests
  pointer : RingId
  deriving DecidableEq, Repr

/-! ### Quote Engine -/

/-- A Quote Engine event waiting on a full render queue (R47): what it has still to send and to return. -/
structure QuoteWait where
  renders : List RenderRequest
  ring : RingId
  status : Status
  result : Word
  deriving DecidableEq, Repr

/-- The Quote Engine: instrument table, bucket heads, and its requests (R1, R5, R7, R47). -/
structure QuoteEngine where
  slots : Tab Slot
  heads : Tab (Option Nat)
  inbox : List QuoteRequest
  wait : Option QuoteWait
  deriving DecidableEq, Repr

/-! ### Field Unit -/

/-- Whether a REPAINT waits, and for which pass (R125, R129). For this pass: whether the pass is a rerun (R130). -/
inductive RepaintWait where
  | none
  | thisPass (rerun : Bool)
  | nextPass
  deriving DecidableEq, Repr

/-- The repaint sweep (R125). -/
structure Sweep where
  active : Bool
  position : Nat
  rerun : Bool
  stepOut : Bool
  rendered : Nat
  repaint : RepaintWait
  deriving DecidableEq, Repr

/-- The place that a MOVE_FIELD gives a field (R57). -/
structure FieldMove where
  field : Nat
  row : Nat
  col : Nat
  width : Nat
  deriving DecidableEq, Repr

/-- What a Field Unit event does once its span writes are sent and the Highlight Timer has taken its requests. -/
inductive FieldAfter where
  | nothing
  /-- Return an outcome to Ring T (R54, R58, R59). -/
  | complete (st : Status) (result : Word)
  /-- Free the record and complete UNBIND_FIELD (R56, step 4). -/
  | freeAndComplete (f : Nat) (result : Word)
  /-- Finish a step of the sweep (R128); `rendered` says whether step 1 rendered a field. -/
  | sweepAdvance (rendered : Bool)
  /-- Move a BOUND field whose old span the event blanks, and render it there (R58). -/
  | moveTo (m : FieldMove)
  deriving DecidableEq, Repr

/-- A Field Unit event under way (R49): span writes still to send, and what follows them. -/
structure FieldEvent where
  spans : List SpanWrite
  after : FieldAfter
  deriving DecidableEq, Repr

/-- The Field Unit (R42, R44, R46, R125, R191). `command` is the BIND_FIELD or UNBIND_FIELD that waits for the
Quote Engine. -/
structure FieldUnit where
  records : Tab FieldRec
  occupancy : Tab (Option Nat)
  absentGlyph : BitVec 9
  sweep : Sweep
  inbox : List FieldRequest
  event : Option FieldEvent
  command : Option Descriptor
  deriving DecidableEq, Repr

/-! ### Highlight Timer -/

/-- An entry of the highlight queue (R74): WAITING, or EXPIRED when `expired`. -/
structure HighlightEntry where
  field : Nat
  expiry : Half
  expired : Bool
  deriving DecidableEq, Repr

/-- The Highlight Timer (R73, R74, R81). `frame` is the number of the last frame event it has taken. -/
structure HighlightTimer where
  queue : List HighlightEntry
  holds : Vector Nat 4
  frame : Half
  requests : List HighlightRequest
  frames : List Half
  deriving DecidableEq, Repr

/-! ### Plane Controller -/

/-- Columns and rows (R84). -/
structure Geometry where
  columns : Nat
  rows : Nat
  deriving DecidableEq, Repr

/-- Overlay state with the progress of its operation (R103). -/
inductive OverlayState where
  | opening (progress : Nat)
  | opened
  | closing (progress : Nat)
  deriving DecidableEq, Repr

/-- An overlay record (R101). -/
structure Overlay where
  top : Nat
  left : Nat
  height : Nat
  width : Nat
  offset : Nat
  state : OverlayState
  fill : CellValue
  deriving DecidableEq, Repr

/-- The Plane Controller (R84, R85, R101, R102, R86). The overlay stack lists the lowest record first. -/
structure PlaneController where
  geometry : Option Geometry
  cells : Tab CellValue
  save : Tab CellValue
  stack : List Overlay
  inbox : List PlaneRequest
  deriving DecidableEq, Repr

/-! ### Video Generator -/

/-- Cursor mode (R97). -/
inductive CursorMode where
  | off | steady | blink
  deriving DecidableEq, Repr

/-- Cursor state (R142). -/
structure Cursor where
  row : Nat
  col : Nat
  mode : CursorMode
  deriving DecidableEq, Repr

/-- A frame being scanned: what the Video Generator fixes at the start of its scan, and how far the scan has come
(R139). `drawn` counts the cells drawn, each once on every scan line of its row. -/
structure Scan where
  geometry : Option Geometry
  glyphHeight : Option Nat
  cursor : Cursor
  drawn : Nat
  deriving DecidableEq, Repr

/-- A glyph write on its way to the Video Generator (R136). -/
structure GlyphWrite where
  number : Nat
  lines : Glyph
  deriving DecidableEq, Repr

/-- The Video Generator (R134). `scan` is none between frames. -/
structure VideoGenerator where
  glyphs : Tab Glyph
  palette : Vector Colour 16
  pens : Vector Pen 32
  glyphHeight : Option Nat
  cursor : Cursor
  cursorChanges : List Cursor
  frameNumber : Half
  blinkHalf : Nat
  blinkCounter : Nat
  blinkPhase : Bool
  shown : Bool
  scan : Option Scan
  glyphWrite : Option GlyphWrite
  deriving DecidableEq, Repr

/-! ### Control Unit -/

/-- Device state (R189). -/
inductive DeviceState where
  | stopped | loading | running | stopping
  deriving DecidableEq, Repr

/-- Last start outcome (R183, DEVICE_STATUS). -/
inductive StartOutcome where
  | none | done | geometry | glyphHeight | blink | ring | pen | fetchFault | fontFault | stopped
  deriving DecidableEq, Repr

/-- How far the Setup Loader is (R172). -/
inductive LoaderStage where
  | idle
  | setup
  | font (glyph : Nat)
  deriving DecidableEq, Repr

/-- The Control Unit with the Setup Loader (12.4). `block` is the setup block as read. `ringReports` and
`overlayReports` are the reports sent to it and not yet taken (R166, R193). -/
structure ControlUnit where
  device : DeviceState
  setupAddress : Word
  lastStart : StartOutcome
  ignored : Bool
  stage : LoaderStage
  block : List Word
  loaderInput : Option LoaderInput
  ringReports : List RingId
  overlayReports : Nat
  deriving DecidableEq, Repr

/-! ### The whole machine -/

/-- The state of the MQ-460. `resetHeld` says that RESET is asserted (R194). `freeCount` counts the uses of a free value
(log entry 4); `pending` is the queue of commands that wait, first in, first out. -/
structure State where
  ports : PerRing PortUnit
  probe : Probe
  rings : PerRing RingUnit
  memory : MemoryMaster
  quote : QuoteEngine
  field : FieldUnit
  highlight : HighlightTimer
  plane : PlaneController
  video : VideoGenerator
  control : ControlUnit
  resetHeld : Bool
  freeCount : Nat
  pending : List Instr
  deriving DecidableEq, Repr

/-! ### Hardware reset -/

/-- A port after reset (R194). -/
def PortUnit.reset : PortUnit := ⟨0, 0, 0, []⟩

/-- A Ring Unit after reset (R147, R159, R167). -/
def RingUnit.reset : RingUnit where
  base := 0
  lengthCode := 0
  index := 0
  state := .off
  phase := .idle
  inFlight := .none
  applied := 0
  duplicate := 0
  stale := 0
  rejected := 0
  haltReason := .none
  silenceCounter := 0
  silenceLimit := 0
  input := []
  frames := []

/-- No request from any requester. -/
def Requests.empty : Requests := ⟨⟨none, none, none⟩, none⟩

/-- The Memory Master after reset (R168, R176). -/
def MemoryMaster.reset : MemoryMaster := ⟨none, Requests.empty, Requests.empty, .a⟩

/-- The Quote Engine after reset (R19). -/
def QuoteEngine.reset : QuoteEngine := ⟨[], [], [], none⟩

/-- The sweep after reset (R125). -/
def Sweep.reset : Sweep := ⟨false, 0, false, false, 0, .none⟩

/-- The Field Unit after reset (R66, R132, R191). -/
def FieldUnit.reset : FieldUnit := ⟨[], [], 0, Sweep.reset, [], none, none⟩

/-- The Highlight Timer after reset (R81). -/
def HighlightTimer.reset : HighlightTimer := ⟨[], #v[0, 0, 0, 0], 0, [], []⟩

/-- The Plane Controller after reset (R98, R119). -/
def PlaneController.reset : PlaneController := ⟨none, [], [], [], []⟩

/-- A pen after reset (R69). -/
def Pen.reset : Pen := ⟨0, 0, .steady, false, false⟩

/-- The cursor after reset (R143). -/
def Cursor.reset : Cursor := ⟨0, 0, .off⟩

/-- The Video Generator after reset (R134). -/
def VideoGenerator.reset : VideoGenerator where
  glyphs := []
  palette := Vector.replicate 16 ⟨0, 0, 0⟩
  pens := Vector.replicate 32 Pen.reset
  glyphHeight := none
  cursor := Cursor.reset
  cursorChanges := []
  frameNumber := 0
  blinkHalf := 0
  blinkCounter := 0
  blinkPhase := false
  shown := false
  scan := none
  glyphWrite := none

/-- The Control Unit after reset (R194). -/
def ControlUnit.reset : ControlUnit := ⟨.stopped, 0, .none, false, .idle, [], none, [], 0⟩

/-- The machine right after hardware reset. -/
def State.reset : State where
  ports := ⟨PortUnit.reset, PortUnit.reset, PortUnit.reset⟩
  probe := ⟨.none, 0⟩
  rings := ⟨RingUnit.reset, RingUnit.reset, RingUnit.reset⟩
  memory := MemoryMaster.reset
  quote := QuoteEngine.reset
  field := FieldUnit.reset
  highlight := HighlightTimer.reset
  plane := PlaneController.reset
  video := VideoGenerator.reset
  control := ControlUnit.reset
  resetHeld := false
  freeCount := 0
  pending := []

end Sys2Proof.Machine
end

