-- ==== Sys2Proof/Machine/Ops.lean ====
section
/-! DEFINITION. The named operations over the stores and the message paths of the MQ-460: sparse tables, the three
ring- and port-indexed units, bytes of a word, and the sending of a request from one block to another. A request is
sent by joining the end of the requests its taker holds (log entry 1). -/

namespace Sys2Proof.Machine

/-! ### Sparse tables -/

/-- The listed content of a number, or `d`. -/
def Tab.find {α : Type} (d : α) : Tab α → Nat → α
  | [], _ => d
  | (k, v) :: rest, n => if k = n then v else Tab.find d rest n

/-- Put a content at a number, keeping the canonical form: `d` itself is not listed. -/
def Tab.put {α : Type} [DecidableEq α] (d : α) : Tab α → Nat → α → Tab α
  | [], n, v => if v = d then [] else [(n, v)]
  | (k, w) :: rest, n, v =>
    if n < k then (if v = d then (k, w) :: rest else (n, v) :: (k, w) :: rest)
    else if n = k then (if v = d then rest else (n, v) :: rest)
    else (k, w) :: Tab.put d rest n v

/-- Read entry `n` of a store; a number the store does not have reads as the unlisted contents. -/
def Tab.get {α : Type} (T : TabSpec α) (t : Tab α) (n : Nat) : α := if n < T.size then Tab.find T.dflt t n else T.dflt

/-- Write entry `n` of a store; a number the store does not have is not written. -/
def Tab.set {α : Type} [DecidableEq α] (T : TabSpec α) (t : Tab α) (n : Nat) (v : α) : Tab α :=
  if n < T.size then Tab.put T.dflt t n v else t

/-- The canonical form: numbers strictly rising and below the size, no entry equal to the unlisted contents. -/
abbrev Tab.WF {α : Type} (T : TabSpec α) (t : Tab α) : Prop :=
  t.Pairwise (fun x y => x.1 < y.1) ∧ ∀ e ∈ t, e.1 < T.size ∧ e.2 ≠ T.dflt

/-- Change every listed content by `f`, keeping the canonical form. -/
def Tab.mapListed {α : Type} [DecidableEq α] (T : TabSpec α) (f : α → α) (t : Tab α) : Tab α :=
  (t.map fun e => (e.1, f e.2)).filter fun e => decide (e.2 ≠ T.dflt)

/-- A store holding `v` in each of its first `n` entries. -/
def Tab.filled {α : Type} [DecidableEq α] (T : TabSpec α) (v : α) : Tab α :=
  if v = T.dflt then [] else (List.range T.size).map fun n => (n, v)

/-- Instrument table: 256 slots (R1). -/
def slotSpec : TabSpec Slot := ⟨256, Slot.cleared⟩

/-- Bucket heads: 128 (R5). -/
def headSpec : TabSpec (Option Nat) := ⟨128, none⟩

/-- Field table: 512 records (R42). -/
def fieldSpec : TabSpec FieldRec := ⟨512, FieldRec.cleared⟩

/-- Occupancy map: one entry for each cell of the store (R44). -/
def occSpec : TabSpec (Option Nat) := ⟨6144, none⟩

/-- Cell plane: 6144 cells, glyph 0 with pen 0 after reset (R85, R98). -/
def cellSpec : TabSpec CellValue := ⟨6144, ⟨0, 0⟩⟩

/-- Save area: 3072 slots (R102). -/
def saveSpec : TabSpec CellValue := ⟨3072, ⟨0, 0⟩⟩

/-- Glyph store: 512 glyphs, every dot clear after reset (R134, R135). -/
def glyphSpec : TabSpec Glyph := ⟨512, Vector.replicate 16 0⟩

/-! ### The three rings and ports -/

/-- The value of one of A, B, T. -/
def PerRing.get {α : Type} (x : PerRing α) : RingId → α
  | .a => x.a
  | .b => x.b
  | .t => x.t

/-- Replace the value of one of A, B, T. -/
def PerRing.set {α : Type} (x : PerRing α) (r : RingId) (v : α) : PerRing α :=
  match r with
  | .a => ⟨v, x.b, x.t⟩
  | .b => ⟨x.a, v, x.t⟩
  | .t => ⟨x.a, x.b, v⟩

/-- Is the ring a feed ring (Ring A or Ring B)? -/
def isFeed : RingId → Bool
  | .a => true
  | .b => true
  | .t => false

/-- The ring that follows in the round robin (R171). -/
def nextRing : RingId → RingId
  | .a => .b
  | .b => .t
  | .t => .a

/-- Change one Ring Unit. -/
def State.modRing (s : State) (r : RingId) (f : RingUnit → RingUnit) : State :=
  { s with rings := s.rings.set r (f (s.rings.get r)) }

/-- Change one port. -/
def State.modPort (s : State) (p : Port) (f : PortUnit → PortUnit) : State :=
  { s with ports := s.ports.set p (f (s.ports.get p)) }

/-- The request of one requester. -/
def Requests.get (x : Requests) : Requester → Option Transaction
  | .ring r => x.rings.get r
  | .loader => x.loader

/-- Replace the request of one requester. -/
def Requests.set (x : Requests) (q : Requester) (v : Option Transaction) : Requests :=
  match q with
  | .ring r => { x with rings := x.rings.set r v }
  | .loader => { x with loader := v }

/-! ### Bytes of a word (R169, 11: little-endian) -/

/-- Byte `k` of a word, as a number 0..255. -/
def byteOf (w : Word) (k : Nat) : Nat := w.toNat / 2 ^ (8 * k) % 256

/-- Half `k` of a word, as a number 0..65535. -/
def halfOf (w : Word) (k : Nat) : Nat := w.toNat / 2 ^ (16 * k) % 65536

/-- A word from its four bytes, byte 0 first; each is taken modulo 256. -/
def ofBytes (b0 b1 b2 b3 : Nat) : Word :=
  BitVec.ofNat 32 (b0 % 256 + 256 * (b1 % 256) + 65536 * (b2 % 256) + 16777216 * (b3 % 256))

/-- A word from its two halves, the low half first. -/
def ofHalves (lo hi : Nat) : Word := BitVec.ofNat 32 (lo % 65536 + 65536 * (hi % 65536))

/-- The value of a field of a port register: bits `lo` to `lo + n - 1`. -/
def bitsOf (v : Half) (lo n : Nat) : Nat := v.toNat / 2 ^ lo % 2 ^ n

/-- A vector of `n` values given by their numbers. -/
def tabulate {α : Type} (n : Nat) (f : Nat → α) : Vector α n := ⟨⟨(List.range n).map f⟩, by simp⟩

/-! ### Sending -/

/-- Send an attention cause to the Attention Unit of a port (R187). -/
def State.sendCause (s : State) (p : Port) (c : Cause) : State :=
  s.modPort p fun u => { u with causes := u.causes ++ [c] }

/-- Send the Quote Engine a request (R7). -/
def State.sendQuote (s : State) (q : QuoteRequest) : State :=
  { s with quote := { s.quote with inbox := s.quote.inbox ++ [q] } }

/-- Send the Field Unit requests, in the order given (R46). -/
def State.sendFields (s : State) (qs : List FieldRequest) : State :=
  { s with field := { s.field with inbox := s.field.inbox ++ qs } }

/-- Send the Field Unit one request (R46). -/
def State.sendField (s : State) (q : FieldRequest) : State := s.sendFields [q]

/-- Send the Plane Controller requests, in the order given (R86). -/
def State.sendPlanes (s : State) (qs : List PlaneRequest) : State :=
  { s with plane := { s.plane with inbox := s.plane.inbox ++ qs } }

/-- Send the Highlight Timer an arm or remove request (R75). -/
def State.sendHighlight (s : State) (q : HighlightRequest) : State :=
  { s with highlight := { s.highlight with requests := s.highlight.requests ++ [q] } }

/-- Return something to a Ring Unit (R153, R175). -/
def State.sendRing (s : State) (r : RingId) (i : RingInput) : State :=
  s.modRing r fun u => { u with input := u.input ++ [i] }

/-- Return an outcome to Ring T (R153). -/
def State.completeCommand (s : State) (st : Status) (result : Word) : State := s.sendRing .t (.outcome st result)

/-- Send the Memory Master a request (R168). -/
def State.sendMemory (s : State) (q : Requester) (tx : Transaction) : State :=
  { s with memory := { s.memory with sent := s.memory.sent.set q (some tx) } }

/-! ### What other blocks read -/

/-- A slot of the instrument table (R1). -/
def State.slot (s : State) (i : Nat) : Slot := s.quote.slots.get slotSpec i

/-- A record of the field table (R42). -/
def State.record (s : State) (f : Nat) : FieldRec := s.field.records.get fieldSpec f

/-- Replace a slot of the instrument table. -/
def State.setSlot (s : State) (i : Nat) (v : Slot) : State :=
  { s with quote := { s.quote with slots := s.quote.slots.set slotSpec i v } }

/-- Replace a record of the field table. -/
def State.setRecord (s : State) (f : Nat) (v : FieldRec) : State :=
  { s with field := { s.field with records := s.field.records.set fieldSpec f v } }

/-- The number of columns; 0 while the geometry is none (R84). -/
def State.columns (s : State) : Nat := (s.plane.geometry.map Geometry.columns).getD 0

/-- The number of rows; 0 while the geometry is none (R84). -/
def State.rows (s : State) : Nat := (s.plane.geometry.map Geometry.rows).getD 0

/-- Is the device RUNNING? -/
def State.running (s : State) : Bool := decide (s.control.device = .running)

/-- Is an overlay operation under way (R103, R116)? -/
def State.overlayBusy (s : State) : Bool :=
  s.plane.stack.any fun o => match o.state with
    | .opened => false
    | .opening _ => true
    | .closing _ => true

/-! ### Ring state and transactions (shared by Sections 9 and 12) -/

/-- The terminal memory address of the descriptor at the index (R148). -/
def RingUnit.descriptorAddress (u : RingUnit) : Nat := u.base.toNat + 64 * u.index

/-- The number of descriptors of the ring (R148). -/
def RingUnit.length (u : RingUnit) : Nat := 4 * 2 ^ u.lengthCode.val

/-- Change of a ring's state with all that goes with it: FEED on the Terminal Port for Ring A and Ring B, a sweep
trigger when the change enters or leaves ON (R158), and the report to the Control Unit when the ring becomes OFF or
HALTED (R166). -/
def State.changeRing (s : State) (r : RingId) (new : RingState) : State :=
  let old := (s.rings.get r).state
  let s := s.modRing r fun u => { u with state := new }
  let s := if isFeed r && decide (old ≠ new) then s.sendCause .t .feed else s
  let s := if decide (old ≠ new) && (decide (old = .on) || decide (new = .on)) then s.sendField .trigger else s
  if decide (new = .off) || decide (new = .halted) then
    { s with control := { s.control with ringReports := s.control.ringReports ++ [r] } }
  else s

/-- Enter READY and, in the same event, ask for the status read and enter STATUS (R150). -/
def State.enterReady (s : State) (r : RingId) : State :=
  (s.modRing r fun u => { u with phase := .status }).sendMemory (.ring r)
    ⟨.statusRead r, (s.rings.get r).descriptorAddress, 0, [], .requesting⟩

end Sys2Proof.Machine
end

