-- ==== Sys2Proof/Machine/Operands.lean ====
section
/-! DEFINITION. The operand forms: the descriptor header, pairs and command parameters (11.1 to 11.4), the 16-bit
encodings of cells, pens and palette entries (11.5), the setup block and the font (11.6), and the result words. -/

namespace Sys2Proof.Machine

/-! ### 16-bit encodings (R180) -/

/-- A cell value: glyph code in bits 0..8, pen number in bits 9..13; bits 14 and 15 are not kept. -/
def cellOf (h : Nat) : CellValue := ⟨BitVec.ofNat 9 h, BitVec.ofNat 5 (h / 512)⟩

/-- Blink class by its two bits; 3 is invalid. -/
def blinkOf : Nat → Option BlinkClass
  | 0 => some .steady
  | 1 => some .phase0
  | 2 => some .phase1
  | _ => none

/-- A pen; none for blink class 3. Bits 12 to 15 are not kept. -/
def penOf (h : Nat) : Option Pen :=
  (blinkOf (h / 256 % 4)).map fun b =>
    ⟨BitVec.ofNat 4 h, BitVec.ofNat 4 (h / 16), b, decide (h / 1024 % 2 = 1), decide (h / 2048 % 2 = 1)⟩

/-- A palette entry: blue in bits 0..3, green in 4..7, red in 8..11. -/
def colourOf (h : Nat) : Colour := ⟨BitVec.ofNat 4 (h / 256), BitVec.ofNat 4 (h / 16), BitVec.ofNat 4 h⟩

/-! ### Descriptor header (R177) -/

/-- Word `k` of a descriptor. -/
def Descriptor.word (d : Descriptor) (k : Nat) : Word := (d.word0 :: d.body).getD k 0

/-- Byte `k` of word `w`. -/
def Descriptor.byte (d : Descriptor) (w k : Nat) : Nat := byteOf (d.word w) k

/-- Half `k` of word `w`. -/
def Descriptor.half (d : Descriptor) (w k : Nat) : Nat := halfOf (d.word w) k

/-- Ownership flag of a word 0: bit 7 of the status byte. -/
def ownedWord (w0 : Word) : Bool := w0.getLsbD 7

/-- The kind byte. -/
def Descriptor.kind (d : Descriptor) : Nat := d.byte 0 1

/-- The pair count: bits 0..2 of the count/flags byte, 0 to 7. -/
def Descriptor.pairCount (d : Descriptor) : Nat := d.byte 0 2 % 8

/-- NOTIFY: bit 7 of the count/flags byte. -/
def Descriptor.notify (d : Descriptor) : Bool := d.word0.getLsbD 23

/-- The condition byte. -/
def Descriptor.conditionByte (d : Descriptor) : Nat := d.byte 0 3

/-- The key. -/
def Descriptor.key (d : Descriptor) : Word := d.word 1

/-- The sequence: bytes 0 to 2 of word 2. -/
def Descriptor.sequence (d : Descriptor) : BitVec 24 := (d.word 2).setWidth 24

/-- The upper byte of the sequence word. -/
def Descriptor.sequenceUpper (d : Descriptor) : Nat := d.byte 2 3

/-! ### Pairs (R178) -/

/-- A pair whose item and scale are in range. -/
structure Pair where
  item : Fin 8
  scale : Fin 7
  value : Word
  deriving DecidableEq, Repr

/-- Pair `k`, counted from 0: words 2k+4 and 2k+5. None when the item is above 7 or the scale above 6. -/
def Descriptor.pair (d : Descriptor) (k : Nat) : Option Pair :=
  if hi : d.byte (2 * k + 4) 0 < 8 then
    if hs : d.byte (2 * k + 4) 1 < 7 then some ⟨⟨_, hi⟩, ⟨_, hs⟩, d.word (2 * k + 5)⟩ else none
  else none

/-- Pairs `k` to `k + n - 1`; none when one of them is out of range. -/
def Descriptor.pairsFrom (d : Descriptor) : Nat → Nat → Option (List Pair)
  | _, 0 => some []
  | k, n + 1 =>
    match d.pair k, d.pairsFrom (k + 1) n with
    | some p, some ps => some (p :: ps)
    | _, _ => none

/-- The pairs that the pair count names, if they are all in range and no two name the same item (R23, 4 to 6). -/
def Descriptor.pairs (d : Descriptor) : Option (List Pair) :=
  match d.pairsFrom 0 d.pairCount with
  | some ps => if (ps.map Pair.item).Nodup then some ps else none
  | none => none

/-- The condition that a condition byte stands for in SNAPSHOT and CONDITION (R23). -/
def conditionOf : Nat → Option Condition
  | 1 => some .trading
  | 2 => some .paused
  | _ => none

/-! ### Command parameters (R179) -/

/-- A source mask byte; none when it is empty or has a bit set among 3 to 7 (R10, R13). -/
def maskOf (b : Nat) : Option (PerRing Bool) :=
  if b = 0 ∨ 8 ≤ b then none
  else some ⟨decide (b % 2 = 1), decide (b / 2 % 2 = 1), decide (b / 4 % 2 = 1)⟩

/-- A colour rule code. -/
def ruleOf : Nat → Option ColourRule
  | 0 => some .plain
  | 1 => some .sign
  | 2 => some .tick
  | _ => none

/-- A field pen byte; none above 31. -/
def penNumberOf (b : Nat) : Option (BitVec 5) := if b < 32 then some (BitVec.ofNat 5 b) else none

/-- The style that BIND_FIELD and STYLE_FIELD carry; none when the display places, colour rule, hold class, a pen
or the flags are out of range (R51, R59). -/
def Descriptor.style (d : Descriptor) : Option Style :=
  if hp : d.byte 5 2 < 7 then
    if hh : d.byte 6 0 < 4 then
      match ruleOf (d.byte 5 3), penNumberOf (d.byte 7 0), penNumberOf (d.byte 7 1), penNumberOf (d.byte 7 2),
        penNumberOf (d.byte 7 3) with
      | some rule, some p0, some p1, some p2, some p3 =>
        if d.byte 6 1 < 8 then
          some ⟨⟨_, hp⟩, rule, ⟨_, hh⟩, p0, p1, p2, p3, decide (d.byte 6 1 % 2 = 1),
            decide (d.byte 6 1 / 2 % 2 = 1), decide (d.byte 6 1 / 4 % 2 = 1)⟩
        else none
      | _, _, _, _, _ => none
    else none
  else none

/-- The field number of a field command, 16 bits. -/
def Descriptor.fieldNumber (d : Descriptor) : Nat := d.half 4 0

/-- The item of BIND_FIELD; none above 7. -/
def Descriptor.item (d : Descriptor) : Option (Fin 8) := if h : d.byte 4 2 < 8 then some ⟨_, h⟩ else none

/-- The width of BIND_FIELD and MOVE_FIELD. -/
def Descriptor.fieldWidth (d : Descriptor) : Nat := d.byte 4 3

/-- The row of BIND_FIELD and MOVE_FIELD. -/
def Descriptor.fieldRow (d : Descriptor) : Nat := d.byte 5 0

/-- The column of BIND_FIELD and MOVE_FIELD. -/
def Descriptor.fieldCol (d : Descriptor) : Nat := d.byte 5 1

/-- The blank flag of UNBIND_FIELD: set for any value but 0. -/
def Descriptor.blankFlag (d : Descriptor) : Bool := decide (d.byte 4 2 ≠ 0)

/-- The blank cell of UNBIND_FIELD and MOVE_FIELD. -/
def Descriptor.blankCell (d : Descriptor) : CellValue := cellOf (d.half 8 0)

/-- What BIND_FIELD carries when it passes check 1 of R51: item, width and style. -/
def Descriptor.bindForm (d : Descriptor) : Option (Fin 8 × Style) :=
  match d.item, d.style with
  | some i, some st => if 1 ≤ d.fieldWidth ∧ d.fieldWidth ≤ 20 then some (i, st) else none
  | _, _ => none

/-- The layer of a text command (R179). -/
inductive Layer where
  | base | top
  deriving DecidableEq, Repr

/-- A layer code. -/
def layerOf : Nat → Option Layer
  | 0 => some .base
  | 1 => some .top
  | _ => none

/-- Cell `j` of WRITE_CELLS, counted from 0: the low half of word 4 first. -/
def Descriptor.textCell (d : Descriptor) (j : Nat) : CellValue := cellOf (d.half (4 + j / 2) (j % 2))

/-- A cursor mode code. -/
def cursorModeOf : Nat → Option CursorMode
  | 0 => some .off
  | 1 => some .steady
  | 2 => some .blink
  | _ => none

/-- The number of a cursor mode (R97). -/
def CursorMode.code : CursorMode → Nat
  | .off => 0
  | .steady => 1
  | .blink => 2

/-! ### Status codes and word 0 at write-back (11.1, R154) -/

/-- The code of a status (11.1). -/
def Status.code : Status → Nat
  | .applied => 1
  | .appliedGap => 2
  | .duplicate => 3
  | .stale => 4
  | .noKey => 5
  | .notSource => 6
  | .badForm => 7
  | .done => 8
  | .tableFull => 9
  | .existing => 10
  | .notFound => 11
  | .hasBindings => 12
  | .bindingsFull => 13
  | .fieldInUse => 14
  | .notBound => 15
  | .outOfRange => 16
  | .overlap => 17
  | .noOverlay => 18
  | .stackFull => 19
  | .saveFull => 20
  | .wrongPort => 21

/-- Word 0 as written back: the outcome's code with the ownership flag clear, the other bytes as fetched. -/
def backWord (w0 : Word) (st : Status) : Word := ofBytes st.code (byteOf w0 1) (byteOf w0 2) (byteOf w0 3)

/-! ### Result words (11.3) -/

/-- The number of a field state in a result word and in the probe. -/
def FieldState.code : FieldState → Nat
  | .free => 0
  | .bound => 1
  | .suspended => 2

/-- The result word of a field command (R50). -/
def fieldResult (f slot : Nat) (st : FieldState) : Word := ofBytes (f % 256) (f / 256) slot st.code

/-! ### The setup block and the font (R181, R182) -/

/-- Byte `n` of the setup block. -/
def setupByte (ws : List Word) (n : Nat) : Nat := byteOf (ws.getD (n / 4) 0) (n % 4)

/-- The half-word at byte `n` of the setup block. -/
def setupHalf (ws : List Word) (n : Nat) : Nat := setupByte ws n + 256 * setupByte ws (n + 1)

/-- The greatest multiple of `m` not above an address: its low bits taken as zero, for `m` a power of two. -/
def alignDown (m : Nat) (a : Nat) : Nat := a - a % m

/-- Columns and rows of the setup block. -/
def setupGeometry (ws : List Word) : Geometry := ⟨setupByte ws 0, setupByte ws 1⟩

/-- FONT_LOAD: bit 0 of the flags byte. -/
def setupFontLoad (ws : List Word) : Bool := decide (setupByte ws 7 % 2 = 1)

/-- The absent glyph: bits 0 to 8. -/
def setupAbsentGlyph (ws : List Word) : BitVec 9 := BitVec.ofNat 9 (setupHalf ws 8)

/-- Ring T base, low 6 bits taken as zero. -/
def setupRingBase (ws : List Word) : Word := BitVec.ofNat 32 (alignDown 64 (ws.getD 3 0).toNat)

/-- The font address, low 4 bits taken as zero. -/
def setupFontAddress (ws : List Word) : Nat := alignDown 16 (ws.getD 4 0).toNat

/-- The four hold durations. -/
def setupHolds (ws : List Word) : Vector Nat 4 :=
  #v[setupByte ws 20, setupByte ws 21, setupByte ws 22, setupByte ws 23]

/-- Palette entry `n` lies at byte 24 + 2n. -/
def setupPalette (ws : List Word) : Vector Colour 16 := tabulate 16 fun n => colourOf (setupHalf ws (24 + 2 * n))

/-- Pen `n` lies at byte 56 + 2n; none for blink class 3. -/
def setupPen (ws : List Word) (n : Nat) : Option Pen := penOf (setupHalf ws (56 + 2 * n))

/-- The 32 pens. The check of R190 has refused blink class 3 before they are used. -/
def setupPens (ws : List Word) : Vector Pen 32 := tabulate 32 fun n => (setupPen ws n).getD Pen.reset

/-- The 16 lines of a glyph from its four words: line 4j + k is byte k of word j. -/
def glyphOf (ws : List Word) : Glyph := tabulate 16 fun n => BitVec.ofNat 8 (byteOf (ws.getD (n / 4) 0) (n % 4))

/-- The setup checks of R190, in their order: the reason of the first that fails. -/
def setupFailure (ws : List Word) : Option StartOutcome :=
  let cols := setupByte ws 0
  let rows := setupByte ws 1
  if cols < 32 ∨ 128 < cols ∨ rows < 8 ∨ 48 < rows ∨ 6144 < cols * rows then some .geometry
  else if setupByte ws 2 < 8 ∨ 16 < setupByte ws 2 then some .glyphHeight
  else if setupByte ws 3 < 2 then some .blink
  else if 6 < setupByte ws 6 then some .ring
  else if (List.range 32).any (fun n => (setupPen ws n).isNone) then some .pen
  else none

/-- The length code of the setup block as a code 0..6. The check of R190 has refused any other. -/
def setupLength (ws : List Word) : Fin 7 := if h : setupByte ws 6 < 7 then ⟨_, h⟩ else 0

end Sys2Proof.Machine
end

