-- ==== Sys2Proof/Machine/Flags.lean ====
section
/-! DEFINITION. The computed conditions: sequence comparison and the case tables of arbitration (R26 to R28),
staleness (R17), the class of a status (R161), attention bits and the attention line (R187, R188). -/

namespace Sys2Proof.Machine

/-! ### Sequence arbitration -/

/-- The four results of a sequence comparison (R26). -/
inductive SeqCompare where
  | equal | inOrder | gap | older
  deriving DecidableEq, Repr

/-- Compare a descriptor's sequence with the last sequence, modulo 2^24 (R26). -/
def compareSeq (seq last : BitVec 24) : SeqCompare :=
  let d := (seq - last).toNat
  if d = 0 then .equal else if d = 1 then .inOrder else if d < 8388608 then .gap else .older

/-- What step 4 of an apply decides (R22): accepted with a new sequence state, or refused. -/
inductive Verdict where
  | accept (new : SeqState) (st : Status)
  | refuse (st : Status)
  deriving DecidableEq, Repr

/-- The case table for UPDATE and CONDITION (R27). -/
def arbitrateUpdate : SeqState → SeqCompare → Verdict
  | .unsequenced, _ => .accept .gapped .appliedGap
  | .synced, .equal => .refuse .duplicate
  | .synced, .inOrder => .accept .synced .applied
  | .synced, .gap => .accept .gapped .appliedGap
  | .synced, .older => .refuse .stale
  | .gapped, .equal => .refuse .duplicate
  | .gapped, .inOrder => .accept .gapped .applied
  | .gapped, .gap => .accept .gapped .appliedGap
  | .gapped, .older => .refuse .stale

/-- The case table for SNAPSHOT (R28). -/
def arbitrateSnapshot : SeqState → SeqCompare → Verdict
  | .unsequenced, _ => .accept .synced .applied
  | .synced, .equal => .refuse .duplicate
  | .synced, .inOrder => .accept .synced .applied
  | .synced, .gap => .accept .synced .applied
  | .synced, .older => .refuse .stale
  | .gapped, _ => .accept .synced .applied

/-! ### Staleness -/

/-- Is some ring named by the mask live, that is ON (R17, R18)? -/
def someLive (mask : PerRing Bool) (rings : PerRing RingUnit) : Bool :=
  (mask.a && decide (rings.a.state = .on)) || (mask.b && decide (rings.b.state = .on)) ||
    (mask.t && decide (rings.t.state = .on))

/-- Is the instrument of a slot stale (R17)? -/
def isStale (v : Slot) (rings : PerRing RingUnit) : Bool :=
  decide (v.condition = .paused) || decide (v.seqState ≠ .synced) || !someLive v.sources rings

/-! ### Outcome classes -/

/-- The four outcome counters (R161). -/
inductive Counter where
  | applied | duplicate | stale | rejected
  deriving DecidableEq, Repr

/-- The counter that a status code names (R161). -/
def Status.counter : Status → Counter
  | .applied | .appliedGap | .done => .applied
  | .duplicate => .duplicate
  | .stale => .stale
  | .noKey | .notSource | .badForm | .tableFull | .existing | .notFound | .hasBindings | .bindingsFull | .fieldInUse
  | .notBound | .outOfRange | .overlap | .noOverlay | .stackFull | .saveFull | .wrongPort => .rejected

/-- Read a counter. -/
def RingUnit.counter (u : RingUnit) : Counter → Half
  | .applied => u.applied
  | .duplicate => u.duplicate
  | .stale => u.stale
  | .rejected => u.rejected

/-- Write a counter. -/
def RingUnit.setCounter (u : RingUnit) (c : Counter) (v : Half) : RingUnit :=
  match c with
  | .applied => { u with applied := v }
  | .duplicate => { u with duplicate := v }
  | .stale => { u with stale := v }
  | .rejected => { u with rejected := v }

/-- Count an outcome, modulo 65536 (R161). -/
def RingUnit.count (u : RingUnit) (st : Status) : RingUnit := u.setCounter st.counter (u.counter st.counter + 1)

/-! ### Attention -/

/-- The bit of a cause in the sets of its port (R187). -/
def Cause.bit : Cause → Nat
  | .done => 0
  | .reject => 1
  | .gap => 2
  | .silent => 3
  | .feed => 3
  | .halt => 4
  | .resync => 5
  | .overflow => 5
  | .device => 6
  | .startDone => 6
  | .stopDone => 7

/-- The bits that name a cause on a port: a feed port has no bit 7 (R187). -/
def causeMask : Port → BitVec 8
  | .a => 0x7F
  | .b => 0x7F
  | .t => 0xFF

/-- The attention line of a port: asserted exactly when some cause is both pending and enabled (R188). -/
def PortUnit.line (u : PortUnit) : Bool := decide (u.attnPending &&& u.attnEnable ≠ 0)

/-- The attention line of a port (R188). -/
def State.attentionLine (s : State) (p : Port) : Bool := (s.ports.get p).line

end Sys2Proof.Machine
end

