-- ==== Sys2Proof/Machine/Formatter.lean ====
section
/-! DEFINITION. The formatter (R61 to R65), pen selection (R71, R72), and normalisation (R30). -/

namespace Sys2Proof.Machine

/-- The value of an item brought to scale 6: value × 10^(6 − scale) (R30). -/
def Item.normalised (i : Item) : Int := i.value.toInt * 10 ^ (6 - i.scale.val)

/-- The magnitude of an item shifted from its scale to the display places; division truncates (R62). -/
def Item.shifted (i : Item) (places : Nat) : Nat :=
  if places < i.scale.val then i.value.toInt.natAbs / 10 ^ (i.scale.val - places)
  else i.value.toInt.natAbs * 10 ^ (places - i.scale.val)

/-- The decimal digits of a number, most significant first, put before `acc`; none for 0. The first argument bounds
the number of digits. -/
def decimal : Nat → Nat → List Nat → List Nat
  | 0, _, acc => acc
  | k + 1, m, acc => if m = 0 then acc else decimal k (m / 10) (m % 10 :: acc)

/-- The digits of a shifted magnitude with leading zeros up to `places + 1` digits (R63, step 1). The largest shifted
magnitude has 16 digits (R62). -/
def paddedDigits (m places : Nat) : List Nat :=
  let ds := decimal 20 m []
  List.replicate (places + 1 - ds.length) 0 ++ ds

/-- The glyph code of a digit (R61). -/
def digitGlyph (d : Nat) : BitVec 9 := BitVec.ofNat 9 (48 + d)

/-- The sign of the text (R63, step 3). -/
def signGlyphs (v : Int) (m : Nat) (plus : Bool) : List (BitVec 9) :=
  if v < 0 ∧ m ≠ 0 then [45] else if 0 < v ∧ plus then [43] else []

/-- Fit the text to the width: `head` is the sign and integer digits, `frac` the fraction digits, and up to the given
number of fraction digits may be dropped from the right, the point going with the last (R64). -/
def fitText (width : Nat) (head : List (BitVec 9)) : Nat → List (BitVec 9) → Option (List (BitVec 9))
  | n, frac =>
    let text := head ++ (if frac = [] then [] else 46 :: frac)
    if text.length ≤ width then some (List.replicate (width - text.length) 32 ++ text)
    else match n with
      | 0 => none
      | k + 1 => fitText width head k frac.dropLast

/-- What the formatter gives: exactly `width` glyph codes, and whether the render is an overflow fill (R65). -/
structure Formatted where
  glyphs : List (BitVec 9)
  overflow : Bool
  deriving DecidableEq, Repr

/-- The formatter on a present item that is not blanked (R62 to R65). -/
def formatPresent (i : Item) (width : Nat) (st : Style) : Formatted :=
  let p := st.places.val
  let m := i.shifted p
  let ds := (paddedDigits m p).map digitGlyph
  let whole := ds.take (ds.length - p)
  let frac := ds.drop (ds.length - p)
  match fitText width (signGlyphs i.value.toInt m st.plus ++ whole) (if st.squeeze then frac.length else 0) frac with
  | some g => ⟨g, false⟩
  | none => ⟨List.replicate width 35, true⟩

/-- The formatter (R61 to R65). -/
def format (i : Option Item) (width : Nat) (st : Style) (absent : BitVec 9) : Formatted :=
  match i with
  | none => ⟨List.replicate (width - 1) 32 ++ [absent], false⟩
  | some v =>
    if v.value = 0 ∧ st.blankZero then ⟨List.replicate width 32, false⟩ else formatPresent v width st

/-- The pen of a render (R71, R72): staleness outranks the colour rule, and a fresh field whose item is absent takes its
STEADY pen whatever the rule. -/
def selectPen (st : Style) (stale : Bool) (tick : Tick) (i : Option Item) : BitVec 5 :=
  if stale then st.stalePen
  else match st.rule with
    | .plain => st.steadyPen
    | .sign =>
      match i with
      | none => st.steadyPen
      | some v => if 0 < v.value.toInt then st.upPen else if v.value.toInt < 0 then st.downPen else st.steadyPen
    | .tick =>
      match i, tick with
      | none, _ => st.steadyPen
      | some _, .up => st.upPen
      | some _, .down => st.downPen
      | some _, .steady => st.steadyPen

end Sys2Proof.Machine
end

