-- ==== Sys2Proof/Machine/Highlight.lean ====
section
/-! DEFINITION. The Highlight Timer's queue (Section 4.5). The commands that take its requests are in Field.lean's
neighbour HighlightSteps.lean, because a Field Unit event ends when its requests here have been taken (R75). -/

namespace Sys2Proof.Machine

/-- Remaining frames of an entry: expiry frame minus the current frame number, modulo 65536 (R74). -/
def HighlightTimer.remaining (h : HighlightTimer) (e : HighlightEntry) : Nat := (e.expiry - h.frame).toNat

/-- The entry of a field (R74: at most one). -/
def HighlightTimer.entry (h : HighlightTimer) (f : Nat) : Option HighlightEntry :=
  h.queue.find? fun e => decide (e.field = f)

/-- The queue without the entry of a field, the others in their order (R77). -/
def dropEntry (q : List HighlightEntry) (f : Nat) : List HighlightEntry := q.filter fun e => decide (e.field ≠ f)

/-- Does an entry stand before a new one that is due in `d` frames: EXPIRED, or with `d` or fewer frames left (R76)? -/
def HighlightTimer.before (h : HighlightTimer) (d : Nat) (e : HighlightEntry) : Bool :=
  e.expired || decide (h.remaining e ≤ d)

/-- An arm request taken (R76). -/
def HighlightTimer.arm (h : HighlightTimer) (f : Nat) (hold : Fin 4) : HighlightTimer :=
  let q := dropEntry h.queue f
  let d := h.holds.get hold
  if d = 0 then { h with queue := q }
  else { h with queue := q.takeWhile (h.before d) ++ ⟨f, h.frame + BitVec.ofNat 16 d, false⟩ :: q.dropWhile (h.before d) }

/-- A remove request taken (R77). -/
def HighlightTimer.drop (h : HighlightTimer) (f : Nat) : HighlightTimer := { h with queue := dropEntry h.queue f }

/-- Mark the due entries: EXPIRED entries stay at the front, and WAITING entries after them are marked while their
expiry frame equals `n` (R78). -/
def markDue (n : Half) : List HighlightEntry → List HighlightEntry
  | [] => []
  | e :: rest =>
    if e.expired then e :: markDue n rest
    else if e.expiry = n then { e with expired := true } :: markDue n rest
    else e :: rest

/-- The fields whose expiries are sent at a frame event, earliest first (R78). -/
def dueFields (n : Half) : List HighlightEntry → List Nat
  | [] => []
  | e :: rest =>
    if e.expired then dueFields n rest
    else if e.expiry = n then e.field :: dueFields n rest
    else []

end Sys2Proof.Machine
end

