-- ==== Sys2Proof/Machine/Quote.lean ====
section
/-! DEFINITION. The Quote Engine: lookup, instrument commands, applies, and binding requests (Sections 1 and 2). -/

namespace Sys2Proof.Machine

/-! ### Buckets, chains and lookup (R4 to R6) -/

/-- The bucket of a key: the exclusive-OR of its four bytes, low 7 bits (R4). -/
def bucketOf (key : Word) : Nat := (byteOf key 0 ^^^ byteOf key 1 ^^^ byteOf key 2 ^^^ byteOf key 3) % 128

/-- The slots of a chain from `head` on, by the chain links. The first argument bounds the length: a chain has at most
256 slots (R5). -/
def chainFrom (slots : Tab Slot) : Nat → Option Nat → List Nat
  | 0, _ => []
  | _, none => []
  | k + 1, some i => i :: chainFrom slots k (slots.get slotSpec i).link

/-- The chain of a bucket, head first (R5). -/
def QuoteEngine.chain (q : QuoteEngine) (b : Nat) : List Nat := chainFrom q.slots 256 (q.heads.get headSpec b)

/-- The first slot of a list that holds a key, with the number of slots passed before it (R6, step 3). -/
def findKey (slots : Tab Slot) (key : Word) : List Nat → Nat → Option (Nat × Nat)
  | [], _ => none
  | i :: rest, pos => if (slots.get slotSpec i).key = key then some (i, pos) else findKey slots key rest (pos + 1)

/-- A lookup (R6): the slot and its chain position. A key of zero is never found (R6, R24). -/
def QuoteEngine.lookup (q : QuoteEngine) (key : Word) : Option (Nat × Nat) :=
  if key = 0 then none else findKey q.slots key (q.chain (bucketOf key)) 0

/-- The lowest-numbered FREE slot (R11). -/
def QuoteEngine.lowestFree (q : QuoteEngine) : Option Nat :=
  (List.range 256).find? fun i => !(q.slots.get slotSpec i).occupied

/-! ### Taking requests (R7, R47) -/

/-- The request the Quote Engine takes next; none while an event waits on a full render queue. -/
def State.quoteFront (s : State) : Option QuoteRequest :=
  match s.quote.wait with
  | none => s.quote.inbox.head?
  | some _ => none

/-- Drop the front request of the Quote Engine. -/
def State.dropQuote (s : State) : State := { s with quote := { s.quote with inbox := s.quote.inbox.tail } }

/-- Is a Field Unit request one of the render requests counted by R47? -/
def FieldRequest.isRender : FieldRequest → Bool
  | .render _ => true
  | _ => false

/-- How many render requests the Field Unit holds (R47). -/
def State.heldRenders (s : State) : Nat := s.field.inbox.countP FieldRequest.isRender

/-- Send the render requests of an event, as many as there is room for, and end the event with its outcome, or wait
(R35, R47). -/
def State.quoteFinish (s : State) (renders : List RenderRequest) (r : RingId) (st : Status) (result : Word) : State :=
  let room := 64 - s.heldRenders
  let s := s.sendFields ((renders.take room).map .render)
  if renders.length ≤ room then s.sendRing r (.outcome st result)
  else { s with quote := { s.quote with wait := some ⟨renders.drop room, r, st, result⟩ } }

/-- RENDER_QUEUE_ROOM: the waiting event sends its next render request, and ends when it was the last (R47). -/
def execRenderQueueRoom (s : State) : Host.Outcome State Fault Refusal :=
  match s.quote.wait with
  | none => .next s
  | some w =>
    if s.heldRenders < 64 then
      let s := s.sendFields ((w.renders.take 1).map .render)
      if w.renders.length ≤ 1 then
        .next ({ s with quote := { s.quote with wait := none } }.sendRing w.ring (.outcome w.status w.result))
      else .next { s with quote := { s.quote with wait := some { w with renders := w.renders.drop 1 } } }
    else .next s

/-- The fields of a binding list that are sent renders: all but the SUSPENDED ones. A field whose append is taken and
whose record is still FREE is among them (R16, R54). The list is made when the command is taken and stands while the event
waits on a full render queue (R47); that is the model's choice (log entry 26). -/
def State.renderable (s : State) (v : Slot) : List Nat :=
  v.bindings.filter fun f => decide ((s.record f).state ≠ .suspended)

/-- The item a field shows. While BIND_FIELD waits for its append, the record is not yet filled, and the item is that
of the command (R16, R54; log entry 7). -/
def State.fieldItem (s : State) (f : Nat) : Fin 8 :=
  match (s.record f).state, s.field.command with
  | .free, some d => if d.fieldNumber = f then d.item.getD (s.record f).item else (s.record f).item
  | _, _ => (s.record f).item

/-! ### Instrument commands (R8 to R13) -/

/-- The result word of an instrument command with a slot concerned (R9). -/
def State.slotResult (s : State) (i : Nat) (key : Word) (pos : Nat) : Word :=
  ofBytes i (bucketOf key) (s.slot i).bindings.length pos

/-- Put a slot number at the tail of a bucket's chain (R11). -/
def QuoteEngine.link (q : QuoteEngine) (b i : Nat) : QuoteEngine :=
  match (q.chain b).getLast? with
  | none => { q with heads := q.heads.set headSpec b (some i) }
  | some tail =>
    { q with slots := q.slots.set slotSpec tail { q.slots.get slotSpec tail with link := some i } }

/-- DEFINE_INSTRUMENT with a legal key and mask and a FREE slot (R11). -/
def State.occupy (s : State) (i : Nat) (key : Word) (mask : PerRing Bool) : State :=
  let v : Slot := { Slot.cleared with occupied := true, key := key, sources := mask }
  let q := s.quote.link (bucketOf key) i
  { s with quote := { q with slots := q.slots.set slotSpec i v } }

/-- The taking of DEFINE_INSTRUMENT (R10, R11). -/
def State.takeDefine (s : State) (d : Descriptor) : State :=
  let key := d.key
  match (if key = 0 then none else maskOf (d.byte 4 0)) with
  | none => s.completeCommand .badForm 0
  | some mask =>
    match s.quote.lookup key with
    | some (i, pos) => s.completeCommand .existing (s.slotResult i key pos)
    | none =>
      match s.quote.lowestFree with
      | none => s.completeCommand .tableFull (ofBytes 0 (bucketOf key) 0 0)
      | some i =>
        (s.occupy i key mask).completeCommand .done
          (ofBytes i (bucketOf key) 0 (s.quote.chain (bucketOf key)).length)

/-- DEFINE_INSTRUMENT. -/
def execDefineInstrument (s : State) : Host.Outcome State Fault Refusal :=
  match s.quoteFront with
  | some (.define d) => .next (s.dropQuote.takeDefine d)
  | _ => .next s

/-- Take slot `i`, at position `pos` of bucket `b`, out of its chain (R12). -/
def QuoteEngine.unlink (q : QuoteEngine) (b i pos : Nat) : QuoteEngine :=
  let after := (q.slots.get slotSpec i).link
  match pos with
  | 0 => { q with heads := q.heads.set headSpec b after }
  | k + 1 =>
    match (q.chain b)[k]? with
    | none => q
    | some before => { q with slots := q.slots.set slotSpec before { q.slots.get slotSpec before with link := after } }

/-- Unlink and free a slot (R12). -/
def State.freeSlot (s : State) (i : Nat) (key : Word) (pos : Nat) : State :=
  let q := s.quote.unlink (bucketOf key) i pos
  { s with quote := { q with slots := q.slots.set slotSpec i Slot.cleared } }

/-- The taking of REMOVE_INSTRUMENT (R12). -/
def State.takeRemove (s : State) (d : Descriptor) : State :=
  let key := d.key
  match s.quote.lookup key with
  | none => s.completeCommand .notFound (ofBytes 0 (bucketOf key) 0 0)
  | some (i, pos) =>
    if (s.slot i).bindings ≠ [] then s.completeCommand .hasBindings (s.slotResult i key pos)
    else (s.freeSlot i key pos).completeCommand .done (ofBytes i (bucketOf key) 0 pos)

/-- REMOVE_INSTRUMENT. -/
def execRemoveInstrument (s : State) : Host.Outcome State Fault Refusal :=
  match s.quoteFront with
  | some (.remove d) => .next (s.dropQuote.takeRemove d)
  | _ => .next s

/-- The taking of SET_SOURCES (R13): renders are sent before the outcome. -/
def State.takeSetSources (s : State) (d : Descriptor) : State :=
  let key := d.key
  match maskOf (d.byte 4 0) with
  | none => s.completeCommand .badForm 0
  | some mask =>
    match s.quote.lookup key with
    | none => s.completeCommand .notFound (ofBytes 0 (bucketOf key) 0 0)
    | some (i, pos) =>
      (s.setSlot i { s.slot i with sources := mask }).quoteFinish ((s.renderable (s.slot i)).map .plain) .t .done
        (s.slotResult i key pos)

/-- SET_SOURCES. -/
def execSetSources (s : State) : Host.Outcome State Fault Refusal :=
  match s.quoteFront with
  | some (.setSources d) => .next (s.dropQuote.takeSetSources d)
  | _ => .next s

/-! ### Applies (R22) -/

/-- The result word of a quote kind: slot, render count, frame number at the apply (R36). -/
def State.quoteResult (s : State) (i n : Nat) : Word :=
  ofBytes i n (s.video.frameNumber.toNat % 256) (s.video.frameNumber.toNat / 256)

/-- The part of the form check that all quote kinds share, with the range of the pair count (R23, 1, 2, 4 to 6). -/
def Descriptor.pairsForm (d : Descriptor) (least most : Nat) : Option (List Pair) :=
  if d.sequenceUpper = 0 ∧ least ≤ d.pairCount ∧ d.pairCount ≤ most then d.pairs else none

/-- The form check of UPDATE: 1 to 6 pairs, condition byte 0 (R23). -/
def Descriptor.updateForm (d : Descriptor) : Option (List Pair) :=
  if d.conditionByte = 0 then d.pairsForm 1 6 else none

/-- The form check of SNAPSHOT: 0 to 6 pairs, condition byte 1 or 2 (R23). -/
def Descriptor.snapshotForm (d : Descriptor) : Option (List Pair × Condition) :=
  match d.pairsForm 0 6, conditionOf d.conditionByte with
  | some ps, some c => some (ps, c)
  | _, _ => none

/-- The form check of CONDITION: no pair, condition byte 1 or 2 (R23). -/
def Descriptor.conditionForm (d : Descriptor) : Option Condition :=
  match d.pairsForm 0 0, conditionOf d.conditionByte with
  | some _, some c => some c
  | _, _ => none

/-- Set an item of a list of items (R30, R33). -/
def setItem (items : Vector (Option Item) 8) (p : Pair) : Vector (Option Item) 8 :=
  items.set p.item.val (some ⟨p.value, p.scale⟩) p.item.isLt

/-- Store pairs into items (R30). -/
def storePairs (items : Vector (Option Item) 8) (ps : List Pair) : Vector (Option Item) 8 := ps.foldl setItem items

/-- The render request of an accepted UPDATE for one field, if any (R32): a tick render when its item was named, a
plain render when it was not and the sequence state changed. -/
def updateRender (old : Slot) (ps : List Pair) (changed : Bool) (f : Nat) (item : Fin 8) : Option RenderRequest :=
  match ps.find? fun p => decide (p.item = item) with
  | some p => some (.tick f ((old.items.get item).map Item.normalised) (Item.normalised ⟨p.value, p.scale⟩))
  | none => if changed then some (.plain f) else none

/-- Steps 2 to 4 of an apply (R22, R24 to R26): the slot and its verdict, or the status that refuses with the slot to
report. -/
def State.arbitrate (s : State) (r : RingId) (d : Descriptor) (table : SeqState → SeqCompare → Verdict) :
    (Nat × SeqState × Status) ⊕ (Nat × Status) :=
  match s.quote.lookup d.key with
  | none => .inr (0, .noKey)
  | some (i, _) =>
    let v := s.slot i
    if v.sources.get r then
      match table v.seqState (compareSeq d.sequence v.lastSeq) with
      | .accept new st => .inl (i, new, st)
      | .refuse st => .inr (i, st)
    else .inr (i, .notSource)

/-- A refused apply: nothing stored, no render (R22, R29). -/
def State.refuseApply (s : State) (r : RingId) (i : Nat) (st : Status) : State :=
  s.sendRing r (.outcome st (s.quoteResult i 0))

/-- An accepted apply: the slot is replaced, the renders sent, and the result word filled (R22, steps 5 to 7). -/
def State.acceptApply (s : State) (r : RingId) (i : Nat) (v : Slot) (renders : List RenderRequest) (st : Status) : State :=
  (s.setSlot i v).quoteFinish renders r st (s.quoteResult i renders.length)

/-- The taking of an UPDATE (R30, R32). -/
def State.takeUpdate (s : State) (r : RingId) (d : Descriptor) : State :=
  match d.updateForm with
  | none => s.refuseApply r 0 .badForm
  | some ps =>
    match s.arbitrate r d arbitrateUpdate with
    | .inr (i, st) => s.refuseApply r i st
    | .inl (i, new, st) =>
      let old := s.slot i
      s.acceptApply r i { old with items := storePairs old.items ps, seqState := new, lastSeq := d.sequence }
        ((s.renderable old).filterMap fun f => updateRender old ps (decide (new ≠ old.seqState)) f (s.fieldItem f)) st

/-- UPDATE. -/
def execUpdate (s : State) : Host.Outcome State Fault Refusal :=
  match s.quoteFront with
  | some (.apply r d) => if d.kind = 1 then .next (s.dropQuote.takeUpdate r d) else .next s
  | _ => .next s

/-- The taking of a SNAPSHOT (R33). -/
def State.takeSnapshot (s : State) (r : RingId) (d : Descriptor) : State :=
  match d.snapshotForm with
  | none => s.refuseApply r 0 .badForm
  | some (ps, c) =>
    match s.arbitrate r d arbitrateSnapshot with
    | .inr (i, st) => s.refuseApply r i st
    | .inl (i, new, st) =>
      let old := s.slot i
      s.acceptApply r i
        { old with items := storePairs Slot.cleared.items ps, condition := c, seqState := new, lastSeq := d.sequence }
        ((s.renderable old).map .reset) st

/-- SNAPSHOT. -/
def execSnapshot (s : State) : Host.Outcome State Fault Refusal :=
  match s.quoteFront with
  | some (.apply r d) => if d.kind = 2 then .next (s.dropQuote.takeSnapshot r d) else .next s
  | _ => .next s

/-- The taking of a CONDITION (R34). -/
def State.takeCondition (s : State) (r : RingId) (d : Descriptor) : State :=
  match d.conditionForm with
  | none => s.refuseApply r 0 .badForm
  | some c =>
    match s.arbitrate r d arbitrateUpdate with
    | .inr (i, st) => s.refuseApply r i st
    | .inl (i, new, st) =>
      let old := s.slot i
      s.acceptApply r i { old with condition := c, seqState := new, lastSeq := d.sequence }
        ((s.renderable old).map .plain) st

/-- CONDITION. -/
def execCondition (s : State) : Host.Outcome State Fault Refusal :=
  match s.quoteFront with
  | some (.apply r d) => if d.kind = 3 then .next (s.dropQuote.takeCondition r d) else .next s
  | _ => .next s

/-! ### Binding requests (R16, R52) -/

/-- What a binding lookup returns (R52). -/
def State.bindingLookup (s : State) (key : Word) : LookupResult :=
  match s.quote.lookup key with
  | none => .notFound
  | some (i, _) => if 16 ≤ (s.slot i).bindings.length then .full i else .found i

/-- BINDING_LOOKUP: the result goes to the Field Unit; nothing in the table changes (R52). -/
def execBindingLookup (s : State) : Host.Outcome State Fault Refusal :=
  match s.quoteFront with
  | some (.lookup key) => .next (s.dropQuote.sendField (.lookupResult (s.bindingLookup key)))
  | _ => .next s

/-- APPEND: the field joins the tail of the slot's binding list (R16). -/
def execAppend (s : State) : Host.Outcome State Fault Refusal :=
  match s.quoteFront with
  | some (.append f i) =>
    .next ((s.dropQuote.setSlot i { s.slot i with bindings := (s.slot i).bindings ++ [f] }).sendField (.appendDone f i))
  | _ => .next s

/-- Take a field out of every binding list, keeping the order of the rest (R16). -/
def QuoteEngine.unbind (q : QuoteEngine) (f : Nat) : QuoteEngine :=
  { q with slots := q.slots.mapListed slotSpec fun v => { v with bindings := v.bindings.filter fun g => decide (g ≠ f) } }

/-- REMOVAL: the field leaves its binding list (R16). -/
def execRemoval (s : State) : Host.Outcome State Fault Refusal :=
  match s.quoteFront with
  | some (.removal f) =>
    let t := s.dropQuote
    .next ({ t with quote := t.quote.unbind f }.sendField (.removalDone f))
  | _ => .next s

end Sys2Proof.Machine
end

