-- ==== Sys2Proof/Machine/Field.lean ====
section
/-! DEFINITION. The Field Unit: renders, field commands, expiries and the repaint sweep (Sections 3, 4 and 7.2 to 7.4).

A Field Unit event changes the field table, the occupancy map and the sweep when it is taken. Its span writes wait for
room at the Plane Controller (R49), and what follows them in the rule (`FieldAfter`) waits for them and for the
Highlight Timer to take the arm or remove request the event sent (R75). A move waits for its blanking write alone
(R58). -/

namespace Sys2Proof.Machine

/-! ### Events and their end (R46, R49, R75) -/

/-- The request the Field Unit takes next; none while an event is under way. -/
def State.fieldFront (s : State) : Option FieldRequest :=
  match s.field.event with
  | none => s.field.inbox.head?
  | some _ => none

/-- Drop the front request of the Field Unit. -/
def State.dropField (s : State) : State := { s with field := { s.field with inbox := s.field.inbox.tail } }

/-- Replace the sweep. -/
def State.setSweep (s : State) (w : Sweep) : State := { s with field := { s.field with sweep := w } }

/-- Send the Field Unit a step request unless one is outstanding (R127). -/
def State.requestStep (s : State) : State :=
  if s.field.sweep.stepOut then s else (s.setSweep { s.field.sweep with stepOut := true }).sendField .step

/-- The result word of a REPAINT (R130). -/
def repaintResult (count ending pass : Nat) : Word := ofBytes (count % 256) (count / 256) ending pass

/-- The pass number that a result word reports for a rerun or for the pass the command started (R130). -/
def passCode (rerun : Bool) : Nat := if rerun then 1 else 0

/-- The end of a pass (R128, step 3): a REPAINT that waits for it completes, and the rerun begins or the sweep becomes
IDLE. -/
def State.passEnd (s : State) : State :=
  let w := s.field.sweep
  let s := match w.repaint with
    | .thisPass rr => s.completeCommand .done (repaintResult w.rendered 0 (passCode rr))
    | .none => s
    | .nextPass => s
  if w.rerun then
    (s.setSweep { w with rerun := false, position := 0, rendered := 0,
                         repaint := if w.repaint = .nextPass then .thisPass true else .none }).requestStep
  else s.setSweep { w with active := false, position := 0, rendered := 0, repaint := if w.repaint = .nextPass then .nextPass else .none }

/-- The rest of a sweep step (R128): count the render, then go on to the next position or end the pass. A sweep that
STOP has abandoned meanwhile stays IDLE (R131). -/
def State.sweepAdvance (s : State) (rendered : Bool) : State :=
  let w := s.field.sweep
  if w.active then
    let s := s.setSweep { w with rendered := if rendered then w.rendered + 1 else w.rendered }
    if w.position < 511 then (s.setSweep { s.field.sweep with position := w.position + 1 }).requestStep
    else s.passEnd
  else s

/-- What follows the span writes of an event. A move is no end of its event: it follows the blanking write itself
(`State.spanSent`), so here it stays with the event. -/
def State.runAfter (s : State) : FieldAfter → State
  | .nothing => s
  | .complete st result => s.completeCommand st result
  | .freeAndComplete f result => (s.setRecord f FieldRec.cleared).completeCommand .done result
  | .sweepAdvance rendered => s.sweepAdvance rendered
  | .moveTo m => { s with field := { s.field with event := some ⟨[], .moveTo m⟩ } }

/-- End the event under way if its span writes are sent and the Highlight Timer has taken its requests. -/
def State.fieldFinish (s : State) : State :=
  match s.field.event with
  | none => s
  | some e =>
    if e.spans = [] ∧ s.highlight.requests = [] then
      { s with field := { s.field with event := none } }.runAfter e.after
    else s

/-- Is a Plane Controller request one of the span writes counted by R49? -/
def PlaneRequest.isSpan : PlaneRequest → Bool
  | .span _ => true
  | _ => false

/-- How many span writes the Plane Controller holds (R49). -/
def State.heldSpans (s : State) : Nat := s.plane.inbox.countP PlaneRequest.isSpan

/-- Send span writes of an event, as many as there is room for; the others stay with the event (R49). -/
def State.beginEvent (s : State) (spans : List SpanWrite) (after : FieldAfter) : State :=
  let room := 64 - s.heldSpans
  let s := s.sendPlanes ((spans.take room).map .span)
  { s with field := { s.field with event := some ⟨spans.drop room, after⟩ } }.fieldFinish

/-! ### Renders (R48) -/

/-- Is a field BOUND? -/
def State.isBound (s : State) (f : Nat) : Bool := decide ((s.record f).state = .bound)

/-- Change the tick of a field. -/
def State.setTick (s : State) (f : Nat) (t : Tick) : State := s.setRecord f { s.record f with tick := t }

/-- Set the tick of a field to NONE and send a remove request for it. -/
def State.clearTick (s : State) (f : Nat) : State := (s.setTick f .steady).sendHighlight (.remove f)

/-- The item a field shows, as the slot holds it now (R48, step 2). -/
def State.shownItem (s : State) (f : Nat) : Option Item := (s.slot (s.record f).slot).items.get (s.record f).item

/-- What the formatter gives for a field now (R48, step 4). -/
def State.formatted (s : State) (f : Nat) : Formatted :=
  format (s.shownItem f) (s.record f).width (s.record f).style s.field.absentGlyph

/-- The pen of a field now (R48, steps 3 and 5). -/
def State.pen (s : State) (f : Nat) : BitVec 5 :=
  selectPen (s.record f).style (isStale (s.slot (s.record f).slot) s.rings) (s.record f).tick (s.shownItem f)

/-- The span write of a render (R49). -/
def State.renderWrite (s : State) (f : Nat) : SpanWrite :=
  ⟨(s.record f).row, (s.record f).col, (s.formatted f).glyphs.map fun g => ⟨g, s.pen f⟩⟩

/-- What a render changes beside the screen: an overflow fill is counted, saturating at 255, and sets OVERFLOW on the
Terminal Port (R65). -/
def State.countOverflow (s : State) (f : Nat) : State :=
  if (s.formatted f).overflow then
    (s.setRecord f { s.record f with overflow := if (s.record f).overflow < 255 then (s.record f).overflow + 1
                                                 else (s.record f).overflow }).sendCause .t .overflow
  else s

/-- Render a field (R48, steps 2 to 6) as the only or last span write of an event. -/
def State.render (s : State) (f : Nat) (earlier : List SpanWrite) (after : FieldAfter) : State :=
  (s.countOverflow f).beginEvent (earlier ++ [s.renderWrite f]) after

/-- Tick determination (R67, R68). -/
def State.determineTick (s : State) (f : Nat) (old : Option Int) (new : Int) : State :=
  if (s.record f).style.rule = .tick then
    if s.running then
      match old with
      | none => s.clearTick f
      | some v =>
        if v < new then (s.setTick f .up).sendHighlight (.arm f (s.record f).style.hold)
        else if new < v then (s.setTick f .down).sendHighlight (.arm f (s.record f).style.hold)
        else s
    else s.clearTick f
  else s

/-- PLAIN_RENDER (R48); discarded for a field that is not BOUND (R46). -/
def execPlainRender (s : State) : Host.Outcome State Fault Refusal :=
  match s.fieldFront with
  | some (.render (.plain f)) =>
    let s := s.dropField
    if s.isBound f then .next (s.render f [] .nothing) else .next s
  | _ => .next s

/-- TICK_RENDER (R48, R67, R68). -/
def execTickRender (s : State) : Host.Outcome State Fault Refusal :=
  match s.fieldFront with
  | some (.render (.tick f old new)) =>
    let s := s.dropField
    if s.isBound f then .next ((s.determineTick f old new).render f [] .nothing) else .next s
  | _ => .next s

/-- RESET_RENDER (R48). -/
def execResetRender (s : State) : Host.Outcome State Fault Refusal :=
  match s.fieldFront with
  | some (.render (.reset f)) =>
    let s := s.dropField
    if s.isBound f then .next ((s.clearTick f).render f [] .nothing) else .next s
  | _ => .next s

/-! ### Spans and the occupancy map (R44, R53) -/

/-- The number of the cell at a row and column under the geometry (R85). -/
def State.cellIndex (s : State) (row col : Nat) : Nat := row * s.columns + col

/-- Does a span lie within the geometry (R53)? -/
def State.spanFits (s : State) (row col width : Nat) : Bool :=
  decide (row < s.rows) && decide (col < s.columns) && decide (col + width ≤ s.columns)

/-- The field that the occupancy map names at a cell. -/
def State.occupant (s : State) (row col : Nat) : Option Nat := s.field.occupancy.get occSpec (s.cellIndex row col)

/-- Is a cell of a span named by a field for which `other` holds (R53, R57)? -/
def State.spanTaken (s : State) (row col width : Nat) (other : Nat → Bool) : Bool :=
  (List.range width).any fun i =>
    match s.occupant row (col + i) with
    | none => false
    | some g => other g

/-- The numbers of the cells of a span. -/
def State.spanCells (s : State) (row col width : Nat) : List Nat := (List.range width).map fun i => s.cellIndex row (col + i)

/-- Enter `v` in the occupancy map at every cell of a list. -/
def markCells (occ : Tab (Option Nat)) (cells : List Nat) (v : Option Nat) : Tab (Option Nat) :=
  cells.foldl (fun o n => o.set occSpec n v) occ

/-- Enter or clear a span in the occupancy map (R44). -/
def State.markSpan (s : State) (row col width : Nat) (v : Option Nat) : State :=
  { s with field := { s.field with occupancy := markCells s.field.occupancy (s.spanCells row col width) v } }

/-- Clear the span of a field's record. -/
def State.clearSpan (s : State) (f : Nat) : State :=
  s.markSpan (s.record f).row (s.record f).col (s.record f).width none

/-- Enter the span of a field's record. -/
def State.enterSpan (s : State) (f : Nat) : State :=
  s.markSpan (s.record f).row (s.record f).col (s.record f).width (some f)

/-- The blanking span write of a field's record (R49). -/
def State.blankWrite (s : State) (f : Nat) (c : CellValue) : SpanWrite :=
  ⟨(s.record f).row, (s.record f).col, List.replicate (s.record f).width c⟩

/-! ### Binding (R50 to R54) -/

/-- The result word of a field command from the record as it stands (R50). -/
def State.recordResult (s : State) (f : Nat) : Word := fieldResult f (s.record f).slot (s.record f).state

/-- End a field command with an outcome and no span write. -/
def State.endCommand (s : State) (st : Status) (result : Word) : State := s.beginEvent [] (.complete st result)

/-- The taking of BIND_FIELD (R50, R51). -/
def State.takeBind (s : State) (d : Descriptor) : State :=
  let f := d.fieldNumber
  if 512 ≤ f then s.endCommand .badForm 0
  else match d.bindForm with
    | none => s.endCommand .badForm (s.recordResult f)
    | some _ =>
      if (s.record f).state = .free then
        { s with field := { s.field with command := some d } }.sendQuote (.lookup d.key)
      else s.endCommand .fieldInUse (s.recordResult f)

/-- BIND_FIELD. -/
def execBindField (s : State) : Host.Outcome State Fault Refusal :=
  match s.fieldFront with
  | some (.bind d) => .next (s.dropField.takeBind d)
  | _ => .next s

/-- The field command in progress ends. -/
def State.dropCommand (s : State) : State := { s with field := { s.field with command := none } }

/-- The taking of a lookup's result for the BIND_FIELD in progress (R52, R53). -/
def State.takeLookupResult (s : State) (d : Descriptor) (l : LookupResult) : State :=
  let f := d.fieldNumber
  match l with
  | .notFound => s.dropCommand.endCommand .notFound (fieldResult f 0 .free)
  | .full i => s.dropCommand.endCommand .bindingsFull (fieldResult f i .free)
  | .found i =>
    if !s.spanFits d.fieldRow d.fieldCol d.fieldWidth then
      s.dropCommand.endCommand .outOfRange (fieldResult f i (s.record f).state)
    else if s.spanTaken d.fieldRow d.fieldCol d.fieldWidth (fun _ => true) then
      s.dropCommand.endCommand .overlap (fieldResult f i (s.record f).state)
    else s.sendQuote (.append f i)

/-- LOOKUP_RESULT. -/
def execLookupResult (s : State) : Host.Outcome State Fault Refusal :=
  match s.fieldFront, s.field.command with
  | some (.lookupResult l), some d => .next (s.dropField.takeLookupResult d l)
  | _, _ => .next s

/-- The record that BIND_FIELD fills (R54). -/
def boundRecord (d : Descriptor) (slot : Nat) (item : Fin 8) (st : Style) : FieldRec :=
  ⟨.bound, slot, item, d.fieldRow, d.fieldCol, d.fieldWidth, st, .steady, 0⟩

/-- The taking of the append's completion (R54). -/
def State.takeAppendDone (s : State) (d : Descriptor) (f slot : Nat) : State :=
  match d.bindForm with
  | none => s.dropCommand
  | some (item, st) =>
    ((s.dropCommand.setRecord f (boundRecord d slot item st)).enterSpan f).render f []
      (.complete .done (fieldResult f slot .bound))

/-- APPEND_COMPLETION. -/
def execAppendCompletion (s : State) : Host.Outcome State Fault Refusal :=
  match s.fieldFront, s.field.command with
  | some (.appendDone f slot), some d => .next (s.dropField.takeAppendDone d f slot)
  | _, _ => .next s

/-! ### Unbinding (R55, R56) -/

/-- The taking of UNBIND_FIELD (R50, R55). -/
def State.takeUnbind (s : State) (d : Descriptor) : State :=
  let f := d.fieldNumber
  if 512 ≤ f then s.endCommand .badForm 0
  else if (s.record f).state = .free then s.endCommand .notBound (fieldResult f 0 .free)
  else { s with field := { s.field with command := some d } }.sendQuote (.removal f)

/-- UNBIND_FIELD. -/
def execUnbindField (s : State) : Host.Outcome State Fault Refusal :=
  match s.fieldFront with
  | some (.unbind d) => .next (s.dropField.takeUnbind d)
  | _ => .next s

/-- The taking of the removal's completion (R56): the span is cleared, a remove request sent, the span blanked if the
command asks for it, and then the record is freed and the command completes. The result word reports the slot the
field was bound to (log entry 8). -/
def State.takeRemovalDone (s : State) (d : Descriptor) (f : Nat) : State :=
  let bound := s.isBound f
  let blank := if bound && d.blankFlag then [s.blankWrite f d.blankCell] else []
  let result := fieldResult f (s.record f).slot .free
  let s := s.dropCommand
  let s := if bound then s.clearSpan f else s
  (s.sendHighlight (.remove f)).beginEvent blank (.freeAndComplete f result)

/-- REMOVAL_COMPLETION. -/
def execRemovalCompletion (s : State) : Host.Outcome State Fault Refusal :=
  match s.fieldFront, s.field.command with
  | some (.removalDone f), some d => .next (s.dropField.takeRemovalDone d f)
  | _, _ => .next s

/-! ### Moving and restyling (R57 to R59) -/

/-- The record of a field at a new position, BOUND (R58). -/
def FieldRec.movedTo (r : FieldRec) (row col width : Nat) : FieldRec :=
  { r with state := .bound, row := row, col := col, width := width }

/-- Make a move (R58): the field is at its new place and BOUND, its new span is entered, and it is rendered there. -/
def State.makeMove (s : State) (m : FieldMove) : State :=
  ((s.setRecord m.field ((s.record m.field).movedTo m.row m.col m.width)).enterSpan m.field).render m.field []
    (.complete .done (fieldResult m.field (s.record m.field).slot .bound))

/-- What comes after a span write of the event under way has been sent: the move, where that was its blanking write
(R58), and else the end of the event if nothing more is waited for. -/
def State.spanSent (s : State) : State :=
  match s.field.event with
  | some ⟨[], .moveTo m⟩ => { s with field := { s.field with event := none } }.makeMove m
  | _ => s.fieldFinish

/-- Send a span write of the event under way, which goes on as `e` (R49). -/
def State.sendSpan (s : State) (w : SpanWrite) (e : FieldEvent) : State :=
  let s := s.sendPlanes [.span w]
  { s with field := { s.field with event := some e } }.spanSent

/-- SPAN_QUEUE_ROOM: the waiting event sends its next span write (R49). -/
def execSpanQueueRoom (s : State) : Host.Outcome State Fault Refusal :=
  match s.field.event with
  | none => .next s
  | some e =>
    match e.spans with
    | [] => .next s
    | w :: rest => if s.heldSpans < 64 then .next (s.sendSpan w { e with spans := rest }) else .next s

/-- A move that passes its checks (R58). The old span of a BOUND field is cleared from the occupancy map and its blanking
write sent, or waits for room (R49); only then is the field moved. A SUSPENDED field is moved at once. -/
def State.moveField (s : State) (d : Descriptor) (f : Nat) : State :=
  let m : FieldMove := ⟨f, d.fieldRow, d.fieldCol, d.fieldWidth⟩
  if s.isBound f then
    let w := s.blankWrite f d.blankCell
    let s := s.clearSpan f
    if s.heldSpans < 64 then s.sendSpan w ⟨[], .moveTo m⟩
    else { s with field := { s.field with event := some ⟨[w], .moveTo m⟩ } }
  else s.makeMove m

/-- The taking of MOVE_FIELD (R50, R57). -/
def State.takeMove (s : State) (d : Descriptor) : State :=
  let f := d.fieldNumber
  if 512 ≤ f then s.endCommand .badForm 0
  else if (s.record f).state = .free then s.endCommand .notBound (fieldResult f 0 .free)
  else if d.fieldWidth < 1 ∨ 20 < d.fieldWidth ∨ !s.spanFits d.fieldRow d.fieldCol d.fieldWidth then
    s.endCommand .outOfRange (s.recordResult f)
  else if s.spanTaken d.fieldRow d.fieldCol d.fieldWidth (fun g => decide (g ≠ f)) then
    s.endCommand .overlap (s.recordResult f)
  else s.moveField d f

/-- MOVE_FIELD. -/
def execMoveField (s : State) : Host.Outcome State Fault Refusal :=
  match s.fieldFront with
  | some (.move d) => .next (s.dropField.takeMove d)
  | _ => .next s

/-- Does a new style end the highlight: TICK taken away, or the hold class changed (R59)? -/
def Style.endsHighlight (old new : Style) : Bool :=
  (decide (old.rule = .tick) && decide (new.rule ≠ .tick)) || decide (new.hold ≠ old.hold)

/-- A STYLE_FIELD that passes its checks (R59). -/
def State.restyle (s : State) (f : Nat) (st : Style) : State :=
  let old := (s.record f).style
  let s := s.setRecord f { s.record f with style := st }
  let s := if old.endsHighlight st then s.clearTick f else s
  let result := fieldResult f (s.record f).slot (s.record f).state
  if s.isBound f then s.render f [] (.complete .done result) else s.endCommand .done result

/-- The taking of STYLE_FIELD (R50, R59). -/
def State.takeStyle (s : State) (d : Descriptor) : State :=
  let f := d.fieldNumber
  if 512 ≤ f then s.endCommand .badForm 0
  else if (s.record f).state = .free then s.endCommand .notBound (fieldResult f 0 .free)
  else match d.style with
    | none => s.endCommand .badForm (s.recordResult f)
    | some st => s.restyle f st

/-- STYLE_FIELD. -/
def execStyleField (s : State) : Host.Outcome State Fault Refusal :=
  match s.fieldFront with
  | some (.style d) => .next (s.dropField.takeStyle d)
  | _ => .next s

/-! ### SET_PEN (R70) -/

/-- The taking of SET_PEN: the pen number is checked, then the blink class; the Video Generator replaces the entry. -/
def State.takeSetPen (s : State) (d : Descriptor) : State :=
  let n := d.byte 4 0
  if h : n < 32 then
    match penOf (d.half 5 0) with
    | none => s.endCommand .badForm (ofBytes n 0 0 0)
    | some p =>
      { s with video := { s.video with pens := s.video.pens.set n p h } }.endCommand .done (ofBytes n 0 0 0)
  else s.endCommand .badForm 0

/-- SET_PEN. -/
def execSetPen (s : State) : Host.Outcome State Fault Refusal :=
  match s.fieldFront with
  | some (.setPen d) => .next (s.dropField.takeSetPen d)
  | _ => .next s

/-! ### Expiries (R79) -/

/-- The taking of an expiry. -/
def State.takeExpiry (s : State) (f : Nat) : State :=
  if s.isBound f then
    match s.highlight.entry f with
    | none => s.render f [] .nothing
    | some e => if e.expired then (s.clearTick f).render f [] .nothing else s
  else s

/-- EXPIRY. -/
def execExpiry (s : State) : Host.Outcome State Fault Refusal :=
  match s.fieldFront with
  | some (.expiry f) => .next (s.dropField.takeExpiry f)
  | _ => .next s

/-! ### The repaint sweep (R126 to R131) -/

/-- A sweep trigger acted on (R126). -/
def State.trigger (s : State) : State :=
  let w := s.field.sweep
  if s.running then
    if w.active then s.setSweep { w with rerun := true }
    else (s.setSweep { w with active := true, position := 0, rendered := 0 }).requestStep
  else s

/-- SWEEP_TRIGGER. -/
def execSweepTrigger (s : State) : Host.Outcome State Fault Refusal :=
  match s.fieldFront with
  | some .trigger => .next s.dropField.trigger
  | _ => .next s

/-- The taking of a step request (R128). -/
def State.takeStep (s : State) : State :=
  let s := s.setSweep { s.field.sweep with stepOut := false }
  let w := s.field.sweep
  if w.active then
    if s.isBound w.position then s.render w.position [] (.sweepAdvance true) else s.sweepAdvance false
  else s

/-- SWEEP_STEP. -/
def execSweepStep (s : State) : Host.Outcome State Fault Refusal :=
  match s.fieldFront with
  | some .step => .next s.dropField.takeStep
  | _ => .next s

/-- The taking of REPAINT (R129). -/
def State.takeRepaint (s : State) : State :=
  let w := s.field.sweep
  if s.running then
    let s := s.trigger
    s.setSweep { s.field.sweep with repaint := if w.active then .nextPass else .thisPass false }
  else s.completeCommand .done (repaintResult 0 2 0)

/-- REPAINT. -/
def execRepaint (s : State) : Host.Outcome State Fault Refusal :=
  match s.fieldFront with
  | some .repaint => .next s.dropField.takeRepaint
  | _ => .next s

/-- STOP's abandonment of the sweep (R131): a waiting REPAINT completes with the ending "abandoned" and the rendered
count of the pass under way; a step request already sent stays outstanding. -/
def State.abandonSweep (s : State) : State :=
  let w := s.field.sweep
  let s := match w.repaint with
    | .none => s
    | .thisPass rr => s.completeCommand .done (repaintResult w.rendered 1 (passCode rr))
    | .nextPass => s.completeCommand .done (repaintResult w.rendered 1 1)
  s.setSweep { w with active := false, position := 0, rerun := false, rendered := 0, repaint := .none }

end Sys2Proof.Machine
end

