-- ==== Sys2Proof/Config.lean ====
section
/-! DEFINITION. The free values: what the spec leaves open and nothing in the model may assume. -/

namespace Sys2Proof

/-- Free value. R184 says that KICK is taken whether or not another bit of the same PORT_CONTROL write is set,
and does not say whether it is taken before or after a RING_OFF of that write. The two orders differ for a ring
in WAITING. The argument is the count of earlier uses, so each use is open on its own (log entry 4). -/
opaque Config.kickBeforeRingOff : Nat → Bool

/-- Free value. R146 says that in LOADING the board may change only by the glyph writes of a font load; R86 says that the
Plane Controller takes its requests in every device state, and R99 that a span write sent before or during STOPPING is
taken as at any other time. The spec does not say which of them a span write still held in LOADING follows: this says
whether it waits until LOADING ends. It is one value for the part, so every run follows one reading (log entry 25). -/
opaque Config.spansWaitInLoading : Bool

end Sys2Proof
end

