-- ==== Sys2Proof/Machine/Plane.lean ====
section
/-! DEFINITION. The Plane Controller: span writes, direct text, the cursor command and overlays (Sections 5 and 6). -/

namespace Sys2Proof.Machine

/-! ### Overlays: area, save region, covering (R101, R102, R112) -/

/-- The area of an overlay (R101). -/
def Overlay.area (o : Overlay) : Nat := o.height * o.width

/-- Does a cell lie within the rectangle? -/
def Overlay.inside (o : Overlay) (row col : Nat) : Bool :=
  decide (o.top ≤ row ∧ row < o.top + o.height ∧ o.left ≤ col ∧ col < o.left + o.width)

/-- The slot that belongs to a cell (R102). -/
def Overlay.slotOf (o : Overlay) (row col : Nat) : Nat := o.offset + (row - o.top) * o.width + (col - o.left)

/-- Does the overlay effectively cover a cell (R112)? -/
def Overlay.covers (o : Overlay) (row col : Nat) : Bool :=
  o.inside row col && match o.state with
    | .opened => true
    | .opening k => decide (row < o.top + k)
    | .closing k => decide (o.top + k ≤ row)

/-- The top overlay. -/
def PlaneController.topOverlay (p : PlaneController) : Option Overlay := p.stack.getLast?

/-- The save cells in use (R102). -/
def PlaneController.inUse (p : PlaneController) : Nat :=
  match p.topOverlay with
  | none => 0
  | some o => o.offset + o.area

/-- Replace the top record. -/
def PlaneController.setTop (p : PlaneController) (o : Overlay) : PlaneController :=
  { p with stack := p.stack.dropLast ++ [o] }

/-! ### Cells (R85, R88, R89, R113) -/

/-- Columns of the geometry; 0 while it is none. -/
def PlaneController.columns (p : PlaneController) : Nat := (p.geometry.map Geometry.columns).getD 0

/-- Rows of the geometry; 0 while it is none. -/
def PlaneController.rows (p : PlaneController) : Nat := (p.geometry.map Geometry.rows).getD 0

/-- The cell of the plane at a row and column (R85). -/
def PlaneController.cell (p : PlaneController) (row col : Nat) : CellValue := p.cells.get cellSpec (row * p.columns + col)

/-- Write the cell of the plane at a row and column. -/
def PlaneController.putCell (p : PlaneController) (row col : Nat) (v : CellValue) : PlaneController :=
  { p with cells := p.cells.set cellSpec (row * p.columns + col) v }

/-- Write a slot of the save area. -/
def PlaneController.putSave (p : PlaneController) (n : Nat) (v : CellValue) : PlaneController :=
  { p with save := p.save.set saveSpec n v }

/-- A base-layer write of a cell of the geometry: into the slot of the lowest overlay that covers it, or into the
plane (R88, R113). -/
def PlaneController.baseWrite (p : PlaneController) (row col : Nat) (v : CellValue) : PlaneController :=
  match p.stack.find? fun o => o.covers row col with
  | some o => p.putSave (o.slotOf row col) v
  | none => p.putCell row col v

/-! ### Requests (R86) -/

/-- Drop the front request of the Plane Controller. -/
def State.dropPlane (s : State) : State := { s with plane := { s.plane with inbox := s.plane.inbox.tail } }

/-! ### Span writes (R49, R88) -/

/-- One cell of a span write; a cell outside the geometry is dropped (R88). -/
def PlaneController.spanCell (p : PlaneController) (row col : Nat) (v : CellValue) : PlaneController :=
  if row < p.rows ∧ col < p.columns then p.baseWrite row col v else p

/-- The cells of a span write, left to right from a column. -/
def PlaneController.spanFrom (p : PlaneController) (row : Nat) : Nat → List CellValue → PlaneController
  | _, [] => p
  | col, v :: rest => (p.spanCell row col v).spanFrom row (col + 1) rest

/-- The Plane Controller takes the span write at the front of its requests: a base-layer write of each of its cells
(R88). -/
def State.takeSpan (s : State) (w : SpanWrite) : State :=
  let s := s.dropPlane
  { s with plane := s.plane.spanFrom w.row w.col w.cells }

/-- Does a span write wait? In LOADING that is a free value, for R146 lets nothing but glyph writes change the board then
and R86 and R99 have the write taken in every device state (log entry 25); in any other state it does not. -/
def State.spansWait (s : State) : Bool := decide (s.control.device = .loading) && Config.spansWaitInLoading

/-- SPAN_WRITE. -/
def execSpanWrite (s : State) : Host.Outcome State Fault Refusal :=
  match s.plane.inbox with
  | .span w :: _ => if s.spansWait then .next s else .next (s.takeSpan w)
  | _ => .next s

/-! ### Direct text (R91 to R95) -/

/-- A text command under way: the plane as the walk has left it, and the two counts (R95). -/
structure Walk where
  plane : PlaneController
  written : Nat
  skipped : Nat
  deriving DecidableEq, Repr

/-- One cell of a text command at cell `n` of the plane: the plane after the write, or none when the cell is skipped
(R89, R90, R92). -/
def PlaneController.textWrite (p : PlaneController) (occ : Tab (Option Nat)) (layer : Layer) (n : Nat) (v : CellValue) :
    Option PlaneController :=
  if p.columns * p.rows ≤ n then none
  else
    let row := n / p.columns
    let col := n % p.columns
    match layer with
    | .base => if (occ.get occSpec n).isSome then none else some (p.baseWrite row col v)
    | .top =>
      match p.topOverlay with
      | none => none
      | some o => if o.inside row col then some (p.putCell row col v) else none

/-- The walk of a text command from cell `n` on (R92). A row's last column is followed by column 0 of the next row, so
the walk goes through the cells in the order of their numbers. -/
def Walk.run (occ : Tab (Option Nat)) (layer : Layer) : Nat → List CellValue → Walk → Walk
  | _, [], w => w
  | n, v :: rest, w =>
    match w.plane.textWrite occ layer n v with
    | some p => Walk.run occ layer (n + 1) rest ⟨p, w.written + 1, w.skipped⟩
    | none => Walk.run occ layer (n + 1) rest ⟨w.plane, w.written, w.skipped + 1⟩

/-- Row, column and layer of a text command, from word 1. -/
def Descriptor.textRow (d : Descriptor) : Nat := d.byte 1 0

/-- The starting column. -/
def Descriptor.textCol (d : Descriptor) : Nat := d.byte 1 1

/-- The layer; none for a code above 1. -/
def Descriptor.textLayer (d : Descriptor) : Option Layer := layerOf (d.byte 1 3)

/-- The cell values of WRITE_CELLS; none for a count outside 1..24 (R91, R93). -/
def Descriptor.writeCells (d : Descriptor) : Option (List CellValue) :=
  if 1 ≤ d.byte 1 2 ∧ d.byte 1 2 ≤ 24 then some ((List.range (d.byte 1 2)).map d.textCell) else none

/-- The cell values of FILL_CELLS; none for a repeat above 6143 (R91, R94). -/
def Descriptor.fillCells (d : Descriptor) : Option (List CellValue) :=
  if d.half 4 0 ≤ 6143 then some (List.replicate (d.half 4 0 + 1) (cellOf (d.half 4 1))) else none

/-- The taking of a text command whose cell values are `vals`, or none when the count or repeat is out of range
(R91, R95). -/
def State.takeText (s : State) (d : Descriptor) (vals : Option (List CellValue)) : State :=
  match d.textLayer, vals with
  | some layer, some vs =>
    if layer = .top ∧ s.plane.stack = [] then s.completeCommand .noOverlay 0
    else if s.plane.rows ≤ d.textRow ∨ s.plane.columns ≤ d.textCol then s.completeCommand .outOfRange 0
    else
      let w := Walk.run s.field.occupancy layer (d.textRow * s.plane.columns + d.textCol) vs ⟨s.plane, 0, 0⟩
      { s with plane := w.plane }.completeCommand .done (ofHalves w.written w.skipped)
  | _, _ => s.completeCommand .badForm 0

/-- WRITE_CELLS. -/
def execWriteCells (s : State) : Host.Outcome State Fault Refusal :=
  match s.plane.inbox with
  | .writeCells d :: _ => .next (s.dropPlane.takeText d d.writeCells)
  | _ => .next s

/-- FILL_CELLS. -/
def execFillCells (s : State) : Host.Outcome State Fault Refusal :=
  match s.plane.inbox with
  | .fillCells d :: _ => .next (s.dropPlane.takeText d d.fillCells)
  | _ => .next s

/-! ### The cursor command (R97) -/

/-- The taking of SET_CURSOR: the mode is checked, then the position; the change is sent to the Video Generator. That
DONE returns here, and does not wait for CURSOR_CHANGE, is the model's choice (log entry 23). -/
def State.takeSetCursor (s : State) (d : Descriptor) : State :=
  let row := d.byte 4 0
  let col := d.byte 4 1
  match cursorModeOf (d.byte 4 2) with
  | none => s.completeCommand .badForm 0
  | some mode =>
    if s.plane.rows ≤ row ∨ s.plane.columns ≤ col then s.completeCommand .outOfRange 0
    else
      let c : Cursor := ⟨row, col, mode⟩
      { s with video := { s.video with cursorChanges := s.video.cursorChanges ++ [c] } }.completeCommand .done
        (ofBytes row col mode.code 0)

/-- SET_CURSOR. -/
def execSetCursor (s : State) : Host.Outcome State Fault Refusal :=
  match s.plane.inbox with
  | .setCursor d :: _ => .next (s.dropPlane.takeSetCursor d)
  | _ => .next s

/-! ### Overlays (R104 to R110) -/

/-- The result word of the overlay commands (R108). -/
def PlaneController.overlayResult (p : PlaneController) : Word :=
  ofBytes p.stack.length 0 (p.inUse % 256) (p.inUse / 256)

/-- Return an outcome of an overlay command with its result word (R108). -/
def State.completeOverlay (s : State) (st : Status) : State := s.completeCommand st s.plane.overlayResult

/-- The record that OPEN_OVERLAY pushes (R106). -/
def PlaneController.newOverlay (p : PlaneController) (d : Descriptor) : Overlay :=
  ⟨d.byte 4 0, d.byte 4 1, d.byte 4 2, d.byte 4 3, p.inUse, .opening 0, cellOf (d.half 5 0)⟩

/-- The checks of OPEN_OVERLAY: the status of the first that fails (R105). -/
def PlaneController.openFailure (p : PlaneController) (o : Overlay) : Option Status :=
  if o.height = 0 ∨ o.width = 0 ∨ p.rows < o.top + o.height ∨ p.columns < o.left + o.width then some .outOfRange
  else if p.stack.length = 4 then some .stackFull
  else if 3072 - p.inUse < o.area then some .saveFull
  else none

/-- The taking of OPEN_OVERLAY (R105, R106). -/
def State.takeOpen (s : State) (d : Descriptor) : State :=
  let o := s.plane.newOverlay d
  match s.plane.openFailure o with
  | some st => s.completeOverlay st
  | none => { s with plane := { s.plane with stack := s.plane.stack ++ [o] } }.sendPlanes [.row]

/-- OPEN_OVERLAY. -/
def execOpenOverlay (s : State) : Host.Outcome State Fault Refusal :=
  match s.plane.inbox with
  | .openOverlay d :: _ => .next (s.dropPlane.takeOpen d)
  | _ => .next s

/-- The taking of CLOSE_OVERLAY (R109). -/
def State.takeClose (s : State) : State :=
  match s.plane.topOverlay with
  | none => s.completeOverlay .noOverlay
  | some o => { s with plane := s.plane.setTop { o with state := .closing 0 } }.sendPlanes [.row]

/-- CLOSE_OVERLAY. -/
def execCloseOverlay (s : State) : Host.Outcome State Fault Refusal :=
  match s.plane.inbox with
  | .closeOverlay :: _ => .next s.dropPlane.takeClose
  | _ => .next s

/-- Save one cell of an overlay and write its fill (R107, steps 1 and 2). -/
def Overlay.saveCell (o : Overlay) (row : Nat) (p : PlaneController) (col : Nat) : PlaneController :=
  (p.putSave (o.slotOf row col) (p.cell row col)).putCell row col o.fill

/-- Restore one cell of an overlay (R110, step 1). -/
def Overlay.restoreCell (o : Overlay) (row : Nat) (p : PlaneController) (col : Nat) : PlaneController :=
  p.putCell row col (p.save.get saveSpec (o.slotOf row col))

/-- The columns of an overlay. -/
def Overlay.columnList (o : Overlay) : List Nat := (List.range o.width).map fun i => o.left + i

/-- The end of an overlay operation: the command completes, and the Control Unit is told (R107, R110, R193). -/
def State.endOverlay (s : State) : State :=
  { s with control := { s.control with overlayReports := s.control.overlayReports + 1 } }.completeOverlay .done

/-- A row event of an OPENING overlay with `k` rows passed (R107). -/
def State.openingRow (s : State) (o : Overlay) (k : Nat) : State :=
  let p := o.columnList.foldl (o.saveCell (o.top + k)) s.plane
  if k + 1 < o.height then { s with plane := p.setTop { o with state := .opening (k + 1) } }.sendPlanes [.row]
  else { s with plane := p.setTop { o with state := .opened } }.endOverlay

/-- OPENING_ROW. -/
def execOpeningRow (s : State) : Host.Outcome State Fault Refusal :=
  match s.plane.inbox, s.plane.topOverlay with
  | .row :: _, some o =>
    match o.state with
    | .opening k => .next (s.dropPlane.openingRow o k)
    | .opened => .next s
    | .closing _ => .next s
  | _, _ => .next s

/-- A row event of a CLOSING overlay with `k` rows passed (R110). -/
def State.closingRow (s : State) (o : Overlay) (k : Nat) : State :=
  let p := o.columnList.foldl (o.restoreCell (o.top + k)) s.plane
  if k + 1 < o.height then { s with plane := p.setTop { o with state := .closing (k + 1) } }.sendPlanes [.row]
  else { s with plane := { p with stack := p.stack.dropLast } }.endOverlay

/-- CLOSING_ROW. -/
def execClosingRow (s : State) : Host.Outcome State Fault Refusal :=
  match s.plane.inbox, s.plane.topOverlay with
  | .row :: _, some o =>
    match o.state with
    | .closing k => .next (s.dropPlane.closingRow o k)
    | .opened => .next s
    | .opening _ => .next s
  | _, _ => .next s

end Sys2Proof.Machine
end

