-- ==== Sys2Proof/Machine/Memory.lean ====
section
/-! DEFINITION. The Memory Master: arrival and grant of requests, the terminal bus, and the end of a transaction
(Section 10). -/

namespace Sys2Proof.Machine

/-- The number of words of a transaction (R169). -/
def TxKind.words : TxKind → Nat
  | .statusRead _ => 1
  | .bodyRead _ => 15
  | .writeBack _ => 2
  | .setupRead => 32
  | .glyphRead => 4

/-- The requester of a transaction (R169). -/
def TxKind.requester : TxKind → Requester
  | .statusRead r => .ring r
  | .bodyRead r => .ring r
  | .writeBack r => .ring r
  | .setupRead => .loader
  | .glyphRead => .loader

/-- Does the transaction write (R169)? -/
def TxKind.isWrite : TxKind → Bool
  | .writeBack _ => true
  | .statusRead _ => false
  | .bodyRead _ => false
  | .setupRead => false
  | .glyphRead => false

/-- The address of word `k` of a transaction in order of transfer: a read goes upward from its first address; the
write-back moves word 3, at its first address, and then word 0, twelve bytes below (R169). -/
def Transaction.address (tx : Transaction) (k : Nat) : Nat :=
  if tx.kind.isWrite then (if k = 0 then tx.addr else tx.addr - 12) else tx.addr + 4 * k

/-- The ring that the round robin grants: the first from the pointer that holds a request (R171). -/
def MemoryMaster.pick (m : MemoryMaster) : Option RingId :=
  [m.pointer, nextRing m.pointer, nextRing (nextRing m.pointer)].find? fun r => (m.held.rings.get r).isSome

/-- Grant a held request if no transaction is in flight (R170 to R172). -/
def MemoryMaster.grant (m : MemoryMaster) : MemoryMaster :=
  match m.inFlight with
  | some _ => m
  | none =>
    match m.pick with
    | some r =>
      { m with inFlight := m.held.rings.get r, held := m.held.set (.ring r) none, pointer := nextRing r }
    | none =>
      match m.held.loader with
      | some tx => { m with inFlight := some tx, held := m.held.set .loader none }
      | none => m

/-- MEMORY_REQUEST: the Memory Master takes the arrival of the request that `q` sent (R168, R170). -/
def execMemoryRequest (q : Requester) (s : State) : Host.Outcome State Fault Refusal :=
  match s.memory.sent.get q with
  | none => .next s
  | some tx =>
    .next { s with memory :=
      { s.memory with sent := s.memory.sent.set q none, held := s.memory.held.set q (some tx) }.grant }

/-- BUS_GRANT: the transaction in flight enters TRANSFERRING (R173). -/
def execBusGrant (s : State) : Host.Outcome State Fault Refusal :=
  match s.memory.inFlight with
  | none => .next s
  | some tx => .next { s with memory := { s.memory with inFlight := some { tx with phase := .transferring } } }

/-- Return the completion of a transaction to its requester, with the words read (R175). -/
def State.returnCompletion (s : State) (k : TxKind) (ws : List Word) : State :=
  match k with
  | .statusRead r => s.sendRing r (.statusEnd (ws.headD 0))
  | .bodyRead r => s.sendRing r (.bodyEnd ws)
  | .writeBack r => s.sendRing r .writeBackEnd
  | .setupRead => { s with control := { s.control with loaderInput := some (.setupWords ws) } }
  | .glyphRead => { s with control := { s.control with loaderInput := some (.glyphWords ws) } }

/-- Return a fault to the requester of a transaction (R175). -/
def State.returnFault (s : State) (k : TxKind) : State :=
  match k.requester with
  | .ring r => s.sendRing r .fault
  | .loader => { s with control := { s.control with loaderInput := some .fault } }

/-- End the transaction in flight, release the bus, and grant the next request (R173, R170). -/
def State.endTransaction (s : State) : State :=
  { s with memory := { s.memory with inFlight := none }.grant }

/-- The transaction after a word is answered: a read takes the data lines (R173). -/
def Transaction.answer (tx : Transaction) (data : Word) : Transaction :=
  { tx with moved := tx.moved + 1, data := if tx.kind.isWrite then tx.data else tx.data ++ [data] }

/-- The answered word of a transferring transaction: the next word starts, or the transaction ends and its
completion is returned, all in one event (R173, R175). -/
def State.answerWord (s : State) (tx : Transaction) (data : Word) : State :=
  if tx.moved + 1 < tx.kind.words then
    { s with memory := { s.memory with inFlight := some (tx.answer data) } }
  else (s.returnCompletion tx.kind (tx.answer data).data).endTransaction

/-- TRANSFER_ACKNOWLEDGE: the outstanding word is answered. When no word is outstanding the acknowledge is ignored
(R174). -/
def execTransferAcknowledge (data : Word) (s : State) : Host.Outcome State Fault Refusal :=
  match s.memory.inFlight with
  | none => .next s
  | some tx =>
    match tx.phase with
    | .requesting => .next s
    | .transferring => .next (s.answerWord tx data)

/-- RESPONSE_LIMIT_EXPIRY: the transaction ends with a fault, the bus is released, and the fault is returned (R174). -/
def execResponseLimitExpiry (s : State) : Host.Outcome State Fault Refusal :=
  match s.memory.inFlight with
  | none => .next s
  | some tx =>
    match tx.phase with
    | .requesting => .next s
    | .transferring => .next (s.returnFault tx.kind).endTransaction

/-! ### The bus pins, computed from the transaction in flight -/

/-- The word that is on the bus: the transaction and how many words were moved before it; none while no word is
outstanding. -/
def State.busWord (s : State) : Option (Transaction × Nat) :=
  match s.memory.inFlight with
  | none => none
  | some tx =>
    match tx.phase with
    | .requesting => none
    | .transferring => some (tx, tx.moved)

/-- Bus request: asserted from the grant of a transaction until its end (R173). -/
def State.busRequest (s : State) : Bool := s.memory.inFlight.isSome

/-- The four byte enables: all asserted with each word (Section 10.1). -/
def State.byteEnables (s : State) : BitVec 4 := if s.busWord.isSome then 0xF else 0

/-- The address lines, while a strobe is asserted (R169). -/
def State.busAddress (s : State) : Option Nat := s.busWord.map fun w => w.1.address w.2

/-- The data lines that the MQ-460 drives, while a write strobe is asserted (R169, R173). -/
def State.busData (s : State) : Option Word :=
  match s.busWord with
  | none => none
  | some (tx, k) => if tx.kind.isWrite then some (tx.data.getD k 0) else none

/-- The read strobe (R173). -/
def State.readStrobe (s : State) : Bool :=
  match s.busWord with
  | none => false
  | some (tx, _) => !tx.kind.isWrite

/-- The write strobe (R173). -/
def State.writeStrobe (s : State) : Bool :=
  match s.busWord with
  | none => false
  | some (tx, _) => tx.kind.isWrite

end Sys2Proof.Machine
end

