-- ==== Sys2Proof/Machine/Rings.lean ====
section
/-! DEFINITION. The Ring Units: fetching, passing on and handing back, silence, and memory faults (Section 9). -/

namespace Sys2Proof.Machine

/-- Drop the front of what a Ring Unit has been returned. -/
def State.dropInput (s : State) (r : RingId) : State := s.modRing r fun u => { u with input := u.input.tail }

/-- Set the fetch phase of a ring. -/
def State.setPhase (s : State) (r : RingId) (p : FetchPhase) : State := s.modRing r fun u => { u with phase := p }

/-- Does a ring in this state fetch while the device is RUNNING (R149)? -/
def RingState.fetches : RingState → Bool
  | .on => true
  | .silent => true
  | .off => false
  | .stopping => false
  | .halted => false

/-- Word 0 of the descriptor in flight. -/
def InFlight.word0 : InFlight → Word
  | .none => 0
  | .header w => w
  | .fetched d => d.word0

/-! ### Fetching (R150, R152) -/

/-- The status read has ended with word 0 (R150): a STOPPING ring becomes OFF whatever the flag (R157); otherwise the
ring waits, or asks for the body read. -/
def State.takeStatusWord (s : State) (r : RingId) (w : Word) : State :=
  let u := s.rings.get r
  if u.state = .stopping then (s.setPhase r .idle).changeRing r .off
  else if ownedWord w then
    (s.modRing r fun u => { u with phase := .body, inFlight := .header w }).sendMemory (.ring r)
      ⟨.bodyRead r, u.descriptorAddress + 4, 0, [], .requesting⟩
  else s.setPhase r .waiting

/-- STATUS_READ_END: a Ring Unit takes its completed status read. -/
def execStatusReadEnd (r : RingId) (s : State) : Host.Outcome State Fault Refusal :=
  match (s.rings.get r).input with
  | .statusEnd w :: _ => .next ((s.dropInput r).takeStatusWord r w)
  | _ => .next s

/-- Is the kind one of the seventeen kinds (R152)? -/
def kindLegal (k : Nat) : Bool := decide (1 ≤ k ∧ k ≤ 3) || decide (16 ≤ k ∧ k ≤ 29)

/-- Send a descriptor to the block that owns its kind (R152). -/
def State.passOn (s : State) (r : RingId) (d : Descriptor) : State :=
  match d.kind with
  | 16 => s.sendQuote (.define d)
  | 17 => s.sendQuote (.remove d)
  | 18 => s.sendQuote (.setSources d)
  | 19 => s.sendField (.bind d)
  | 20 => s.sendField (.unbind d)
  | 21 => s.sendField (.move d)
  | 22 => s.sendField (.style d)
  | 23 => s.sendField (.setPen d)
  | 24 => s.sendPlanes [.writeCells d]
  | 25 => s.sendPlanes [.fillCells d]
  | 26 => s.sendPlanes [.openOverlay d]
  | 27 => s.sendPlanes [.closeOverlay]
  | 28 => s.sendField .repaint
  | 29 => s.sendPlanes [.setCursor d]
  | _ => s.sendQuote (.apply r d)

/-- Attention for an outcome (R154): REJECT on the ring's own port for the REJECTED class; GAP on the own port and on
the Terminal Port for APPLIED_GAP, once when they are one port. -/
def State.outcomeAttention (s : State) (r : RingId) (st : Status) : State :=
  let s := if st.counter = .rejected then s.sendCause r .reject else s
  if st = .appliedGap then
    let s := s.sendCause r .gap
    if isFeed r then s.sendCause .t .gap else s
  else s

/-- The taking of an outcome (R154): count it, set attention, enter RETURN and ask for the write-back of word 3 and
then word 0. -/
def State.takeOutcome (s : State) (r : RingId) (st : Status) (result : Word) : State :=
  let u := s.rings.get r
  ((s.modRing r fun u => { u.count st with phase := .handBack }).outcomeAttention r st).sendMemory (.ring r)
    ⟨.writeBack r, u.descriptorAddress + 12, 0, [result, backWord u.inFlight.word0 st], .requesting⟩

/-- The body read has ended (R152): the kind checks, then the descriptor goes to its owner. -/
def State.takeBody (s : State) (r : RingId) (ws : List Word) : State :=
  let d : Descriptor := ⟨(s.rings.get r).inFlight.word0, ws⟩
  let s := s.modRing r fun u => { u with inFlight := .fetched d }
  if !kindLegal d.kind then s.takeOutcome r .badForm 0
  else if 16 ≤ d.kind ∧ isFeed r then s.takeOutcome r .wrongPort 0
  else (s.setPhase r .owner).passOn r d

/-- BODY_READ_END: a Ring Unit takes its completed body read. -/
def execBodyReadEnd (r : RingId) (s : State) : Host.Outcome State Fault Refusal :=
  match (s.rings.get r).input with
  | .bodyEnd ws :: _ => .next ((s.dropInput r).takeBody r ws)
  | _ => .next s

/-- OUTCOME_TAKEN: a Ring Unit takes the outcome of its descriptor (R154). -/
def execOutcomeTaken (r : RingId) (s : State) : Host.Outcome State Fault Refusal :=
  match (s.rings.get r).input with
  | .outcome st result :: _ => .next ((s.dropInput r).takeOutcome r st result)
  | _ => .next s

/-! ### Handing back (R155) -/

/-- Was NOTIFY set in the descriptor in flight? -/
def InFlight.notify (f : InFlight) : Bool := f.word0.getLsbD 23

/-- Steps 1 to 4 of a hand-back (R155). -/
def State.handBack (s : State) (r : RingId) : State :=
  let u := s.rings.get r
  let s := s.modRing r fun u => { u with inFlight := .none }
  let s := if u.inFlight.notify then s.sendCause r .done else s
  let s := if isFeed r then s.modRing r fun u => { u with silenceCounter := 0 } else s
  let s := if isFeed r && decide (u.state = .silent) then s.changeRing r .on else s
  s.modRing r fun u => { u with index := (u.index + 1) % u.length }

/-- Step 5 of a hand-back (R155): fetch on, or become OFF, or stand idle. -/
def State.fetchOn (s : State) (r : RingId) : State :=
  let u := s.rings.get r
  if u.state.fetches && s.running then s.enterReady r
  else if u.state = .stopping then (s.setPhase r .idle).changeRing r .off
  else s.setPhase r .idle

/-- WRITE_BACK_END: a Ring Unit takes its completed write-back. -/
def execWriteBackEnd (r : RingId) (s : State) : Host.Outcome State Fault Refusal :=
  match (s.rings.get r).input with
  | .writeBackEnd :: _ => .next (((s.dropInput r).handBack r).fetchOn r)
  | _ => .next s

/-! ### Memory faults (R162, R163) -/

/-- A ring halts: descriptor in flight cleared, phase IDLE, HALT_REASON set, HALT on its own port, and what goes with
the change of state. -/
def State.haltRing (s : State) (r : RingId) (why : HaltReason) : State :=
  let s := s.modRing r fun u => { u with inFlight := .none, haltReason := why, phase := .idle }
  (s.changeRing r .halted).sendCause r .halt

/-- RING_FETCH_FAULT: a fault ends a status read or a body read (R162). -/
def execRingFetchFault (r : RingId) (s : State) : Host.Outcome State Fault Refusal :=
  match (s.rings.get r).input, (s.rings.get r).phase with
  | .fault :: _, .status => .next ((s.dropInput r).haltRing r .fetch)
  | .fault :: _, .body => .next ((s.dropInput r).haltRing r .fetch)
  | _, _ => .next s

/-- WRITEBACK_FAULT: a fault ends a write-back (R163). -/
def execWritebackFault (r : RingId) (s : State) : Host.Outcome State Fault Refusal :=
  match (s.rings.get r).input, (s.rings.get r).phase with
  | .fault :: _, .handBack => .next ((s.dropInput r).haltRing r .writeback)
  | _, _ => .next s

/-! ### The frame event and silence (R151, R159) -/

/-- A waiting ring looks again (R151). -/
def State.lookAgain (s : State) (r : RingId) : State :=
  let u := s.rings.get r
  if u.phase = .waiting ∧ u.state.fetches then s.enterReady r else s

/-- The silence counter after a frame event that counts (R159). -/
def RingUnit.silenceNext (u : RingUnit) : Nat := if u.silenceCounter < 4080 then u.silenceCounter + 1 else u.silenceCounter

/-- Does a frame event count silence for this ring (R159)? -/
def State.countsSilence (s : State) (r : RingId) : Bool :=
  isFeed r && s.running && decide ((s.rings.get r).state = .on)

/-- Does a frame event taken now bring the ring to its silence limit (R159)? -/
def State.reachesSilence (s : State) (r : RingId) : Bool :=
  let u := s.rings.get r
  s.countsSilence r && decide (u.silenceLimit ≠ 0) && decide (16 * u.silenceLimit ≤ u.silenceNext)

/-- The silence work of a frame event (R159). -/
def State.silenceFrame (s : State) (r : RingId) : State :=
  let reached := s.reachesSilence r
  let s := if s.countsSilence r then s.modRing r fun u => { u with silenceCounter := u.silenceNext } else s
  if reached then (s.changeRing r .silent).sendCause r .silent else s

/-- A Ring Unit takes a frame event whole (R123): it counts silence and looks again. -/
def State.ringFrame (s : State) (r : RingId) : State :=
  ((s.modRing r fun u => { u with frames := u.frames.tail }).silenceFrame r).lookAgain r

/-- RING_FRAME_EVENT: a Ring Unit takes the oldest frame event sent to it. -/
def execRingFrameEvent (r : RingId) (s : State) : Host.Outcome State Fault Refusal :=
  match (s.rings.get r).frames with
  | [] => .next s
  | _ :: _ => .next (s.ringFrame r)

/-- SILENT: a Ring Unit takes the frame event at which its silence counter reaches the limit. R159 makes the change
part of that frame event, so this is the taking of the frame event in that case (log entry 9). -/
def execSilent (r : RingId) (s : State) : Host.Outcome State Fault Refusal :=
  match (s.rings.get r).frames with
  | [] => .next s
  | _ :: _ => if s.reachesSilence r then .next (s.ringFrame r) else .next s

/-! ### Ring requests from the port and from STOP (R151, R156, R157) -/

/-- RING_ON taken by a Ring Unit (R156). -/
def State.takeRingOn (s : State) (r : RingId) : State :=
  if (s.rings.get r).state = .off ∧ s.control.device ≠ .stopping then
    let s := s.modRing r fun u => { u with index := 0, silenceCounter := 0, haltReason := .none, phase := .idle }
    let s := s.changeRing r .on
    if s.running then s.enterReady r else s
  else s

/-- RING_OFF, or STOP's off request, taken by a Ring Unit (R157). -/
def State.takeRingOff (s : State) (r : RingId) : State :=
  let u := s.rings.get r
  match u.state with
  | .off => s
  | .stopping => s
  | .halted => s.changeRing r .off
  | .on | .silent =>
    match u.phase with
    | .idle | .waiting => (s.setPhase r .idle).changeRing r .off
    | .ready | .status | .body | .owner | .handBack => s.changeRing r .stopping

end Sys2Proof.Machine
end

