-- ==== Sys2Proof/Machine/Control.lean ====
section
/-! DEFINITION. The Control Unit and its Setup Loader: START, its checks, the font load and the commit, and STOP
(12.4, Section 8.2). -/

namespace Sys2Proof.Machine

/-! ### The end of STOP (R193) -/

/-- Is a ring OFF or HALTED? -/
def RingState.stopped : RingState → Bool
  | .off => true
  | .halted => true
  | .on => false
  | .silent => false
  | .stopping => false

/-- Is every ring OFF or HALTED? -/
def State.ringsStopped (s : State) : Bool :=
  s.rings.a.state.stopped && s.rings.b.state.stopped && s.rings.t.state.stopped

/-- Set the device state. -/
def State.setDevice (s : State) (d : DeviceState) : State := { s with control := { s.control with device := d } }

/-- The test that ends STOPPING (R193). -/
def State.stopTest (s : State) : State :=
  if s.control.device = .stopping ∧ s.ringsStopped ∧ !s.overlayBusy then
    (((s.setDevice .stopped).sendCause .t .stopDone).sendCause .a .device).sendCause .b .device
  else s

/-- RING_STOPPED_REPORT. -/
def execRingStoppedReport (s : State) : Host.Outcome State Fault Refusal :=
  match s.control.ringReports with
  | [] => .next s
  | _ :: rest => .next { s with control := { s.control with ringReports := rest } }.stopTest

/-- OVERLAY_END_REPORT. -/
def execOverlayEndReport (s : State) : Host.Outcome State Fault Refusal :=
  match s.control.overlayReports with
  | 0 => .next s
  | n + 1 => .next { s with control := { s.control with overlayReports := n } }.stopTest

/-! ### START taken (R190) -/

/-- The address of the setup read: the setup address with its low 6 bits taken as zero (R181). -/
def State.setupReadAddress (s : State) : Nat := alignDown 64 s.control.setupAddress.toNat

/-- START taken in STOPPED: the device is LOADING, and the Setup Loader asks for the setup read (R190, R172). -/
def State.takeStart (s : State) : State :=
  { s with control := { s.control with device := .loading, ignored := false, stage := .setup } }.sendMemory .loader
    ⟨.setupRead, s.setupReadAddress, 0, [], .requesting⟩

/-- The end of a START that was taken: the Setup Loader is idle and holds nothing, a glyph write not yet taken is
discarded, the last start outcome takes the reason, and START_DONE is set (R136, R189, R190). -/
def State.endStart (s : State) (device : DeviceState) (o : StartOutcome) : State :=
  { s with
    control :=
      { s.control with device := device, lastStart := o, stage := .idle, block := [], loaderInput := none }
    video := { s.video with glyphWrite := none } }.sendCause .t .startDone

/-- A START that fails: the device returns to STOPPED (R190). -/
def State.failStart (s : State) (o : StartOutcome) : State := s.endStart .stopped o

/-! ### The commit (R191) -/

/-- Does the setup block's geometry differ from the one held (R100)? -/
def State.geometryDiffers (s : State) (ws : List Word) : Bool := decide (s.plane.geometry ≠ some (setupGeometry ws))

/-- The Plane Controller takes a new geometry (R100, R118). The save slots keep their values. -/
def PlaneController.regeometry (p : PlaneController) (g : Geometry) : PlaneController :=
  { p with geometry := some g, cells := Tab.filled cellSpec ⟨32, 0⟩, stack := [] }

/-- Does the span of a record lie within a geometry (R45)? -/
def FieldRec.fits (r : FieldRec) (g : Geometry) : Bool := decide (r.row < g.rows) && decide (r.col + r.width ≤ g.columns)

/-- A record under a new geometry: a BOUND field that does not fit becomes SUSPENDED (R45, step 2). -/
def FieldRec.regeometry (g : Geometry) (r : FieldRec) : FieldRec :=
  if r.state = .bound ∧ !r.fits g then { r with state := .suspended } else r

/-- The occupancy map of a field table under a geometry: the span of every BOUND field (R45). -/
def occupancyOf (g : Geometry) (records : Tab FieldRec) : Tab (Option Nat) :=
  records.foldl (fun occ e =>
    if e.2.state = .bound then
      markCells occ ((List.range e.2.width).map fun i => e.2.row * g.columns + (e.2.col + i)) (some e.1)
    else occ) []

/-- The Field Unit takes a new geometry (R45). -/
def FieldUnit.regeometry (u : FieldUnit) (g : Geometry) : FieldUnit :=
  let records := u.records.mapListed fieldSpec (FieldRec.regeometry g)
  { u with records := records, occupancy := occupancyOf g records }

/-- The change of geometry at a commit, in the Plane Controller, the Field Unit and the cursor (R45, R100, R118,
R143). A cursor change not yet taken is dropped, so that no cursor is left naming a cell of the old geometry (log entry
23). A frame in progress keeps the cursor that R139 fixed for it to its end, over the plane that the commit clears; that
is the model's choice (log entry 27). -/
def State.regeometry (s : State) (g : Geometry) : State :=
  { s with
    plane := s.plane.regeometry g
    field := s.field.regeometry g
    video := { s.video with cursor := Cursor.reset, cursorChanges := [] } }

/-- The Video Generator's share of a commit but for the cursor (R145). -/
def VideoGenerator.commit (v : VideoGenerator) (ws : List Word) : VideoGenerator :=
  { v with
    palette := setupPalette ws
    pens := setupPens ws
    glyphHeight := some (setupByte ws 2)
    blinkHalf := setupByte ws 3
    blinkCounter := 0
    shown := true }

/-- Ring T's share of a commit (R165). -/
def RingUnit.commit (u : RingUnit) (ws : List Word) : RingUnit :=
  { u with base := setupRingBase ws, lengthCode := setupLength ws, index := 0, haltReason := .none, state := .on }

/-- The Ring Units' shares of a commit (R165): the silence limits are bytes 4 and 5 of the setup block. -/
def commitRings (r : PerRing RingUnit) (ws : List Word) : PerRing RingUnit :=
  ⟨{ r.a with silenceLimit := setupByte ws 4 }, { r.b with silenceLimit := setupByte ws 5 }, r.t.commit ws⟩

/-- A ring in ON enters READY as the device enters RUNNING (R165). -/
def State.startRing (s : State) (r : RingId) : State := if (s.rings.get r).state = .on then s.enterReady r else s

/-- The shares of the commit that do not depend on whether the geometry differs. -/
def State.commitShares (s : State) (ws : List Word) : State :=
  { s with
    field := { s.field with absentGlyph := setupAbsentGlyph ws }
    highlight := { s.highlight with holds := setupHolds ws }
    video := s.video.commit ws
    rings := commitRings s.rings ws }

/-- A sweep trigger joins the Field Unit's requests (R46), before a step request that is left over among them, so that it
finds step outstanding set and that step is the first of the new pass (R131); where it stands among the other requests is
the model's choice (log entry 24). -/
def joinTrigger : List FieldRequest → List FieldRequest
  | [] => [.trigger]
  | .step :: rest => .trigger :: .step :: rest
  | q :: rest => q :: joinTrigger rest

/-- The commit's trigger is sent (R126, R131). -/
def State.commitTrigger (s : State) : State :=
  { s with field := { s.field with inbox := joinTrigger s.field.inbox } }

/-- The commit of a START (R191). -/
def State.commit (s : State) (ws : List Word) : State :=
  let s := if s.geometryDiffers ws then s.regeometry (setupGeometry ws) else s
  let s := (s.commitShares ws).endStart .running .done
  let s := (s.sendCause .a .device).sendCause .b .device
  ((s.commitTrigger.startRing .a).startRing .b).startRing .t

/-! ### The load (R136, R190) -/

/-- Ask for the read of glyph `g` of the font (R136). -/
def State.readGlyph (s : State) (g : Nat) : State :=
  { s with control := { s.control with stage := .font g } }.sendMemory .loader
    ⟨.glyphRead, setupFontAddress s.control.block + 16 * g, 0, [], .requesting⟩

/-- The completed setup read is taken (R190): a failed check, the font load, or the commit. -/
def State.takeSetup (s : State) (ws : List Word) : State :=
  let s := { s with control := { s.control with loaderInput := none } }
  match setupFailure ws with
  | some o => s.failStart o
  | none =>
    if setupFontLoad ws then { s with control := { s.control with block := ws } }.readGlyph 0 else s.commit ws

/-- SETUP_READ_END. -/
def execSetupReadEnd (s : State) : Host.Outcome State Fault Refusal :=
  match s.control.loaderInput, s.control.stage with
  | some (.setupWords ws), .setup => .next (s.takeSetup ws)
  | _, _ => .next s

/-- FETCH_FAULT: the setup read has ended with a fault. -/
def execFetchFault (s : State) : Host.Outcome State Fault Refusal :=
  match s.control.loaderInput, s.control.stage with
  | some .fault, .setup => .next (s.failStart .fetchFault)
  | _, _ => .next s

/-- GLYPH_READ_END: the Setup Loader sends a glyph write (R136, R182). -/
def execGlyphReadEnd (s : State) : Host.Outcome State Fault Refusal :=
  match s.control.loaderInput, s.control.stage with
  | some (.glyphWords ws), .font g =>
    .next { s with
      control := { s.control with loaderInput := none }
      video := { s.video with glyphWrite := some ⟨g, glyphOf ws⟩ } }
  | _, _ => .next s

/-- FONT_FAULT: a glyph read has ended with a fault. -/
def execFontFault (s : State) : Host.Outcome State Fault Refusal :=
  match s.control.loaderInput, s.control.stage with
  | some .fault, .font _ => .next (s.failStart .fontFault)
  | _, _ => .next s

/-- The Video Generator takes a glyph write: all 16 lines are replaced (R135, R136). -/
def State.storeGlyph (s : State) (w : GlyphWrite) : State :=
  { s with video := { s.video with glyphs := s.video.glyphs.set glyphSpec w.number w.lines, glyphWrite := none } }

/-- GLYPH_WRITE: after glyph 511 the START commits; after any other the next read is asked for (R136, R191). -/
def execGlyphWrite (s : State) : Host.Outcome State Fault Refusal :=
  match s.video.glyphWrite with
  | none => .next s
  | some w =>
    let s := s.storeGlyph w
    if w.number < 511 then .next (s.readGlyph (w.number + 1)) else .next (s.commit s.control.block)

/-! ### STOP (R192, R193, R80, R131, R166, R176) -/

/-- The off request goes to a ring in ON or SILENT (R166). -/
def State.offRequest (s : State) (r : RingId) : State := if (s.rings.get r).state.fetches then s.takeRingOff r else s

/-- The Highlight Timer's and the Field Unit's part of STOP in RUNNING (R80): the queue is emptied and every tick set to
NONE. An arm or remove request sent and not yet taken goes with the queue (log entry 12). -/
def State.clearHighlights (s : State) : State :=
  { s with
    highlight := { s.highlight with queue := [], requests := [] }
    field := { s.field with records := s.field.records.mapListed fieldSpec fun v => { v with tick := .steady } } }

/-- STOP taken in RUNNING (R193). -/
def State.stopRunning (s : State) : State :=
  let s := { s with control := { s.control with device := .stopping, ignored := false } }
  let s := s.clearHighlights.abandonSweep.fieldFinish
  (((s.offRequest .a).offRequest .b).offRequest .t).stopTest

/-- The Memory Master ends or withdraws the Setup Loader's transaction (R176). -/
def MemoryMaster.dropLoader (m : MemoryMaster) : MemoryMaster :=
  let m := { m with held := m.held.set .loader none, sent := m.sent.set .loader none }
  match m.inFlight with
  | none => m
  | some tx => if tx.kind.requester = .loader then { m with inFlight := none }.grant else m

/-- STOP taken in LOADING (R192). Both START_DONE and STOP_DONE are sent to the Terminal Attention Unit, which takes each
as an event of its own (R187); the spec gives no order between the two, and that START_DONE is sent before STOP_DONE is
the model's choice (log entry 28). -/
def State.stopLoading (s : State) : State :=
  let s := { s with
    memory := s.memory.dropLoader
    control := { s.control with ignored := false } }
  (s.endStart .stopped .stopped).sendCause .t .stopDone

/-! ### DEVICE_CONTROL (R189) -/

/-- A START or STOP that is not taken sets the ignored-command flag (R189). -/
def State.ignoreCommand (s : State) : State := { s with control := { s.control with ignored := true } }

/-- A write to DEVICE_CONTROL (R189). -/
def State.deviceControlWrite (s : State) (v : Half) : State :=
  match v.getLsbD 0, v.getLsbD 1, s.control.device with
  | false, false, _ => s
  | true, false, .stopped => s.takeStart
  | false, true, .loading => s.stopLoading
  | false, true, .running => s.stopRunning
  | _, _, _ => s.ignoreCommand

end Sys2Proof.Machine
end

