-- ==== Sys2Proof/Machine/HighlightSteps.lean ====
section
/-! DEFINITION. The commands of the Highlight Timer (R75 to R78). -/

namespace Sys2Proof.Machine

/-- The Highlight Timer has taken its front request and become `h`; the Field Unit event that sent it may now end. -/
def State.highlightTaken (s : State) (h : HighlightTimer) : State :=
  { s with highlight := { h with requests := s.highlight.requests.tail } }.fieldFinish

/-- ARM_REQUEST (R76). -/
def execArmRequest (s : State) : Host.Outcome State Fault Refusal :=
  match s.highlight.requests with
  | .arm f hold :: _ => .next (s.highlightTaken (s.highlight.arm f hold))
  | _ => .next s

/-- REMOVE_REQUEST (R77). -/
def execRemoveRequest (s : State) : Host.Outcome State Fault Refusal :=
  match s.highlight.requests with
  | .remove f :: _ => .next (s.highlightTaken (s.highlight.drop f))
  | _ => .next s

/-- A frame event taken by the Highlight Timer (R78, R121): it works from the number the event carries, and while the
device is RUNNING marks the due entries and sends their expiries. -/
def State.highlightFrame (s : State) (n : Half) : State :=
  let h := { s.highlight with frame := n, frames := s.highlight.frames.tail }
  if s.running then
    { s with highlight := { h with queue := markDue n h.queue } }.sendFields ((dueFields n h.queue).map .expiry)
  else { s with highlight := h }

/-- HIGHLIGHT_EXPIRY: the Highlight Timer takes the oldest frame event sent to it (R78). -/
def execHighlightExpiry (s : State) : Host.Outcome State Fault Refusal :=
  match s.highlight.frames with
  | [] => .next s
  | n :: _ => .next (s.highlightFrame n)

end Sys2Proof.Machine
end

