-- ==== Sys2Proof/Machine/Registers.lean ====
section
/-! DEFINITION. The register map of the ports, and what a read of the selector or of the data window returns
(12.1, 12.2). Reads change no state and have no row in the opcode table. -/

namespace Sys2Proof.Machine

/-! ### The register map (R183) -/

/-- The registers. For a register of two halves, `high` names the high half. -/
inductive Register where
  | portStatus
  | portControl
  | attnPending
  | attnEnable
  | ringBase (high : Bool)
  | ringLength
  | ringIndex
  | counter (c : Counter)
  | haltReason
  | deviceControl
  | deviceStatus
  | setupAddress (high : Bool)
  | frameNumber
  | sweepStatus
  | overlayStatus
  | feedView
  | raise
  | probeSelect
  | probeData (n : Fin 5)
  deriving DecidableEq, Repr

/-- The register of a ring's own port at an index: 0 to 12 (R183). -/
def ringRegisterAt : Nat → Option Register
  | 0 => some .portStatus
  | 1 => some .portControl
  | 2 => some .attnPending
  | 3 => some .attnEnable
  | 4 => some (.ringBase false)
  | 5 => some (.ringBase true)
  | 6 => some .ringLength
  | 7 => some .ringIndex
  | 8 => some (.counter .applied)
  | 9 => some (.counter .duplicate)
  | 10 => some (.counter .stale)
  | 11 => some (.counter .rejected)
  | 12 => some .haltReason
  | _ => none

/-- The register of the Terminal Port alone at an index: 16 to 30 (R183). -/
def terminalRegisterAt : Nat → Option Register
  | 16 => some .deviceControl
  | 17 => some .deviceStatus
  | 18 => some (.setupAddress false)
  | 19 => some (.setupAddress true)
  | 20 => some .frameNumber
  | 21 => some .sweepStatus
  | 22 => some .overlayStatus
  | 23 => some .feedView
  | 24 => some .raise
  | 25 => some .probeSelect
  | 26 => some (.probeData 0)
  | 27 => some (.probeData 1)
  | 28 => some (.probeData 2)
  | 29 => some (.probeData 3)
  | 30 => some (.probeData 4)
  | _ => none

/-- The register that a port reaches at an index (R183). -/
def registerAt (p : Port) (n : Nat) : Option Register :=
  if n < 16 then ringRegisterAt n else if isFeed p then none else terminalRegisterAt n

/-- May the register be written (R183)? -/
def Register.writable : Register → Bool
  | .portControl | .attnPending | .attnEnable | .ringBase _ | .ringLength | .counter _ | .deviceControl
  | .setupAddress _ | .raise | .probeSelect => true
  | .portStatus | .ringIndex | .haltReason | .deviceStatus | .frameNumber | .sweepStatus | .overlayStatus | .feedView
  | .probeData _ => false

/-- The register that a window access of a port reaches: the one its selector names, if any (R183), and none while
RESET is asserted, so that the access then reads 0 and has its write ignored (R194). -/
def State.selected (s : State) (p : Port) : Option Register :=
  if s.resetHeld then none else registerAt p (s.ports.get p).selector.toNat

/-! ### Codes of states in registers (12.1) -/

/-- Ring state in PORT_STATUS and FEED_VIEW. -/
def RingState.code : RingState → Nat
  | .off => 0
  | .on => 1
  | .silent => 2
  | .stopping => 3
  | .halted => 4

/-- Device state in PORT_STATUS and DEVICE_STATUS. -/
def DeviceState.code : DeviceState → Nat
  | .stopped => 0
  | .loading => 1
  | .running => 2
  | .stopping => 3

/-- Last start outcome in DEVICE_STATUS. -/
def StartOutcome.code : StartOutcome → Nat
  | .none => 0
  | .done => 1
  | .geometry => 2
  | .glyphHeight => 3
  | .blink => 4
  | .ring => 5
  | .pen => 6
  | .fetchFault => 7
  | .fontFault => 8
  | .stopped => 9

/-- HALT_REASON. -/
def HaltReason.code : HaltReason → Nat
  | .none => 0
  | .fetch => 1
  | .writeback => 2

/-- The overlay operation under way, in OVERLAY_STATUS (R116). -/
def PlaneController.operation (p : PlaneController) : Nat :=
  match p.topOverlay with
  | none => 0
  | some o =>
    match o.state with
    | .opened => 0
    | .opening _ => 1
    | .closing _ => 2

/-- Tick in the field probe. -/
def Tick.code : Tick → Nat
  | .steady => 0
  | .up => 1
  | .down => 2

/-- Sequence state in the instrument probe. -/
def SeqState.code : SeqState → Nat
  | .unsequenced => 0
  | .synced => 1
  | .gapped => 2

/-- Overlay state in the overlay probe. -/
def OverlayState.code : OverlayState → Nat
  | .opening _ => 1
  | .opened => 2
  | .closing _ => 3

/-- A source mask as a number: A, B and T in bits 0, 1 and 2 (R179). -/
def maskCode (m : PerRing Bool) : Nat := m.a.toNat + 2 * m.b.toNat + 4 * m.t.toNat

/-! ### The probe (R186, R83) -/

/-- Highlight of a field in the probe: 0 none, 1 WAITING, 2 EXPIRED. -/
def HighlightTimer.probe (h : HighlightTimer) (f : Nat) : Nat :=
  match h.entry f with
  | none => 0
  | some e => if e.expired then 2 else 1

/-- Frames left on a field's highlight; 0 when there is none (R83). -/
def HighlightTimer.framesLeft (h : HighlightTimer) (f : Nat) : Nat :=
  match h.entry f with
  | none => 0
  | some e => if e.expired then 0 else h.remaining e

/-- PROBE_DATA of a field. -/
def State.probeField (s : State) (f : Nat) : Fin 5 → Nat
  | 0 => (s.record f).state.code + 4 * (s.record f).tick.code + 16 * s.highlight.probe f + 256 * (s.record f).overflow
  | 1 => s.highlight.framesLeft f + 256 * (s.record f).slot
  | 2 => (s.record f).row + 256 * (s.record f).col
  | 3 => (s.record f).width + 256 * (s.record f).item.val
  | 4 => 0

/-- PROBE_DATA of an instrument. -/
def probeSlot (v : Slot) : Fin 5 → Nat
  | 0 => halfOf v.key 0
  | 1 => halfOf v.key 1
  | 2 => v.occupied.toNat + (if v.condition = .paused then 2 else 0) + 4 * v.seqState.code + 16 * maskCode v.sources +
      256 * v.bindings.length
  | 3 => v.lastSeq.toNat % 65536
  | 4 => v.lastSeq.toNat / 65536

/-- PROBE_DATA of an overlay place; a place above the depth reports no overlay. -/
def PlaneController.probeOverlay (p : PlaneController) (place : Nat) (n : Fin 5) : Nat :=
  match p.stack[place - 1]? with
  | none => 0
  | some o =>
    match n with
    | 0 => o.top + 256 * o.left
    | 1 => o.height + 256 * o.width
    | 2 => o.state.code
    | 3 => 0
    | 4 => 0

/-- A PROBE_DATA register (R186). -/
def State.probeData (s : State) (n : Fin 5) : Nat :=
  let i := s.probe.index.toNat
  match s.probe.table with
  | .none => 0
  | .field => if i < 512 then s.probeField i n else 0
  | .instrument => if i < 256 then probeSlot (s.slot i) n else 0
  | .overlay => if 1 ≤ i ∧ i ≤ 4 then s.plane.probeOverlay i n else 0

/-! ### Reads (R183 to R186) -/

/-- What a read of a register through a port returns; a register that is written and not read returns 0. -/
def State.readRegister (s : State) (p : Port) : Register → Nat
  | .portStatus => (s.rings.get p).state.code + 16 * s.control.device.code
  | .portControl => 0
  | .attnPending => (s.ports.get p).attnPending.toNat
  | .attnEnable => (s.ports.get p).attnEnable.toNat
  | .ringBase high => halfOf (s.rings.get p).base high.toNat
  | .ringLength => (s.rings.get p).lengthCode.val
  | .ringIndex => (s.rings.get p).index
  | .counter c => ((s.rings.get p).counter c).toNat
  | .haltReason => (s.rings.get p).haltReason.code
  | .deviceControl => 0
  | .deviceStatus => s.control.device.code + 16 * s.control.lastStart.code + 256 * s.control.ignored.toNat
  | .setupAddress high => halfOf s.control.setupAddress high.toNat
  | .frameNumber => s.video.frameNumber.toNat
  | .sweepStatus => s.field.sweep.position + 16384 * s.field.sweep.rerun.toNat + 32768 * s.field.sweep.active.toNat
  | .overlayStatus => s.plane.stack.length + 16 * s.plane.operation
  | .feedView => s.rings.a.state.code + 16 * s.rings.b.state.code
  | .raise => 0
  | .probeSelect => 0
  | .probeData n => s.probeData n

/-- A read of the data window; an index with no register returns 0 (R183). -/
def State.windowRead (s : State) (p : Port) : Half :=
  match s.selected p with
  | none => 0
  | some g => BitVec.ofNat 16 (s.readRegister p g)

/-- A read of the selector address: the selector in bits 0 to 4 (R183). -/
def State.selectorRead (s : State) (p : Port) : Half := (s.ports.get p).selector.setWidth 16

end Sys2Proof.Machine
end

