-- ==== Sys2Proof/Machine/Video.lean ====
section
/-! DEFINITION. The Video Generator: the cursor change, the scan of a frame, the frame event with the blink phase, and
how a dot is drawn (Sections 7.1 and 8). -/

namespace Sys2Proof.Machine

/-! ### The cursor (R142) -/

/-- CURSOR_CHANGE: row, column and mode are replaced together. In LOADING the Video Generator changes the board only by
glyph writes (R146), so a change not taken before the START is held until LOADING ends (log entry 25). -/
def execCursorChange (s : State) : Host.Outcome State Fault Refusal :=
  match s.video.cursorChanges with
  | [] => .next s
  | c :: rest =>
    if s.control.device = .loading then .next s
    else .next { s with video := { s.video with cursor := c, cursorChanges := rest } }

/-! ### The scan and the frame event (R120 to R123, R139) -/

/-- How many cells a frame draws, counting each once on every scan line of its row (R139). -/
def Scan.total (f : Scan) : Nat :=
  match f.geometry, f.glyphHeight with
  | some g, some height => g.rows * height * g.columns
  | _, _ => 0

/-- The `n`-th cell that a frame draws, as row, scan line of the row, and column: the rows in order from row 0, in each
row its scan lines from line 0, and on each scan line the cells from column 0 (R139). -/
def Scan.place (f : Scan) (n : Nat) : Option (Nat × Nat × Nat) :=
  match f.geometry, f.glyphHeight with
  | some g, some height =>
    if n < f.total then some (n / (height * g.columns), n / g.columns % height, n % g.columns) else none
  | _, _ => none

/-- The scan goes on: one more cell is drawn on its scan line, and after the last none. No command stands for this
(log entry 2). -/
def State.drawNext (s : State) : State :=
  match s.video.scan with
  | none => s
  | some f =>
    if f.drawn < f.total then { s with video := { s.video with scan := some { f with drawn := f.drawn + 1 } } } else s

/-- FRAME_SCAN_START: the geometry, the glyph height and the cursor are fixed for the frame (R139). Nothing is scanned
while the shown flag is clear (R144), and one frame ends before the next begins (log entry 11). -/
def execFrameScanStart (s : State) : Host.Outcome State Fault Refusal :=
  match s.video.scan with
  | some _ => .next s
  | none =>
    if s.video.shown then
      .next { s with video :=
        { s.video with scan := some ⟨s.plane.geometry, s.video.glyphHeight, s.video.cursor, 0⟩ } }
    else .next s

/-- Does the next frame event bring the blink counter to the half-period (R122)? -/
def VideoGenerator.reachesHalf (v : VideoGenerator) : Bool := decide (v.blinkCounter + 1 = v.blinkHalf)

/-- The Video Generator's own work at a frame event (R121, R122). -/
def VideoGenerator.frame (v : VideoGenerator) : VideoGenerator :=
  { v with
    frameNumber := v.frameNumber + 1
    blinkCounter := if v.reachesHalf then 0 else v.blinkCounter + 1
    blinkPhase := if v.reachesHalf then !v.blinkPhase else v.blinkPhase
    scan := none }

/-- A frame event waits at a Ring Unit (R123). -/
def RingUnit.pushFrame (n : Half) (u : RingUnit) : RingUnit := { u with frames := u.frames ++ [n] }

/-- Send a frame event, with the frame number it carries, to the Highlight Timer and the three Ring Units (R123). -/
def State.sendFrame (s : State) (n : Half) : State :=
  { s with
    highlight := { s.highlight with frames := s.highlight.frames ++ [n] }
    rings := ⟨s.rings.a.pushFrame n, s.rings.b.pushFrame n, s.rings.t.pushFrame n⟩ }

/-- The frame event raised (R120, R121). -/
def State.raiseFrame (s : State) : State := { s with video := s.video.frame }.sendFrame s.video.frame.frameNumber

/-- Is a frame being scanned, so that its vertical blanking can begin? -/
def VideoGenerator.scanning (v : VideoGenerator) : Bool := v.shown && v.scan.isSome

/-- FRAME_EVENT: one in each frame that is scanned, at the start of its vertical blanking, which comes after the last
scan line of the last row (R120, R139). The cells not yet drawn are drawn before it, from the state as it stands; no
event comes between (log entry 11). -/
def execFrameEvent (s : State) : Host.Outcome State Fault Refusal :=
  if s.video.scanning then .next s.raiseFrame else .next s

/-- BLINK_PHASE_CHANGE: the frame event at which the blink counter reaches the half-period. R122 makes the change part
of that frame event, so this is the frame event in that case (log entry 9). -/
def execBlinkPhaseChange (s : State) : Host.Outcome State Fault Refusal :=
  if s.video.scanning && s.video.reachesHalf then .next s.raiseFrame else .next s

/-! ### How a cell is drawn (R140 to R142, R144) -/

/-- Does the blink class hide the glyph in a phase (R141)? Phase 1 is `true`. -/
def BlinkClass.hides : BlinkClass → Bool → Bool
  | .steady, _ => false
  | .phase0, phase => phase
  | .phase1, phase => !phase

/-- Is the cursor shown on a cell in a phase (R142)? -/
def Cursor.shownOn (c : Cursor) (row col : Nat) (phase : Bool) : Bool :=
  decide (c.row = row) && decide (c.col = col) && match c.mode with
    | .off => false
    | .steady => true
    | .blink => !phase

/-- Is dot `x` of line `k` ink, before blinking (R140, step 1)? Bit 7 of a line is dot 0 (R182). -/
def inkDot (g : Glyph) (p : Pen) (height k x : Nat) : Bool :=
  (p.underline && decide (k + 1 = height)) || (if h : k < 16 then (g[k]'h).getLsbD (7 - x) else false)

/-- The palette entry that a dot of a cell takes (R140). -/
def dotEntry (g : Glyph) (p : Pen) (height k x : Nat) (phase cursor : Bool) : BitVec 4 :=
  let ink := inkDot g p height k x && !p.blink.hides phase
  if (ink != p.reverse) != cursor then p.foreground else p.background

/-- The colour of dot `x` (0..7) of scan line `k` of the cell at a row and column of the frame being scanned; none while
nothing is scanned, or for a dot outside the picture (R139, R140). -/
def State.dotColour (s : State) (row col k x : Nat) : Option Colour :=
  match s.video.scan with
  | none => none
  | some f =>
    match f.geometry, f.glyphHeight with
    | some geo, some height =>
      if row < geo.rows ∧ col < geo.columns ∧ k < height ∧ x < 8 then
        let c := s.plane.cells.get cellSpec (row * geo.columns + col)
        let g := s.video.glyphs.get glyphSpec c.glyph.toNat
        let p := s.video.pens[c.pen.toNat]'c.pen.isLt
        let e := dotEntry g p height k x s.video.blinkPhase (f.cursor.shownOn row col s.video.blinkPhase)
        some (s.video.palette[e.toNat]'e.isLt)
      else none
    | _, _ => none

/-- The cell being drawn now, as row, scan line and column; none between frames and after the last cell. -/
def State.drawing (s : State) : Option (Nat × Nat × Nat) :=
  match s.video.scan with
  | none => none
  | some f => f.place f.drawn

/-- The three colour outputs while dot `x` of the cell being drawn is driven (R139, R140). They are at zero intensity
while the shown flag is clear (R144), and in blanking (log entry 21). -/
def State.colourOutput (s : State) (x : Nat) : Colour :=
  if s.video.shown then
    match s.drawing with
    | none => ⟨0, 0, 0⟩
    | some (row, line, col) => (s.dotColour row col line x).getD ⟨0, 0, 0⟩
  else ⟨0, 0, 0⟩

/-- The blanking output is held asserted while the shown flag is clear (R144), and is asserted while no cell is drawn. -/
def State.blanked (s : State) : Bool := !s.video.shown || s.drawing.isNone

/-- Are horizontal and vertical sync driven? Neither is while the shown flag is clear (R144); once it is set both are,
with the monitor's timing, which the data sheet gives (log entry 21). -/
def State.syncDriven (s : State) : Bool := s.video.shown

end Sys2Proof.Machine
end

