-- ==== Sys2Proof/Machine/Ports.lean ====
section
/-! DEFINITION. Writes through the ports, the Attention Units, and hardware reset (Section 12). A window write names the
register by the port's selector (R183), so a command whose register the selector does not name is not that write, and
leaves the state as it is (log entry 1). -/

namespace Sys2Proof.Machine

/-! ### Hardware reset (R194 and the reset rule of each section) -/

/-- HARDWARE_RESET: RESET is asserted, and every block is at its reset contents. RESET stays asserted until the next
SELECTOR_WRITE or the next step on an empty queue (log entry 6). The queue of commands and the count of free values are
not the part's. -/
def execHardwareReset (s : State) : Host.Outcome State Fault Refusal :=
  .next { State.reset with resetHeld := true, freeCount := s.freeCount, pending := s.pending }

/-! ### The selector (R183) -/

/-- The release of RESET. No command stands for it (log entry 6). -/
def State.release (s : State) : State := { s with resetHeld := false }

/-- SELECTOR_WRITE: bits 0 to 4 are taken. RESET asserted keeps every selector at 0 (R194), so it is released by the time
that a selector write is taken (log entry 6). -/
def execSelectorWrite (p : Port) (v : Half) (s : State) : Host.Outcome State Fault Refusal :=
  .next (s.modPort p fun u => { u with selector := v.setWidth 5 }).release

/-- WRITE_IGNORED: a window write that reaches no register that can be written changes nothing (R183). -/
def execWriteIgnored (_p : Port) (_v : Half) (s : State) : Host.Outcome State Fault Refusal := .next s

/-! ### With no command to take -/

/-- What the part does while no command waits: RESET is released if it is asserted (log entry 6), and otherwise a scan
under way goes on (log entry 2). -/
def State.idle (s : State) : State := if s.resetHeld then s.release else s.drawNext

/-! ### PORT_CONTROL (R184) -/

/-- RING_ON alone or RING_OFF alone; both or neither are taken as neither. -/
def State.ringSwitch (s : State) (r : RingId) (on off : Bool) : State :=
  match on, off with
  | true, false => s.takeRingOn r
  | false, true => s.takeRingOff r
  | true, true => s
  | false, false => s

/-- Use one free value. -/
def State.useFree (s : State) : State := { s with freeCount := s.freeCount + 1 }

/-- A PORT_CONTROL write taken by the Ring Unit as one event. KICK is taken whether or not another bit is set; whether
before or after RING_ON or RING_OFF is a free value (log entry 4). -/
def State.portControlWrite (s : State) (r : RingId) (v : Half) : State :=
  let on := v.getLsbD 0
  let off := v.getLsbD 1
  if v.getLsbD 2 then
    if on = off then s.lookAgain r
    else if Config.kickBeforeRingOff s.freeCount then ((s.useFree.lookAgain r).ringSwitch r on off)
    else (s.useFree.ringSwitch r on off).lookAgain r
  else s.ringSwitch r on off

/-- RING_ON: a PORT_CONTROL write with bit 0 set. -/
def execRingOn (p : Port) (v : Half) (s : State) : Host.Outcome State Fault Refusal :=
  if s.selected p = some .portControl ∧ v.getLsbD 0 then .next (s.portControlWrite p v) else .next s

/-- RING_OFF: a PORT_CONTROL write with bit 1 set. -/
def execRingOff (p : Port) (v : Half) (s : State) : Host.Outcome State Fault Refusal :=
  if s.selected p = some .portControl ∧ v.getLsbD 1 then .next (s.portControlWrite p v) else .next s

/-- KICK: a PORT_CONTROL write with bit 2 set. -/
def execKick (p : Port) (v : Half) (s : State) : Host.Outcome State Fault Refusal :=
  if s.selected p = some .portControl ∧ v.getLsbD 2 then .next (s.portControlWrite p v) else .next s

/-! ### The Attention Unit (R187, R188) -/

/-- ATTN_PENDING_CLEAR: every cause whose bit is written 1 leaves the pending set. -/
def execAttnPendingClear (p : Port) (v : Half) (s : State) : Host.Outcome State Fault Refusal :=
  if s.selected p = some .attnPending then
    .next (s.modPort p fun u => { u with attnPending := u.attnPending &&& ~~~(v.setWidth 8) })
  else .next s

/-- ATTN_ENABLE_WRITE: the enable set is replaced by the causes whose bits are written 1; a feed port has no cause at
bit 7. -/
def execAttnEnableWrite (p : Port) (v : Half) (s : State) : Host.Outcome State Fault Refusal :=
  if s.selected p = some .attnEnable then
    .next (s.modPort p fun u => { u with attnEnable := v.setWidth 8 &&& causeMask p })
  else .next s

/-- The set of one cause. -/
def Cause.mask (c : Cause) : BitVec 8 := 1#8 <<< c.bit

/-- The oldest cause sent to an Attention Unit is set in the pending set (R187). -/
def PortUnit.takeCause (u : PortUnit) (c : Cause) (rest : List Cause) : PortUnit :=
  { u with attnPending := u.attnPending ||| c.mask, causes := rest }

/-- ATTENTION_CAUSE_SET. -/
def execAttentionCauseSet (p : Port) (s : State) : Host.Outcome State Fault Refusal :=
  match (s.ports.get p).causes with
  | [] => .next s
  | c :: rest => .next (s.modPort p fun u => u.takeCause c rest)

/-! ### Ring registers (R148, R161) -/

/-- A word with one half replaced. -/
def withHalf (w : Word) (high : Bool) (v : Half) : Word :=
  if high then ofHalves (halfOf w 0) v.toNat else ofHalves v.toNat (halfOf w 1)

/-- A ring base with its low 6 bits taken as zero (R148). -/
def alignBase (w : Word) : Word := BitVec.ofNat 32 (alignDown 64 w.toNat)

/-- Change a Ring Unit while its ring is OFF (R148). -/
def State.inOff (s : State) (r : RingId) (f : RingUnit → RingUnit) : State :=
  if (s.rings.get r).state = .off then s.modRing r f else s

/-- RING_BASE_WRITE: the half that the selector names, taken in OFF. -/
def execRingBaseWrite (p : Port) (v : Half) (s : State) : Host.Outcome State Fault Refusal :=
  match s.selected p with
  | some (.ringBase high) => .next (s.inOff p fun u => { u with base := alignBase (withHalf u.base high v) })
  | _ => .next s

/-- A length code written; a code above 6 is ignored (R148). -/
def RingUnit.setLength (u : RingUnit) (code : Nat) : RingUnit :=
  if h : code < 7 then { u with lengthCode := ⟨code, h⟩ } else u

/-- RING_LENGTH_WRITE: bits 0 to 2, taken in OFF. -/
def execRingLengthWrite (p : Port) (v : Half) (s : State) : Host.Outcome State Fault Refusal :=
  if s.selected p = some .ringLength then .next (s.inOff p fun u => u.setLength (bitsOf v 0 3)) else .next s

/-- COUNTER_CLEAR: any write sets the counter that the selector names to 0 (R161). -/
def execCounterClear (p : Port) (_v : Half) (s : State) : Host.Outcome State Fault Refusal :=
  match s.selected p with
  | some (.counter c) => .next (s.modRing p fun u => u.setCounter c 0)
  | _ => .next s

/-! ### Terminal registers (R185, R186, R189) -/

/-- START: START alone written to DEVICE_CONTROL (R189, R190). -/
def execStart (s : State) : Host.Outcome State Fault Refusal :=
  if s.selected .t = some .deviceControl then .next (s.deviceControlWrite 1) else .next s

/-- STOP: STOP alone written to DEVICE_CONTROL (R189, R192, R193). -/
def execStop (s : State) : Host.Outcome State Fault Refusal :=
  if s.selected .t = some .deviceControl then .next (s.deviceControlWrite 2) else .next s

/-- IGNORED_COMMAND: a value written to DEVICE_CONTROL (R189). -/
def execIgnoredCommand (v : Half) (s : State) : Host.Outcome State Fault Refusal :=
  if s.selected .t = some .deviceControl then .next (s.deviceControlWrite v) else .next s

/-- SETUP_ADDRESS_WRITE: the half that the selector names, taken in STOPPED (R185). -/
def execSetupAddressWrite (v : Half) (s : State) : Host.Outcome State Fault Refusal :=
  match s.selected .t with
  | some (.setupAddress high) =>
    if s.control.device = .stopped then
      .next { s with control := { s.control with setupAddress := withHalf s.control.setupAddress high v } }
    else .next s
  | _ => .next s

/-- A write to RAISE (R185). -/
def State.raiseWrite (s : State) (v : Half) : State :=
  let s := if v.getLsbD 0 then s.sendCause .a .resync else s
  if v.getLsbD 1 then s.sendCause .b .resync else s

/-- RAISE. -/
def execRaise (v : Half) (s : State) : Host.Outcome State Fault Refusal :=
  if s.selected .t = some .raise then .next (s.raiseWrite v) else .next s

/-- The table that bits 14 and 15 of PROBE_SELECT name (12.1). -/
def probeTableOf : Nat → ProbeTable
  | 1 => .field
  | 2 => .instrument
  | 3 => .overlay
  | _ => .none

/-- PROBE_SELECT: table and index are replaced (R186). -/
def execProbeSelect (v : Half) (s : State) : Host.Outcome State Fault Refusal :=
  if s.selected .t = some .probeSelect then
    .next { s with probe := ⟨probeTableOf (bitsOf v 14 2), v.setWidth 10⟩ }
  else .next s

end Sys2Proof.Machine
end

