-- ==== Sys2Proof/Machine/Dispatch.lean ====
section
/-! DEFINITION. The meaning of each command, arm by arm. -/

namespace Sys2Proof.Machine

/-- The effect of a command on the state. -/
def exec (i : Instr) (s : State) : Host.Outcome State Fault Refusal :=
  match i with
  | .hardwareReset => Sys2Proof.Machine.execHardwareReset s
  | .selectorWrite p v => Sys2Proof.Machine.execSelectorWrite p v s
  | .writeIgnored p v => Sys2Proof.Machine.execWriteIgnored p v s
  | .ringOn p v => Sys2Proof.Machine.execRingOn p v s
  | .ringOff p v => Sys2Proof.Machine.execRingOff p v s
  | .kick p v => Sys2Proof.Machine.execKick p v s
  | .attnPendingClear p v => Sys2Proof.Machine.execAttnPendingClear p v s
  | .attnEnableWrite p v => Sys2Proof.Machine.execAttnEnableWrite p v s
  | .ringBaseWrite p v => Sys2Proof.Machine.execRingBaseWrite p v s
  | .ringLengthWrite p v => Sys2Proof.Machine.execRingLengthWrite p v s
  | .counterClear p v => Sys2Proof.Machine.execCounterClear p v s
  | .start => Sys2Proof.Machine.execStart s
  | .stop => Sys2Proof.Machine.execStop s
  | .ignoredCommand v => Sys2Proof.Machine.execIgnoredCommand v s
  | .setupAddressWrite v => Sys2Proof.Machine.execSetupAddressWrite v s
  | .raise v => Sys2Proof.Machine.execRaise v s
  | .probeSelect v => Sys2Proof.Machine.execProbeSelect v s
  | .attentionCauseSet p => Sys2Proof.Machine.execAttentionCauseSet p s
  | .memoryRequest q => Sys2Proof.Machine.execMemoryRequest q s
  | .busGrant => Sys2Proof.Machine.execBusGrant s
  | .transferAcknowledge data => Sys2Proof.Machine.execTransferAcknowledge data s
  | .responseLimitExpiry => Sys2Proof.Machine.execResponseLimitExpiry s
  | .statusReadEnd r => Sys2Proof.Machine.execStatusReadEnd r s
  | .bodyReadEnd r => Sys2Proof.Machine.execBodyReadEnd r s
  | .outcomeTaken r => Sys2Proof.Machine.execOutcomeTaken r s
  | .writeBackEnd r => Sys2Proof.Machine.execWriteBackEnd r s
  | .ringFetchFault r => Sys2Proof.Machine.execRingFetchFault r s
  | .writebackFault r => Sys2Proof.Machine.execWritebackFault r s
  | .ringFrameEvent r => Sys2Proof.Machine.execRingFrameEvent r s
  | .silent r => Sys2Proof.Machine.execSilent r s
  | .update => Sys2Proof.Machine.execUpdate s
  | .snapshot => Sys2Proof.Machine.execSnapshot s
  | .condition => Sys2Proof.Machine.execCondition s
  | .defineInstrument => Sys2Proof.Machine.execDefineInstrument s
  | .removeInstrument => Sys2Proof.Machine.execRemoveInstrument s
  | .setSources => Sys2Proof.Machine.execSetSources s
  | .renderQueueRoom => Sys2Proof.Machine.execRenderQueueRoom s
  | .bindingLookup => Sys2Proof.Machine.execBindingLookup s
  | .append => Sys2Proof.Machine.execAppend s
  | .removal => Sys2Proof.Machine.execRemoval s
  | .plainRender => Sys2Proof.Machine.execPlainRender s
  | .tickRender => Sys2Proof.Machine.execTickRender s
  | .resetRender => Sys2Proof.Machine.execResetRender s
  | .spanQueueRoom => Sys2Proof.Machine.execSpanQueueRoom s
  | .bindField => Sys2Proof.Machine.execBindField s
  | .lookupResult => Sys2Proof.Machine.execLookupResult s
  | .appendCompletion => Sys2Proof.Machine.execAppendCompletion s
  | .unbindField => Sys2Proof.Machine.execUnbindField s
  | .removalCompletion => Sys2Proof.Machine.execRemovalCompletion s
  | .moveField => Sys2Proof.Machine.execMoveField s
  | .styleField => Sys2Proof.Machine.execStyleField s
  | .setPen => Sys2Proof.Machine.execSetPen s
  | .expiry => Sys2Proof.Machine.execExpiry s
  | .sweepTrigger => Sys2Proof.Machine.execSweepTrigger s
  | .sweepStep => Sys2Proof.Machine.execSweepStep s
  | .repaint => Sys2Proof.Machine.execRepaint s
  | .armRequest => Sys2Proof.Machine.execArmRequest s
  | .removeRequest => Sys2Proof.Machine.execRemoveRequest s
  | .highlightExpiry => Sys2Proof.Machine.execHighlightExpiry s
  | .spanWrite => Sys2Proof.Machine.execSpanWrite s
  | .writeCells => Sys2Proof.Machine.execWriteCells s
  | .fillCells => Sys2Proof.Machine.execFillCells s
  | .setCursor => Sys2Proof.Machine.execSetCursor s
  | .cursorChange => Sys2Proof.Machine.execCursorChange s
  | .openOverlay => Sys2Proof.Machine.execOpenOverlay s
  | .closeOverlay => Sys2Proof.Machine.execCloseOverlay s
  | .openingRow => Sys2Proof.Machine.execOpeningRow s
  | .closingRow => Sys2Proof.Machine.execClosingRow s
  | .overlayEndReport => Sys2Proof.Machine.execOverlayEndReport s
  | .ringStoppedReport => Sys2Proof.Machine.execRingStoppedReport s
  | .setupReadEnd => Sys2Proof.Machine.execSetupReadEnd s
  | .fetchFault => Sys2Proof.Machine.execFetchFault s
  | .glyphReadEnd => Sys2Proof.Machine.execGlyphReadEnd s
  | .fontFault => Sys2Proof.Machine.execFontFault s
  | .glyphWrite => Sys2Proof.Machine.execGlyphWrite s
  | .frameScanStart => Sys2Proof.Machine.execFrameScanStart s
  | .frameEvent => Sys2Proof.Machine.execFrameEvent s
  | .blinkPhaseChange => Sys2Proof.Machine.execBlinkPhaseChange s

end Sys2Proof.Machine
end

