-- ==== Sys2Proof/Safety.lean ====
section
/-! DEFINITION. What every state of a sound run satisfies: the canonical form of the stores, and the bounds and
conditions that the spec states of the machine's state. -/

namespace Sys2Proof.Machine

/-- Every store is in its canonical form. -/
structure State.StoresWF (s : State) : Prop where
  slots : Tab.WF slotSpec s.quote.slots
  heads : Tab.WF headSpec s.quote.heads
  records : Tab.WF fieldSpec s.field.records
  occupancy : Tab.WF occSpec s.field.occupancy
  cells : Tab.WF cellSpec s.plane.cells
  save : Tab.WF saveSpec s.plane.save
  glyphs : Tab.WF glyphSpec s.video.glyphs

/-- A Ring Unit within its bounds: the base a multiple of 64 (R148), READY not held between events (R150), the index
within the ring while the ring is ON, SILENT or STOPPING (R147, R148; base and length are written in OFF), the silence
counter within 0..4080 (R147). -/
structure RingUnit.Ok (u : RingUnit) : Prop where
  base : u.base.toNat % 64 = 0
  phase : u.phase ≠ .ready
  index : u.state = .on ∨ u.state = .silent ∨ u.state = .stopping → u.index < u.length
  silence : u.silenceCounter ≤ 4080

/-- The save regions follow one another from a slot on (R102). -/
def regionsFrom : Nat → List Overlay → Bool
  | _, [] => true
  | n, o :: rest => decide (o.offset = n) && regionsFrom (n + o.area) rest

/-- An overlay's rectangle is not empty and lies within the geometry (R105). -/
abbrev PlaneController.Holds (p : PlaneController) (o : Overlay) : Prop :=
  0 < o.height ∧ 0 < o.width ∧ o.top + o.height ≤ p.rows ∧ o.left + o.width ≤ p.columns

/-- The overlay stack: at most 4 records, their save regions one after another, at most 3072 slots in use (R101,
R102). -/
structure PlaneController.StackOk (p : PlaneController) : Prop where
  depth : p.stack.length ≤ 4
  regions : regionsFrom 0 p.stack = true
  room : p.inUse ≤ 3072
  rectangles : ∀ o ∈ p.stack, p.Holds o

/-- A geometry that the setup checks let pass (R84, R190). -/
abbrev Geometry.Legal (g : Geometry) : Prop :=
  32 ≤ g.columns ∧ g.columns ≤ 128 ∧ 8 ≤ g.rows ∧ g.rows ≤ 48 ∧ g.columns * g.rows ≤ 6144

/-- Is it an arm request? -/
def HighlightRequest.isArm : HighlightRequest → Bool
  | .arm _ _ => true
  | .remove _ => false

/-- The Setup Loader is past the setup checks: a font is being loaded. -/
def State.fontUnderWay (s : State) : Bool :=
  s.video.glyphWrite.isSome || match s.control.stage with
    | .font _ => true
    | .idle => false
    | .setup => false

/-- The invariant of the machine. -/
structure State.Inv (s : State) : Prop where
  stores : s.StoresWF
  ringA : s.rings.a.Ok
  ringB : s.rings.b.Ok
  ringT : s.rings.t.Ok
  overlays : s.plane.StackOk
  /-- The geometry is none or legal (R84). -/
  geometry : ∀ g, s.plane.geometry = some g → g.Legal
  /-- The highlight queue is empty outside RUNNING, and no arm request is on its way (R80). -/
  highlight : s.control.device ≠ .running →
    s.highlight.queue = [] ∧ ∀ q ∈ s.highlight.requests, q.isArm = false
  /-- The sweep is IDLE outside RUNNING (R131). -/
  sweep : s.control.device ≠ .running → s.field.sweep.active = false
  /-- The Setup Loader works, and a glyph write is sent, only in LOADING (R172, R135). -/
  loading : s.control.stage ≠ .idle ∨ s.video.glyphWrite ≠ none → s.control.device = .loading
  /-- A font is loaded only for a setup block that passed the checks (R136, R190). -/
  checked : s.fontUnderWay = true → setupFailure s.control.block = none
  /-- Once shown, the blink counter stays below the half-period, which is at least 2 (R122). -/
  blink : s.video.shown = true → s.video.blinkCounter < s.video.blinkHalf ∧ 2 ≤ s.video.blinkHalf

/-! ### One descriptor of each ring at a time (R7, R150, R153) -/

/-- Is it an outcome, and not the end of a transaction? -/
def RingInput.isOutcome : RingInput → Bool
  | .outcome _ _ => true
  | .statusEnd _ | .bodyEnd _ | .writeBackEnd | .fault => false

/-- Is the transaction in flight one of ring `r`? -/
def MemoryMaster.serves (m : MemoryMaster) (r : RingId) : Bool :=
  match m.inFlight with
  | none => false
  | some tx => decide (tx.kind.requester = .ring r)

/-- How many transactions of ring `r` are asked for, held, in flight, or ended and not yet taken (R150, R168, R175). -/
def State.transactionsOf (s : State) (r : RingId) : Nat :=
  (s.memory.sent.rings.get r).isSome.toNat + (s.memory.held.rings.get r).isSome.toNat + (s.memory.serves r).toNat +
    (s.rings.get r).input.countP (fun i => !i.isOutcome)

/-- Is it a request that completes a descriptor of ring `r`? The binding requests do not: BIND_FIELD and UNBIND_FIELD
stay with the Field Unit. -/
def QuoteRequest.worksFor (r : RingId) : QuoteRequest → Bool
  | .apply q _ => decide (q = r)
  | .define _ | .remove _ | .setSources _ => decide (r = .t)
  | .lookup _ | .append _ _ | .removal _ => false

/-- Is it a field command? -/
def FieldRequest.isCommand : FieldRequest → Bool
  | .bind _ | .unbind _ | .move _ | .style _ | .setPen _ | .repaint => true
  | .render _ | .lookupResult _ | .appendDone _ _ | .removalDone _ | .expiry _ | .trigger | .step => false

/-- Is it a text, cursor or overlay command? -/
def PlaneRequest.isCommand : PlaneRequest → Bool
  | .writeCells _ | .fillCells _ | .setCursor _ | .openOverlay _ | .closeOverlay => true
  | .span _ | .row => false

/-- Does a command complete at the end of the event? -/
def FieldAfter.completes : FieldAfter → Bool
  | .complete _ _ | .freeAndComplete _ _ | .moveTo _ => true
  | .nothing | .sweepAdvance _ => false

/-- Does a REPAINT wait (R129)? -/
def RepaintWait.waits : RepaintWait → Bool
  | .none => false
  | .thisPass _ | .nextPass => true

/-- Is an overlay operation under way on a record in this state (R103)? -/
def OverlayState.underWay : OverlayState → Bool
  | .opened => false
  | .opening _ | .closing _ => true

/-- How many descriptors of ring `r` the Quote Engine has been sent and not completed (R7, R47). -/
def QuoteEngine.worksFor (q : QuoteEngine) (r : RingId) : Nat :=
  q.inbox.countP (·.worksFor r) + (match q.wait with
    | none => 0
    | some w => (decide (w.ring = r)).toNat)

/-- How many commands the Field Unit has been sent and not completed (R46, R50, R129). -/
def FieldUnit.works (u : FieldUnit) : Nat :=
  u.inbox.countP FieldRequest.isCommand + u.command.isSome.toNat +
    (match u.event with
      | none => 0
      | some e => e.after.completes.toNat) +
    u.sweep.repaint.waits.toNat

/-- How many commands the Plane Controller has been sent and not completed (R86, R107, R110). -/
def PlaneController.works (p : PlaneController) : Nat :=
  p.inbox.countP PlaneRequest.isCommand + (p.stack.any fun o => o.state.underWay).toNat

/-- How many descriptors of ring `r` are with their owner or come back with an outcome not yet taken (R153). -/
def State.worksOf (s : State) (r : RingId) : Nat :=
  (s.rings.get r).input.countP RingInput.isOutcome + s.quote.worksFor r +
    (match r with
      | .t => s.field.works + s.plane.works
      | .a | .b => 0)

/-- Does a ring in this phase wait for the end of a transaction (R150, R155)? -/
def FetchPhase.awaitsBus : FetchPhase → Bool
  | .status | .body | .handBack => true
  | .idle | .ready | .waiting | .owner => false

/-- Each ring has one request outstanding in a phase that waits for one, and none otherwise (R150, R153); a ring that is
OFF or HALTED, and every ring while the device is STOPPED or LOADING, is IDLE (R149, R162). -/
structure State.OneEach (s : State) : Prop where
  bus : ∀ r, s.transactionsOf r = (s.rings.get r).phase.awaitsBus.toNat
  work : ∀ r, s.worksOf r = (decide ((s.rings.get r).phase = .owner)).toNat
  still : ∀ r, (s.rings.get r).state = .off ∨ (s.rings.get r).state = .halted → (s.rings.get r).phase = .idle
  device : s.control.device = .stopped ∨ s.control.device = .loading → ∀ r, (s.rings.get r).phase = .idle
  /-- A request is held under the name of its requester (R168). -/
  requests : ∀ q tx, s.memory.sent.get q = some tx ∨ s.memory.held.get q = some tx → tx.kind.requester = q

/-! ### The instrument table and the binding lists (R1, R5, R15) -/

/-- The chains: each OCCUPIED slot lies exactly once on the chain of the bucket of its key, no FREE slot lies on a
chain, the last slot of a chain has no link, and a key other than zero is held by one OCCUPIED slot (R5, R10). -/
structure QuoteEngine.ChainsOk (q : QuoteEngine) : Prop where
  once : ∀ b, (q.chain b).Nodup
  members : ∀ b i, i ∈ q.chain b ↔
    (q.slots.get slotSpec i).occupied = true ∧ bucketOf (q.slots.get slotSpec i).key = b
  ends : ∀ b i, (q.chain b).getLast? = some i → (q.slots.get slotSpec i).link = none
  keys : ∀ i j, (q.slots.get slotSpec i).occupied = true → (q.slots.get slotSpec j).occupied = true →
    (q.slots.get slotSpec i).key = (q.slots.get slotSpec j).key → i = j
  nonzero : ∀ i, (q.slots.get slotSpec i).occupied = true → (q.slots.get slotSpec i).key ≠ 0

/-- Is the field being freed, its removal taken and its span cleared (R56)? -/
def State.freeing (s : State) (f : Nat) : Bool :=
  match s.field.event with
  | some ⟨_, .freeAndComplete g _⟩ => decide (g = f)
  | _ => false

/-- The exception of R15: has the Quote Engine taken the append or the removal of a field that the Field Unit has not
yet made BOUND or FREE? -/
def State.inTransit (s : State) (f : Nat) : Prop :=
  (∃ i, .appendDone f i ∈ s.field.inbox) ∨ .removalDone f ∈ s.field.inbox ∨ s.freeing f = true

/-- Is it a binding request? -/
def QuoteRequest.isBinding : QuoteRequest → Bool
  | .lookup _ | .append _ _ | .removal _ => true
  | .apply _ _ | .define _ | .remove _ | .setSources _ => false

/-- Is it the answer to a binding request? -/
def FieldRequest.answersBinding : FieldRequest → Bool
  | .lookupResult _ | .appendDone _ _ | .removalDone _ => true
  | .render _ | .bind _ | .unbind _ | .move _ | .style _ | .setPen _ | .repaint | .expiry _ | .trigger | .step => false

/-- A BIND_FIELD waits, past check 1 of R51, for a field that is FREE. -/
def State.binding (s : State) (d : Descriptor) : Prop :=
  s.field.command = some d ∧ d.fieldNumber < 512 ∧ d.bindForm.isSome = true ∧ (s.record d.fieldNumber).state = .free

/-- The span of BIND_FIELD passes the checks of R53. -/
def State.spanClear (s : State) (d : Descriptor) : Prop :=
  s.spanFits d.fieldRow d.fieldCol d.fieldWidth = true ∧
    s.spanTaken d.fieldRow d.fieldCol d.fieldWidth (fun _ => true) = false

/-- Room on the binding list of an OCCUPIED slot (R16, R52). -/
def State.hasRoom (s : State) (i : Nat) : Prop := (s.slot i).occupied = true ∧ (s.slot i).bindings.length < 16

/-- The binding lists: a FREE slot is cleared (R1); a list holds at most 16 field numbers, none twice, and a field is on
one list; apart from a field in transit, a field is BOUND or SUSPENDED exactly when it is on the list of its slot (R15).
One binding request or answer is under way while a BIND_FIELD or UNBIND_FIELD waits, and none otherwise (R16), and what
each carries still holds when it is taken (R53). -/
structure State.BindingsOk (s : State) : Prop where
  free : ∀ i, (s.slot i).occupied = false → s.slot i = Slot.cleared
  lists : ∀ i, (s.slot i).bindings.Nodup ∧ (s.slot i).bindings.length ≤ 16 ∧ ∀ f ∈ (s.slot i).bindings, f < 512
  apart : ∀ i j f, f ∈ (s.slot i).bindings → f ∈ (s.slot j).bindings → i = j
  bound : ∀ f, ¬s.inTransit f → (s.record f).state ≠ .free → f ∈ (s.slot (s.record f).slot).bindings
  listed : ∀ f i, ¬s.inTransit f → f ∈ (s.slot i).bindings → (s.record f).state ≠ .free ∧ (s.record f).slot = i
  one : s.quote.inbox.countP QuoteRequest.isBinding + s.field.inbox.countP FieldRequest.answersBinding =
    s.field.command.isSome.toNat
  lookup : ∀ key, .lookup key ∈ s.quote.inbox → ∃ d, s.binding d
  found : ∀ l, .lookupResult l ∈ s.field.inbox → ∃ d, s.binding d ∧ ∀ i, l = .found i → s.hasRoom i
  append : ∀ f i, .append f i ∈ s.quote.inbox → ∃ d, s.binding d ∧ f = d.fieldNumber ∧ s.spanClear d ∧ s.hasRoom i
  appended : ∀ f i, .appendDone f i ∈ s.field.inbox →
    ∃ d, s.binding d ∧ f = d.fieldNumber ∧ s.spanClear d ∧ f ∈ (s.slot i).bindings
  removal : ∀ f, .removal f ∈ s.quote.inbox → (s.record f).state ≠ .free
  removed : ∀ f, .removalDone f ∈ s.field.inbox ∨ s.freeing f = true →
    (s.record f).state ≠ .free ∧ ∀ i, f ∉ (s.slot i).bindings

/-! ### The occupancy map (R44) -/

/-- The move that waits for its blanking write to be sent (R58). -/
def State.moveWaiting (s : State) : Option FieldMove :=
  match s.field.event with
  | some ⟨_, .moveTo m⟩ => some m
  | _ => none

/-- Is the field being moved, its old span cleared and its new one not yet entered (R58)? -/
def State.moving (s : State) (f : Nat) : Bool :=
  match s.moveWaiting with
  | some m => decide (m.field = f)
  | none => false

/-- A move that waits is of a BOUND field, and its new span passes the checks of R57: it lies within the geometry, and no
field is named in it. -/
structure State.MoveOk (s : State) (m : FieldMove) : Prop where
  field : m.field < 512
  bound : (s.record m.field).state = .bound
  width : 1 ≤ m.width ∧ m.width ≤ 20
  fits : s.spanFits m.row m.col m.width = true
  clear : s.spanTaken m.row m.col m.width (fun _ => true) = false

/-- A field that is not FREE has a width of 1 to 20 (R42). Every BOUND span lies within the geometry, and the occupancy
map names a field at a cell exactly when it is BOUND and the cell lies in its span; so no two BOUND spans share a cell
(R44). The span of a field that is being freed or moved is cleared already (R56, step 1; R58). -/
structure State.SpansOk (s : State) : Prop where
  widths : ∀ f, (s.record f).state ≠ .free → 1 ≤ (s.record f).width ∧ (s.record f).width ≤ 20
  fits : ∀ f, (s.record f).state = .bound →
    s.spanFits (s.record f).row (s.record f).col (s.record f).width = true
  map : ∀ n < 6144, ∀ f, s.field.occupancy.get occSpec n = some f ↔
    (s.record f).state = .bound ∧ s.freeing f = false ∧ s.moving f = false ∧
      n ∈ s.spanCells (s.record f).row (s.record f).col (s.record f).width
  moved : ∀ m, s.moveWaiting = some m → s.MoveOk m

/-! ### The highlight queue (R73, R74) -/

/-- The highlight queue: one entry for a field; EXPIRED entries first, WAITING entries after them in order of remaining
frames, which are 1 to 255; and each, unless its removal is under way, for a BOUND field with colour rule TICK, tick UP or
DOWN, and a hold class of non-zero duration (R73, R74). An arm request under way is for such a field too, whatever the
duration (R67). The frame events not yet taken carry the frame numbers after the last one taken (R123). -/
structure State.HighlightOk (s : State) : Prop where
  fields : (s.highlight.queue.map HighlightEntry.field).Nodup
  order : s.highlight.queue.Pairwise fun e g =>
    e.expired = true ∨ (g.expired = false ∧ s.highlight.remaining e ≤ s.highlight.remaining g)
  waiting : ∀ e ∈ s.highlight.queue, e.expired = false → 1 ≤ s.highlight.remaining e ∧ s.highlight.remaining e ≤ 255
  holds : ∀ k : Fin 4, s.highlight.holds.get k ≤ 255
  frames : s.highlight.frames =
    (List.range s.highlight.frames.length).map fun k => s.highlight.frame + BitVec.ofNat 16 (k + 1)
  last : s.video.frameNumber = s.highlight.frame + BitVec.ofNat 16 s.highlight.frames.length
  entries : ∀ e ∈ s.highlight.queue, .remove e.field ∉ s.highlight.requests →
    (s.record e.field).state = .bound ∧ (s.record e.field).style.rule = .tick ∧ (s.record e.field).tick ≠ .steady ∧
      s.highlight.holds.get (s.record e.field).style.hold ≠ 0
  arms : ∀ f k, .arm f k ∈ s.highlight.requests →
    (s.record f).state = .bound ∧ (s.record f).style.rule = .tick ∧ (s.record f).tick ≠ .steady ∧
      (s.record f).style.hold = k
  one : s.highlight.requests.length ≤ s.field.event.isSome.toNat
  freed : ∀ f, s.freeing f = true → .remove f ∈ s.highlight.requests ∨
    (s.highlight.requests = [] ∧ f ∉ s.highlight.queue.map HighlightEntry.field)

/-! ### All of them -/

/-- The laws that the spec states of the tables and queues, each with what it takes to keep them. -/
structure State.Lawful (s : State) : Prop where
  each : s.OneEach
  chains : s.quote.ChainsOk
  bindings : s.BindingsOk
  spans : s.SpansOk
  highlights : s.HighlightOk
  /-- At most one overlay is OPENING or CLOSING, and it is the top (R103). -/
  overlays : ∀ o ∈ s.plane.stack.dropLast, o.state = .opened

end Sys2Proof.Machine
end

