-- ==== Sys2Proof/Certificates/Slice0/Obligations.lean ====
section
/-! DEFINITION. The statements for the provers: one definition for each, with the rule or section it formalises in its
docstring. The frame of a statement is written as an equation `t = { s with … }` that lists the fields that may differ:
every other field of State is then unchanged. -/

namespace Sys2Proof.Statement

open Sys2Proof Sys2Proof.Machine

/-- Command `c` at state `s` answers a next state, and `P` holds of it. -/
def Answers (c : Instr) (s : State) (P : State → Prop) : Prop := ∃ t, exec c s = .next t ∧ P t

/-- The ports with one cause sent to one port. -/
def withCause (ports : PerRing PortUnit) (p : Port) (c : Cause) : PerRing PortUnit :=
  ports.set p { ports.get p with causes := (ports.get p).causes ++ [c] }

/-- The ports after a ring's state has changed: FEED goes to the Terminal Port for Ring A and Ring B (R158). -/
def feedSent (ports : PerRing PortUnit) (r : RingId) : PerRing PortUnit :=
  if isFeed r then withCause ports .t .feed else ports

/-- What goes with ring `r` going from one state to another, but for the ports: a sweep trigger when it enters or leaves
ON (R158), and a report to the Control Unit when it becomes OFF or HALTED (R166). -/
def Accompanied (s t : State) (r : RingId) (old new : RingState) : Prop :=
  t.field = (if old = .on ∨ new = .on then { s.field with inbox := s.field.inbox ++ [.trigger] } else s.field) ∧
  t.control = (if new = .off ∨ new = .halted then { s.control with ringReports := s.control.ringReports ++ [r] }
    else s.control)

/-- The request for a status read of the descriptor at the index (R150, R169). -/
def statusReadOf (u : RingUnit) (r : RingId) : Transaction :=
  ⟨.statusRead r, u.base.toNat + 64 * u.index, 0, [], .requesting⟩

/-- The Memory Master with a request of `q` on its way to it. -/
def asked (m : MemoryMaster) (q : Requester) (tx : Transaction) : MemoryMaster :=
  { m with sent := m.sent.set q (some tx) }

/-- The rings with an outcome returned to ring `r` (R153). -/
def outcomeTo (rings : PerRing RingUnit) (r : RingId) (st : Status) (w : Word) : PerRing RingUnit :=
  rings.set r { rings.get r with input := (rings.get r).input ++ [.outcome st w] }

/-- The Field Unit with its front request taken. -/
def fieldTaken (u : FieldUnit) : FieldUnit := { u with inbox := u.inbox.tail }

/-- The Quote Engine with its front request taken. -/
def quoteTaken (q : QuoteEngine) : QuoteEngine := { q with inbox := q.inbox.tail }

/-- The Plane Controller with its front request taken. -/
def planeTaken (p : PlaneController) : PlaneController := { p with inbox := p.inbox.tail }

end Sys2Proof.Statement

open Sys2Proof Sys2Proof.Machine Sys2Proof.Statement

/-! ### The machine as a whole -/

/-- Log entries 1 and 2: a step takes the command at the front of the queue and runs it on the rest. What a step does on
an empty queue is the model's own choice (log entries 2 and 6): RESET is released if it is asserted, while a frame is
being scanned one more cell is drawn, until all are, and otherwise the block idles. -/
def Obligations.StepRunsFrontCommand : Prop :=
  (∀ (c : Instr) (rest : List Instr) (s : State), s.pending = c :: rest → step s = exec c { s with pending := rest }) ∧
  (∀ s : State, s.pending = [] → s.resetHeld = true → step s = .next { s with resetHeld := false }) ∧
  (∀ s : State, s.pending = [] → s.resetHeld = false → s.video.scan = none → step s = .next s) ∧
  (∀ (s : State) (f : Scan), s.pending = [] → s.resetHeld = false → s.video.scan = some f → step s = .next { s with
    video := { s.video with scan := some { f with drawn := if f.drawn < f.total then f.drawn + 1 else f.drawn } } })

/-- 95_what_each_step_holds: every command is a step of the part, whole and indivisible. That none stops it is log entry
17, that a command which is not enabled is a step too is log entry 1, and that the queue of the commands still to come is
the model's own and HARDWARE_RESET keeps it is log entry 6; these are the model's choices. -/
def Obligations.EveryCommandAnswersAndKeepsQueue : Prop :=
  ∀ (c : Instr) (s : State), Answers c s fun t => t.pending = s.pending

/-- Sections 1 to 12, the reset rule of each: HARDWARE_RESET at any state gives these contents to every block. The
index of the probe selection is the model's choice (log entry 5) and is not stated, and so is how long RESET stays
asserted (log entry 6). -/
def Obligations.HardwareResetContents : Prop :=
  ∀ s : State, Answers .hardwareReset s fun t =>
    (∀ p, (t.ports.get p).selector = 0 ∧ (t.ports.get p).attnPending = 0 ∧ (t.ports.get p).attnEnable = 0 ∧
      (t.ports.get p).causes = [] ∧ t.attentionLine p = false) ∧
    t.probe.table = .none ∧
    (∀ r, t.rings.get r = ⟨0, 0, 0, .off, .idle, .none, 0, 0, 0, 0, .none, 0, 0, [], []⟩) ∧
    t.memory.inFlight = none ∧ (∀ q, t.memory.held.get q = none ∧ t.memory.sent.get q = none) ∧ t.memory.pointer = .a ∧
    t.busRequest = false ∧ t.readStrobe = false ∧ t.writeStrobe = false ∧
    (∀ i, t.slot i = Slot.cleared) ∧ (∀ b, t.quote.heads.get headSpec b = none) ∧ t.quote.inbox = [] ∧
    t.quote.wait = none ∧
    (∀ f, t.record f = FieldRec.cleared) ∧ (∀ n, t.field.occupancy.get occSpec n = none) ∧ t.field.absentGlyph = 0 ∧
    t.field.sweep = ⟨false, 0, false, false, 0, .none⟩ ∧ t.field.inbox = [] ∧ t.field.event = none ∧
    t.field.command = none ∧
    t.highlight.queue = [] ∧ (∀ k, t.highlight.holds.get k = 0) ∧ t.highlight.frame = 0 ∧ t.highlight.requests = [] ∧
    t.highlight.frames = [] ∧
    t.plane.geometry = none ∧ (∀ n, t.plane.cells.get cellSpec n = ⟨0, 0⟩) ∧
    (∀ n, t.plane.save.get saveSpec n = ⟨0, 0⟩) ∧ t.plane.stack = [] ∧ t.plane.inbox = [] ∧
    (∀ g, t.video.glyphs.get glyphSpec g = Vector.replicate 16 0) ∧ (∀ k, t.video.palette.get k = ⟨0, 0, 0⟩) ∧
    (∀ k, t.video.pens.get k = ⟨0, 0, .steady, false, false⟩) ∧ t.video.glyphHeight = none ∧
    t.video.cursor = ⟨0, 0, .off⟩ ∧ t.video.cursorChanges = [] ∧ t.video.frameNumber = 0 ∧
    t.video.blinkHalf = 0 ∧ t.video.blinkCounter = 0 ∧
    t.video.blinkPhase = false ∧ t.video.shown = false ∧ t.video.scan = none ∧ t.video.glyphWrite = none ∧
    t.control = ⟨.stopped, 0, .none, false, .idle, [], none, [], 0⟩

/-- The invariant of Safety.lean holds right after reset, and so do the laws of the tables and queues. -/
def Obligations.ResetMeetsInvariant : Prop :=
  State.reset.Inv ∧ State.reset.Lawful

/-- Headline. Every step, from every state that meets the invariant, leads to a state that meets it: the stores keep
their canonical form (INVENTORY, Memory and ordering), ring bases stay multiples of 64 and ring indices inside their
rings (R147, R148), READY is not held (R150), the save regions follow one another within 3072 slots (R102), the
geometry is legal (R84), the highlight queue is empty and the sweep IDLE outside RUNNING (R80, R131), the Setup Loader
works only in LOADING and only past the checks (R172, R190), and the blink counter stays below the half-period (R122).

And from a state that meets the laws of the tables and queues as well, it leads to one that meets them. Each OCCUPIED
slot lies once on the chain of its bucket, no FREE slot lies on a chain, and no two OCCUPIED slots hold one key (R5). A
field is BOUND or SUSPENDED exactly when it is on the binding list of its slot, apart from a field whose append or
removal the Field Unit has not yet finished (R15). The occupancy map names a field at a cell exactly when it is BOUND
and the cell lies in its span, apart from a field whose old span the event under way has already cleared (R44, R56, R58). The highlight queue holds one entry for a field, EXPIRED ones first and the WAITING
ones by remaining frames, each for a BOUND field that can be highlighted (R73, R74). At most one overlay is OPENING or
CLOSING, and it is the top one (R103). Each ring has one descriptor or one transaction outstanding, and none where it
holds none (R150, R153). -/
def Obligations.StepKeepsInvariant : Prop :=
  (∀ s t : State, s.Inv → step s = .next t → t.Inv) ∧
  (∀ s t : State, s.Inv → s.Lawful → step s = .next t → t.Lawful)

/-- Headline. The device state moves only along the table of 12.4: from STOPPED to LOADING by START, from LOADING to
RUNNING or STOPPED, from RUNNING to STOPPING (or at once through it to STOPPED) by STOP, from STOPPING to STOPPED; and
HARDWARE_RESET goes to STOPPED from any state. The states named by the premises are those of a machine whose Setup
Loader works only in LOADING, which the invariant says. -/
def Obligations.DeviceStateMovesByTable : Prop :=
  ∀ (c : Instr) (s t : State), s.Inv → exec c s = .next t → t.control.device ≠ s.control.device →
    (c = .hardwareReset ∧ t.control.device = .stopped) ∨
    (s.control.device = .stopped ∧ t.control.device = .loading ∧ (c = .start ∨ ∃ v, c = .ignoredCommand v)) ∨
    (s.control.device = .loading ∧ t.control.device = .running ∧ (c = .setupReadEnd ∨ c = .glyphWrite)) ∨
    (s.control.device = .loading ∧ t.control.device = .stopped ∧
      (c = .setupReadEnd ∨ c = .fetchFault ∨ c = .fontFault ∨ c = .stop ∨ ∃ v, c = .ignoredCommand v)) ∨
    (s.control.device = .running ∧ (t.control.device = .stopping ∨ t.control.device = .stopped) ∧
      (c = .stop ∨ ∃ v, c = .ignoredCommand v)) ∨
    (s.control.device = .stopping ∧ t.control.device = .stopped ∧
      (c = .ringStoppedReport ∨ c = .overlayEndReport))

/-- Headline. The instrument table and its bucket heads belong to the Quote Engine: no command but its own applies,
instrument commands and binding requests, and reset, changes a slot or a head (R1, R20).

The cells, the save area and the overlay stack are written by the Plane Controller's own commands, and by the commit
of a START and reset, and by no other (R86, R99, R115).

8.8: while the device stays LOADING, glyph writes change the glyph store and nothing changes the palette, the pens, the
glyph height, the cursor, the shown flag or the plane (R146), but for a span write left over from before, in a part in
which such a write does not wait: that is a free value (log entry 25). -/
def Obligations.TablesChangedOnlyByTheirOwners : Prop :=
  (∀ (c : Instr) (s t : State), exec c s = .next t →
     c ∉ [.hardwareReset, .update, .snapshot, .condition, .defineInstrument,
       .removeInstrument, .setSources, .append, .removal] →
     t.quote.slots = s.quote.slots ∧ t.quote.heads = s.quote.heads) ∧
  (∀ (c : Instr) (s t : State), exec c s = .next t →
     c ∉ [.hardwareReset, .spanWrite, .writeCells, .fillCells, .openOverlay, .closeOverlay,
       .openingRow, .closingRow, .setupReadEnd, .glyphWrite] →
     t.plane.cells = s.plane.cells ∧ t.plane.save = s.plane.save ∧ t.plane.stack = s.plane.stack ∧
       t.plane.geometry = s.plane.geometry) ∧
  (∀ (c : Instr) (s t : State), s.Lawful → s.control.device = .loading → exec c s = .next t →
     t.control.device = .loading →
     t.video.palette = s.video.palette ∧ t.video.pens = s.video.pens ∧ t.video.glyphHeight = s.video.glyphHeight ∧
     t.video.cursor = s.video.cursor ∧ t.video.shown = s.video.shown ∧
     (c ≠ .glyphWrite → t.video.glyphs = s.video.glyphs) ∧
     ((t.plane.cells = s.plane.cells ∧ t.plane.save = s.plane.save ∧ t.plane.stack = s.plane.stack ∧
         t.plane.geometry = s.plane.geometry) ∨
       (c = .spanWrite ∧ Config.spansWaitInLoading = false)))

/-! ### Ports and attention (Section 12) -/

/-- 12.1: SELECTOR_WRITE takes bits 0 to 4 and ignores the rest, and a read of the selector address returns them; a
window write that is ignored changes nothing; a read of an index with no register, or of a register that is written and
not read, returns 0. 12.4: while RESET is asserted every window access reads 0 and has its write ignored. That
HARDWARE_RESET leaves RESET asserted and that a selector write finds it released is the model's choice (log entry 6). -/
def Obligations.SelectorAndIgnoredWrites : Prop :=
  (∀ (p : Port) (v : Half) (s : State), Answers (.selectorWrite p v) s fun t =>
    t = { s with ports := s.ports.set p { s.ports.get p with selector := v.setWidth 5 }, resetHeld := false } ∧
      t.selectorRead p = v &&& 31) ∧
  (∀ (p : Port) (v : Half) (s : State), exec (.writeIgnored p v) s = .next s) ∧
  (∀ (p : Port) (s : State),
    s.selected p = none ∨ s.selected p = some .portControl ∨ s.selected p = some .deviceControl ∨
      s.selected p = some .raise ∨ s.selected p = some .probeSelect → s.windowRead p = 0) ∧
  (∀ s : State, Answers .hardwareReset s fun t => t.resetHeld = true) ∧
  (∀ (p : Port) (v : Half) (s : State), s.resetHeld = true → s.windowRead p = 0 ∧
    ∀ c ∈ [.ringOn p v, .ringOff p v, .kick p v, .attnPendingClear p v, .attnEnableWrite p v, .ringBaseWrite p v,
      .ringLengthWrite p v, .counterClear p v, .start, .stop, .ignoredCommand v, .setupAddressWrite v, .raise v,
      .probeSelect v, .writeIgnored p v], exec c s = .next s)

/-- 12.1, the register table: every port has the ring registers at 0 to 12, and a feed port those alone; the Terminal
Port has also those at 16 to 30. A window access reaches the register that the port's own selector names, and none while
RESET is asserted (R183, R194); that RESET stays asserted between two commands is the model's choice (log entry 6).

12.1 and 12.2: what a read of the window returns for the registers of a ring and its port, and for those of the device
(R183 to R185).

4.5 and 12.2: the probe. A PROBE_DATA register reads the selected record by the table of R186; a field's frames left are
those of a WAITING entry and 0 for an EXPIRED one or none; an index past its table and a selection of no table report 0
(R83, R186). -/
def Obligations.RegisterRightsAndReads : Prop :=
  ((∀ (p : Port) (n : Nat), n < 32 → ((registerAt p n).isSome = true ↔ n ≤ 12 ∨ (p = .t ∧ 16 ≤ n ∧ n ≤ 30))) ∧
   (∀ (p : Port) (n : Nat) (g : Register), registerAt p n = some g →
     (g.writable = true ↔ n ∈ [1, 2, 3, 4, 5, 6, 8, 9, 10, 11, 16, 18, 19, 24, 25])) ∧
   (∀ p : Port, (List.range 13).map (registerAt p) =
     [some .portStatus, some .portControl, some .attnPending, some .attnEnable, some (.ringBase false),
      some (.ringBase true), some .ringLength, some .ringIndex, some (.counter .applied), some (.counter .duplicate),
      some (.counter .stale), some (.counter .rejected), some .haltReason]) ∧
   ((List.range 10).map (fun k => registerAt .t (16 + k)) =
     [some .deviceControl, some .deviceStatus, some (.setupAddress false), some (.setupAddress true),
      some .frameNumber, some .sweepStatus, some .overlayStatus, some .feedView, some .raise, some .probeSelect]) ∧
   (∀ (p : Port) (s : State),
     (s.resetHeld = false → s.selected p = registerAt p (s.ports.get p).selector.toNat) ∧
     (s.resetHeld = true → s.selected p = none))) ∧
  ((∀ (p : Port) (s : State),
     (s.selected p = some .portStatus → (s.windowRead p).toNat = 16 * (match s.control.device with
         | .stopped => 0
         | .loading => 1
         | .running => 2
         | .stopping => 3) +
       match (s.rings.get p).state with
       | .off => 0
       | .on => 1
       | .silent => 2
       | .stopping => 3
       | .halted => 4) ∧
     (s.selected p = some .attnPending → (s.windowRead p).toNat = (s.ports.get p).attnPending.toNat) ∧
     (s.selected p = some .attnEnable → (s.windowRead p).toNat = (s.ports.get p).attnEnable.toNat) ∧
     (s.selected p = some (.ringBase false) → (s.windowRead p).toNat = (s.rings.get p).base.toNat % 65536) ∧
     (s.selected p = some (.ringBase true) → (s.windowRead p).toNat = (s.rings.get p).base.toNat / 65536) ∧
     (s.selected p = some .ringLength → (s.windowRead p).toNat = (s.rings.get p).lengthCode.val) ∧
     (s.selected p = some .ringIndex → (s.rings.get p).index < 256 →
       (s.windowRead p).toNat = (s.rings.get p).index) ∧
     (∀ c, s.selected p = some (.counter c) → s.windowRead p = (s.rings.get p).counter c) ∧
     (s.selected p = some .haltReason → (s.windowRead p).toNat = match (s.rings.get p).haltReason with
       | .none => 0
       | .fetch => 1
       | .writeback => 2)) ∧
   (∀ s : State,
     (s.selected .t = some .deviceStatus →
       (s.windowRead .t).toNat % 16 = (match s.control.device with
         | .stopped => 0
         | .loading => 1
         | .running => 2
         | .stopping => 3) ∧
       (s.windowRead .t).toNat / 16 % 16 = (match s.control.lastStart with
         | .none => 0
         | .done => 1
         | .geometry => 2
         | .glyphHeight => 3
         | .blink => 4
         | .ring => 5
         | .pen => 6
         | .fetchFault => 7
         | .fontFault => 8
         | .stopped => 9) ∧
       (s.windowRead .t).toNat / 256 = if s.control.ignored then 1 else 0) ∧
     (s.selected .t = some (.setupAddress false) → (s.windowRead .t).toNat = s.control.setupAddress.toNat % 65536) ∧
     (s.selected .t = some (.setupAddress true) → (s.windowRead .t).toNat = s.control.setupAddress.toNat / 65536) ∧
     (s.selected .t = some .frameNumber → s.windowRead .t = s.video.frameNumber) ∧
     (s.selected .t = some .sweepStatus → s.field.sweep.position ≤ 511 →
       (s.windowRead .t).toNat % 512 = s.field.sweep.position ∧
       (s.windowRead .t).getLsbD 15 = s.field.sweep.active ∧ (s.windowRead .t).getLsbD 14 = s.field.sweep.rerun) ∧
     (s.selected .t = some .feedView → (s.windowRead .t).toNat % 16 = s.rings.a.state.code ∧
       (s.windowRead .t).toNat / 16 = s.rings.b.state.code) ∧
     (s.selected .t = some .overlayStatus → s.plane.stack.length ≤ 4 →
       (s.windowRead .t).toNat % 16 = s.plane.stack.length ∧
       (s.windowRead .t).toNat / 16 = match s.plane.stack.getLast? with
         | none => 0
         | some o => match o.state with
           | .opened => 0
           | .opening _ => 1
           | .closing _ => 2))) ∧
  ((∀ s : State, s.probe.table = .none → ∀ n, s.probeData n = 0) ∧
   (∀ s : State, s.probe.table = .field → 512 ≤ s.probe.index.toNat → ∀ n, s.probeData n = 0) ∧
   (∀ s : State, s.probe.table = .instrument → 256 ≤ s.probe.index.toNat → ∀ n, s.probeData n = 0) ∧
   (∀ s : State, s.probe.table = .overlay → s.plane.stack.length < s.probe.index.toNat ∨ s.probe.index.toNat = 0 →
     ∀ n, s.probeData n = 0) ∧
   (∀ (s : State) (n : Fin 5), s.selected .t = some (.probeData n) →
     (s.windowRead .t).toNat = s.probeData n % 65536) ∧
   (∀ n : Fin 5, registerAt .t (26 + n.val) = some (.probeData n)) ∧
   (∀ s : State, s.probe.table = .field → s.probe.index.toNat < 512 →
     let f := s.probe.index.toNat
     let v := s.record f
     s.probeData 0 =
       (match v.state with
         | .free => 0
         | .bound => 1
         | .suspended => 2) +
       4 * (match v.tick with
         | .steady => 0
         | .up => 1
         | .down => 2) +
       16 * (match s.highlight.queue.find? fun e => decide (e.field = f) with
         | none => 0
         | some e => if e.expired then 2 else 1) + 256 * v.overflow ∧
     s.probeData 1 = s.highlight.framesLeft f + 256 * v.slot ∧ s.probeData 2 = v.row + 256 * v.col ∧
     s.probeData 3 = v.width + 256 * v.item.val ∧ s.probeData 4 = 0) ∧
   (∀ s : State, s.probe.table = .instrument → s.probe.index.toNat < 256 →
     let v := s.slot s.probe.index.toNat
     s.probeData 0 = v.key.toNat % 65536 ∧ s.probeData 1 = v.key.toNat / 65536 ∧
     s.probeData 2 = (if v.occupied then 1 else 0) + (if v.condition = .paused then 2 else 0) +
       4 * (match v.seqState with
         | .unsequenced => 0
         | .synced => 1
         | .gapped => 2) +
       16 * ((if v.sources.a then 1 else 0) + (if v.sources.b then 2 else 0) + (if v.sources.t then 4 else 0)) +
       256 * v.bindings.length ∧
     s.probeData 3 = v.lastSeq.toNat % 65536 ∧ s.probeData 4 = v.lastSeq.toNat / 65536) ∧
   (∀ (s : State) (o : Overlay), s.probe.table = .overlay → 1 ≤ s.probe.index.toNat → s.probe.index.toNat ≤ 4 →
     s.plane.stack[s.probe.index.toNat - 1]? = some o →
     s.probeData 0 = o.top + 256 * o.left ∧ s.probeData 1 = o.height + 256 * o.width ∧
     s.probeData 2 = (match o.state with
       | .opening _ => 1
       | .opened => 2
       | .closing _ => 3) ∧
     s.probeData 3 = 0 ∧ s.probeData 4 = 0) ∧
   (∀ (h : HighlightTimer) (f : Nat), (h.entry f = none → h.framesLeft f = 0) ∧
     (∀ e, h.entry f = some e → h.framesLeft f = if e.expired then 0 else (e.expiry - h.frame).toNat)))

/-- R156 (with the register of R184): RING_ON alone turns an OFF ring on, and is ignored in any other ring state and
while the device is STOPPING. -/
def Obligations.RingOnTurnsOffRingOn : Prop :=
  ∀ (p : Port) (v : Half) (s : State), s.selected p = some .portControl →
    v.getLsbD 0 = true → v.getLsbD 1 = false → v.getLsbD 2 = false →
    ((s.rings.get p).state = .off → s.control.device ≠ .stopping → Answers (.ringOn p v) s fun t =>
      t = { s with rings := t.rings, ports := feedSent s.ports p, field := t.field,
                   memory := if s.control.device = .running then
                       asked s.memory (.ring p) ⟨.statusRead p, (s.rings.get p).base.toNat, 0, [], .requesting⟩
                     else s.memory } ∧
      t.rings = s.rings.set p { s.rings.get p with
        index := 0, silenceCounter := 0, haltReason := .none, state := .on,
        phase := if s.control.device = .running then .status else .idle } ∧
      Accompanied s t p .off .on) ∧
    ((s.rings.get p).state ≠ .off ∨ s.control.device = .stopping → exec (.ringOn p v) s = .next s)

/-- 9.2 (a KICK) and 12.1 (a PORT_CONTROL write): KICK with neither or both of the other bits makes a WAITING ring that
fetches read its status word again, and has no effect otherwise; a write with both RING_ON and RING_OFF is taken as
neither.

9.3 and 12.1: RING_ON and KICK in one write. The spec does not order the two, and the order makes no difference: the write
is taken as RING_ON alone by a ring that RING_ON turns on, and by any other ring as KICK alone. The count of free values
is the model's own (log entry 4). -/
def Obligations.KickLooksAgain : Prop :=
  (∀ (p : Port) (v : Half) (s : State), s.selected p = some .portControl → v.getLsbD 0 = v.getLsbD 1 →
     (v.getLsbD 2 = true → (s.rings.get p).phase = .waiting →
       (s.rings.get p).state = .on ∨ (s.rings.get p).state = .silent → Answers (.kick p v) s fun t =>
         t = { s with rings := s.rings.set p { s.rings.get p with phase := .status },
                      memory := asked s.memory (.ring p) (statusReadOf (s.rings.get p) p) }) ∧
     (v.getLsbD 2 = true → (s.rings.get p).phase ≠ .waiting ∨
         ((s.rings.get p).state ≠ .on ∧ (s.rings.get p).state ≠ .silent) → exec (.kick p v) s = .next s) ∧
     (v.getLsbD 0 = true → v.getLsbD 2 = false →
       exec (.ringOn p v) s = .next s ∧ exec (.ringOff p v) s = .next s)) ∧
  (∀ (p : Port) (v : Half) (s : State), s.selected p = some .portControl →
     v.getLsbD 0 = true → v.getLsbD 1 = false → v.getLsbD 2 = true →
     exec (.kick p v) s = exec (.ringOn p v) s ∧
     ((s.rings.get p).state = .off → s.control.device ≠ .stopping → ∀ t, exec (.ringOn p 1) s = .next t →
       exec (.ringOn p v) s = .next { t with freeCount := s.freeCount + 1 }) ∧
     ((s.rings.get p).state ≠ .off ∨ s.control.device = .stopping → ∀ t, exec (.kick p 4) s = .next t →
       exec (.ringOn p v) s = .next { t with freeCount := s.freeCount + 1 }))

/-- R157 (with the register of R184): RING_OFF alone, by ring state and fetch phase. What follows the end of the status
read and the hand-back of a STOPPING ring is stated with those commands.

12.1: RING_OFF and KICK in one write. The spec does not order the two, and log entry 4 leaves the order free: a
WAITING ring in ON or SILENT becomes OFF, as by RING_OFF alone, or becomes STOPPING with a status read under way; any
other ring is taken as by RING_OFF alone. The count of free values is the model's own. -/
def Obligations.RingOffByStateAndPhase : Prop :=
  (∀ (p : Port) (v : Half) (s : State), s.selected p = some .portControl →
     v.getLsbD 0 = false → v.getLsbD 1 = true → v.getLsbD 2 = false →
     let u := s.rings.get p
     (u.state = .on ∨ u.state = .silent → u.phase = .idle ∨ u.phase = .waiting → Answers (.ringOff p v) s fun t =>
       t = { s with rings := s.rings.set p { u with state := .off, phase := .idle }, ports := feedSent s.ports p,
                    field := t.field, control := t.control } ∧
       Accompanied s t p u.state .off) ∧
     (u.state = .on ∨ u.state = .silent → u.phase ≠ .idle → u.phase ≠ .waiting → Answers (.ringOff p v) s fun t =>
       t = { s with rings := s.rings.set p { u with state := .stopping }, ports := feedSent s.ports p,
                    field := t.field } ∧
       Accompanied s t p u.state .stopping) ∧
     (u.state = .halted → Answers (.ringOff p v) s fun t =>
       t = { s with rings := s.rings.set p { u with state := .off }, ports := feedSent s.ports p, control := t.control } ∧
       Accompanied s t p .halted .off) ∧
     (u.state = .off ∨ u.state = .stopping → exec (.ringOff p v) s = .next s)) ∧
  (∀ (p : Port) (v : Half) (s : State), s.selected p = some .portControl →
     v.getLsbD 0 = false → v.getLsbD 1 = true → v.getLsbD 2 = true →
     let u := s.rings.get p
     let waits : Prop := u.phase = .waiting ∧ (u.state = .on ∨ u.state = .silent)
     exec (.kick p v) s = exec (.ringOff p v) s ∧
     (¬waits → ∀ t, exec (.ringOff p 2) s = .next t →
       exec (.ringOff p v) s = .next { t with freeCount := s.freeCount + 1 }) ∧
     (waits → Answers (.ringOff p v) s fun t =>
       (exec (.ringOff p 2) s = .next { t with freeCount := s.freeCount } ∧ t.freeCount = s.freeCount + 1) ∨
       (t = { s with
          rings := s.rings.set p { u with state := .stopping, phase := .status }, ports := feedSent s.ports p,
          memory := asked s.memory (.ring p) (statusReadOf u p), field := t.field, freeCount := s.freeCount + 1 } ∧
        Accompanied s t p u.state .stopping)))

/-- 12.3: ATTN_PENDING_CLEAR, ATTN_ENABLE_WRITE and ATTENTION_CAUSE_SET, each with its frame, the bits of the causes of a
feed port and of the Terminal Port, and the attention line. That a bit which names no cause of the port (bit 7 of a feed
port, bits 8 to 15) is not kept in the enable set is the model's reading (log entry 15). -/
def Obligations.AttentionSetsAndLine : Prop :=
  (∀ (p : Port) (v : Half) (s : State), s.selected p = some .attnPending →
    exec (.attnPendingClear p v) s = .next { s with
      ports := s.ports.set p { s.ports.get p with attnPending := (s.ports.get p).attnPending &&& ~~~(v.setWidth 8) } }) ∧
  (∀ (p : Port) (v : Half) (s : State), s.selected p = some .attnEnable →
    exec (.attnEnableWrite p v) s = .next { s with
      ports := s.ports.set p { s.ports.get p with attnEnable := v.setWidth 8 &&& (if isFeed p then 0x7F else 0xFF) } }) ∧
  (∀ (p : Port) (c : Cause) (rest : List Cause) (s : State), (s.ports.get p).causes = c :: rest →
    exec (.attentionCauseSet p) s = .next { s with
      ports := s.ports.set p { s.ports.get p with attnPending := (s.ports.get p).attnPending ||| 1#8 <<< c.bit, causes := rest } }) ∧
  ([.done, .reject, .gap, .silent, .halt, .resync, .device].map Cause.bit = [0, 1, 2, 3, 4, 5, 6]) ∧
  ([.done, .reject, .gap, .feed, .halt, .overflow, .startDone, .stopDone].map Cause.bit = [0, 1, 2, 3, 4, 5, 6, 7]) ∧
  (∀ (p : Port) (s : State), s.attentionLine p = true ↔
    ∃ i, i < 8 ∧ (s.ports.get p).attnPending.getLsbD i = true ∧ (s.ports.get p).attnEnable.getLsbD i = true)

/-- 9.1, 9.5 and 12.1: writes to RING_BASE, RING_LENGTH and the counters through a port.

12.2: SETUP_ADDRESS_WRITE in STOPPED and in any other state, RAISE by its two bits, PROBE_SELECT. -/
def Obligations.RegisterWritesOfPorts : Prop :=
  ((∀ (p : Port) (v : Half) (s : State) (high : Bool), s.selected p = some (.ringBase high) →
     ((s.rings.get p).state = .off → Answers (.ringBaseWrite p v) s fun t =>
       t = { s with rings := s.rings.set p { s.rings.get p with base := (t.rings.get p).base } } ∧
       (t.rings.get p).base.toNat =
         (if high then v.toNat * 65536 + (s.rings.get p).base.toNat % 65536
          else (s.rings.get p).base.toNat / 65536 * 65536 + v.toNat) / 64 * 64) ∧
     ((s.rings.get p).state ≠ .off → exec (.ringBaseWrite p v) s = .next s)) ∧
   (∀ (p : Port) (v : Half) (s : State), s.selected p = some .ringLength →
     ((s.rings.get p).state = .off → v.toNat % 8 ≤ 6 → Answers (.ringLengthWrite p v) s fun t =>
       t = { s with rings := s.rings.set p { s.rings.get p with lengthCode := (t.rings.get p).lengthCode } } ∧
       (t.rings.get p).lengthCode.val = v.toNat % 8) ∧
     ((s.rings.get p).state ≠ .off ∨ v.toNat % 8 = 7 → exec (.ringLengthWrite p v) s = .next s)) ∧
   (∀ (p : Port) (v : Half) (s : State) (c : Counter), s.selected p = some (.counter c) →
     Answers (.counterClear p v) s fun t =>
       t = { s with rings := s.rings.set p (t.rings.get p) } ∧
       t.rings.get p = (s.rings.get p).setCounter c 0 ∧
       ∀ d, (t.rings.get p).counter d = if d = c then 0 else (s.rings.get p).counter d)) ∧
  ((∀ (v : Half) (s : State) (high : Bool), s.selected .t = some (.setupAddress high) →
     (s.control.device = .stopped → Answers (.setupAddressWrite v) s fun t =>
       t = { s with control := { s.control with setupAddress := t.control.setupAddress } } ∧
       t.control.setupAddress.toNat =
         if high then v.toNat * 65536 + s.control.setupAddress.toNat % 65536
         else s.control.setupAddress.toNat / 65536 * 65536 + v.toNat) ∧
     (s.control.device ≠ .stopped → exec (.setupAddressWrite v) s = .next s)) ∧
   (∀ (v : Half) (s : State), s.selected .t = some .raise → Answers (.raise v) s fun t =>
     t = { s with
       ports :=
         let a := if v.getLsbD 0 then withCause s.ports .a .resync else s.ports
         if v.getLsbD 1 then withCause a .b .resync else a }) ∧
   (∀ (v : Half) (s : State), s.selected .t = some .probeSelect → Answers (.probeSelect v) s fun t =>
     t = { s with probe := t.probe } ∧ t.probe.index.toNat = v.toNat % 1024 ∧
       t.probe.table = match v.toNat / 16384 with
         | 1 => .field
         | 2 => .instrument
         | 3 => .overlay
         | _ => .none))

/-! ### START and STOP (12.4) -/

/-- 12.4: START taken in STOPPED makes the device LOADING and asks for the setup read at the setup address with its low
6 bits taken as zero; the last start outcome keeps its value.

12.4: START in a state other than STOPPED, STOP in STOPPED or STOPPING, and a write with both bits set the
ignored-command flag and change nothing else. -/
def Obligations.StartBeginsLoading : Prop :=
  (∀ s : State, s.selected .t = some .deviceControl → s.control.device = .stopped →
     exec .start s = .next { s with
       control := { s.control with device := .loading, ignored := false, stage := .setup },
       memory := asked s.memory .loader
         ⟨.setupRead, s.control.setupAddress.toNat / 64 * 64, 0, [], .requesting⟩ }) ∧
  ((∀ (v : Half) (s : State), s.selected .t = some .deviceControl →
     (v.getLsbD 0 = true ∧ v.getLsbD 1 = true) ∨
     (v.getLsbD 0 = true ∧ v.getLsbD 1 = false ∧ s.control.device ≠ .stopped) ∨
     (v.getLsbD 0 = false ∧ v.getLsbD 1 = true ∧ (s.control.device = .stopped ∨ s.control.device = .stopping)) →
     exec (.ignoredCommand v) s = .next { s with control := { s.control with ignored := true } }) ∧
   (∀ s : State, s.selected .t = some .deviceControl → s.control.device ≠ .stopped →
     exec .start s = .next { s with control := { s.control with ignored := true } }) ∧
   (∀ s : State, s.selected .t = some .deviceControl → s.control.device = .stopped ∨ s.control.device = .stopping →
     exec .stop s = .next { s with control := { s.control with ignored := true } }))

/-- What STOP in RUNNING returns to Ring T (7.4): the outcome of a REPAINT that waits, with the ending "abandoned", the
rendered count of the pass under way and 1 in byte 3 where a rerun was to cover it; then the outcome of a field command
whose event waited only for the Highlight Timer. -/
def Sys2Proof.Statement.stopOutcomes (u : FieldUnit) : List RingInput :=
  let abandoned (pass : Nat) : RingInput :=
    .outcome .done (ofBytes (u.sweep.rendered % 256) (u.sweep.rendered / 256) 1 pass)
  (match u.sweep.repaint with
    | .none => []
    | .thisPass rr => [abandoned (if rr then 1 else 0)]
    | .nextPass => [abandoned 1]) ++
  (match u.event with
    | some ⟨[], .complete st w⟩ => [.outcome st w]
    | some ⟨[], .freeAndComplete _ w⟩ => [.outcome .done w]
    | _ => [])

/-- 12.4, 4.5, 7.4 and 9.8: STOP taken in RUNNING. The highlight queue is emptied, every tick is NONE, the sweep is
abandoned, every ring in ON or SILENT becomes OFF (phase IDLE or WAITING) or STOPPING, and the device is STOPPED at once
when every ring is then OFF or HALTED and no overlay operation is under way, else STOPPING. The tables, the plane and the
pens are left as they are. The premise on the field table is the canonical form that the invariant keeps.

7.4: STOP completes a waiting REPAINT with the ending "abandoned" and the rendered count; byte 3 of the result of one that
waits for the next pass is the model's choice (log entry 14).

A Field Unit event that waits only for the Highlight Timer ends with the STOP: it returns its outcome, and the end of
UNBIND_FIELD frees the record; one that waits for a span write goes on waiting. That the arm and remove requests on their
way are dropped, and that the event waited for them, are the model's readings (log entries 12 and 18). -/
def Obligations.StopInRunning : Prop :=
  (∀ s : State, s.selected .t = some .deviceControl → s.control.device = .running → Tab.WF fieldSpec s.field.records →
     Answers .stop s fun t =>
       t = { s with rings := t.rings, ports := t.ports, field := t.field, highlight := t.highlight, control := t.control } ∧
       t.highlight = { s.highlight with queue := [], requests := [] } ∧
       (∀ f, (t.record f).tick = .steady) ∧
       (∀ f w, s.field.event = some ⟨[], .freeAndComplete f w⟩ → t.record f = FieldRec.cleared) ∧
       (∀ f, (∀ w, s.field.event ≠ some ⟨[], .freeAndComplete f w⟩) → t.record f = { s.record f with tick := .steady }) ∧
       (∃ n, t.field = { s.field with
           records := t.field.records, event := t.field.event, inbox := s.field.inbox ++ List.replicate n .trigger,
           sweep := { s.field.sweep with active := false, position := 0, rerun := false, rendered := 0, repaint := .none } } ∧
         (n = 0 ↔ ∀ r, (s.rings.get r).state ≠ .on)) ∧
       (∀ r, let u := s.rings.get r
         let goesOff : Prop := u.phase = .idle ∨ u.phase = .waiting
         let takes : Prop := u.state = .on ∨ u.state = .silent
         t.rings.get r = { u with
           state := if takes then (if goesOff then .off else .stopping) else u.state
           phase := if takes ∧ goesOff then .idle else u.phase
           input := (t.rings.get r).input } ∧ (r ≠ .t → (t.rings.get r).input = u.input)) ∧
       (∀ p, t.ports.get p = { s.ports.get p with causes := (t.ports.get p).causes }) ∧
       t.control = { s.control with
         device := t.control.device, ignored := false, ringReports := t.control.ringReports } ∧
       (t.control.device = .stopped ∨ t.control.device = .stopping) ∧
       (t.control.device = .stopped ↔
         (∀ r, (t.rings.get r).state = .off ∨ (t.rings.get r).state = .halted) ∧ s.overlayBusy = false) ∧
       (t.control.device = .stopped → Cause.stopDone ∈ t.ports.t.causes ∧ Cause.device ∈ t.ports.a.causes ∧
         Cause.device ∈ t.ports.b.causes)) ∧
  (∀ s : State, s.selected .t = some .deviceControl → s.control.device = .running → Answers .stop s fun t =>
     t.rings.t.input = s.rings.t.input ++ stopOutcomes s.field ∧
     (s.field.event = none → t.field.event = none) ∧
     (∀ after, s.field.event = some ⟨[], after⟩ → (∀ m, after ≠ .moveTo m) → t.field.event = none) ∧
     (∀ w more after, s.field.event = some ⟨w :: more, after⟩ → t.field.event = s.field.event))

/-- 12.4: STOP taken in LOADING ends the START in the same event. No ring holds a request then (R172). That START_DONE
reaches the Terminal Attention Unit before STOP_DONE is the model's choice (log entry 28).

12.4: a report taken in STOPPING ends the STOP when every ring is OFF or HALTED and no overlay operation is under way;
in any other case the report alone is taken. R117 and R193: an overlay operation is under way exactly while some overlay
of the stack is OPENING or CLOSING, and the rings have stopped when each is OFF or HALTED. -/
def Obligations.StopInLoadingAndStopping : Prop :=
  (∀ s : State, s.selected .t = some .deviceControl → s.control.device = .loading →
     s.memory.held.rings = ⟨none, none, none⟩ → Answers .stop s fun t =>
       t = { s with
         ports := withCause (withCause s.ports .t .startDone) .t .stopDone
         video := { s.video with glyphWrite := none }
         control := { s.control with device := .stopped, lastStart := .stopped, ignored := false, stage := .idle,
                                     block := [], loaderInput := none }
         memory := { s.memory with
           held := { s.memory.held with loader := none }
           sent := { s.memory.sent with loader := none }
           inFlight := match s.memory.inFlight with
             | some tx => if tx.kind.requester = .loader then none else some tx
             | none => none } }) ∧
  ((∀ (s : State) (r : RingId) (rest : List RingId), s.control.ringReports = r :: rest →
     Answers .ringStoppedReport s fun t =>
       if s.control.device = .stopping ∧ s.ringsStopped = true ∧ s.overlayBusy = false then
         t = { s with
           control := { s.control with ringReports := rest, device := .stopped }
           ports := withCause (withCause (withCause s.ports .t .stopDone) .a .device) .b .device }
       else t = { s with control := { s.control with ringReports := rest } }) ∧
   (∀ (s : State) (n : Nat), s.control.overlayReports = n + 1 → Answers .overlayEndReport s fun t =>
       if s.control.device = .stopping ∧ s.ringsStopped = true ∧ s.overlayBusy = false then
         t = { s with
           control := { s.control with overlayReports := n, device := .stopped }
           ports := withCause (withCause (withCause s.ports .t .stopDone) .a .device) .b .device }
       else t = { s with control := { s.control with overlayReports := n } })) ∧
  (∀ s : State,
     (s.overlayBusy = true ↔ ∃ o ∈ s.plane.stack, ∃ k, o.state = .opening k ∨ o.state = .closing k) ∧
     (s.ringsStopped = true ↔ ∀ r, (s.rings.get r).state = .off ∨ (s.rings.get r).state = .halted))

/-- 12.4: the end of the setup read. A failed check, or a fault, ends the START in STOPPED with its reason; passed checks
with FONT_LOAD ask for glyph 0; passed checks without it commit.

12.4: the setup checks in their order: the first that fails gives the reason. -/
def Obligations.SetupReadByChecks : Prop :=
  ((∀ (s : State) (ws : List Word) (o : StartOutcome), s.control.loaderInput = some (.setupWords ws) →
     s.control.stage = .setup → setupFailure ws = some o → Answers .setupReadEnd s fun t =>
       t = { s with
         ports := withCause s.ports .t .startDone
         video := { s.video with glyphWrite := none }
         control := { s.control with device := .stopped, lastStart := o, stage := .idle, block := [], loaderInput := none } }) ∧
   (∀ (s : State) (ws : List Word), s.control.loaderInput = some (.setupWords ws) → s.control.stage = .setup →
     setupFailure ws = none → setupFontLoad ws = true → Answers .setupReadEnd s fun t =>
       t = { s with
         control := { s.control with stage := .font 0, block := ws, loaderInput := none }
         memory := asked s.memory .loader ⟨.glyphRead, (ws.getD 4 0).toNat / 16 * 16, 0, [], .requesting⟩ }) ∧
   (∀ (s : State) (ws : List Word), s.control.loaderInput = some (.setupWords ws) → s.control.stage = .setup →
     setupFailure ws = none → setupFontLoad ws = false → Answers .setupReadEnd s fun t =>
       t.control.device = .running ∧ t.control.lastStart = .done) ∧
   (∀ s : State, s.control.loaderInput = some .fault → s.control.stage = .setup → Answers .fetchFault s fun t =>
       t = { s with
         ports := withCause s.ports .t .startDone
         video := { s.video with glyphWrite := none }
         control := { s.control with device := .stopped, lastStart := .fetchFault, stage := .idle, block := [],
                                     loaderInput := none } }) ∧
   (∀ (s : State) (g : Nat), s.control.loaderInput = some .fault → s.control.stage = .font g → Answers .fontFault s fun t =>
       t = { s with
         ports := withCause s.ports .t .startDone
         video := { s.video with glyphWrite := none }
         control := { s.control with device := .stopped, lastStart := .fontFault, stage := .idle, block := [],
                                     loaderInput := none } })) ∧
  (∀ ws : List Word,
     let geometry : Prop := 32 ≤ setupByte ws 0 ∧ setupByte ws 0 ≤ 128 ∧ 8 ≤ setupByte ws 1 ∧ setupByte ws 1 ≤ 48 ∧
       setupByte ws 0 * setupByte ws 1 ≤ 6144
     let height : Prop := 8 ≤ setupByte ws 2 ∧ setupByte ws 2 ≤ 16
     let blink : Prop := 2 ≤ setupByte ws 3 ∧ setupByte ws 3 ≤ 255
     let ring : Prop := setupByte ws 6 ≤ 6
     let pens : Prop := ∀ n < 32, setupHalf ws (56 + 2 * n) / 256 % 4 ≠ 3
     (¬geometry → setupFailure ws = some .geometry) ∧
     (geometry → ¬height → setupFailure ws = some .glyphHeight) ∧
     (geometry → height → ¬blink → setupFailure ws = some .blink) ∧
     (geometry → height → blink → ¬ring → setupFailure ws = some .ring) ∧
     (geometry → height → blink → ring → ¬pens → setupFailure ws = some .pen) ∧
     (geometry → height → blink → ring → pens → setupFailure ws = none))

/-- 8.2: a completed glyph read sends the Video Generator a glyph write of its 16 lines, line 4j + k from byte k of word
j; the glyph write replaces all 16 lines of that glyph and asks for the next, or after glyph 511 the START commits. -/
def Obligations.FontLoadGlyphByGlyph : Prop :=
  (∀ (s : State) (ws : List Word) (g : Nat), s.control.loaderInput = some (.glyphWords ws) → s.control.stage = .font g →
    Answers .glyphReadEnd s fun t =>
      t = { s with control := { s.control with loaderInput := none }, video := { s.video with glyphWrite := t.video.glyphWrite } } ∧
      ∃ lines : Glyph, t.video.glyphWrite = some ⟨g, lines⟩ ∧
        ∀ (j k : Nat) (_ : j < 4) (_ : k < 4), lines[4 * j + k] = (ws.getD j 0).extractLsb' (8 * k) 8) ∧
  (∀ (s : State) (w : GlyphWrite), s.video.glyphWrite = some w → w.number < 511 → Answers .glyphWrite s fun t =>
      t = { s with
        video := { s.video with glyphs := s.video.glyphs.set glyphSpec w.number w.lines, glyphWrite := none }
        control := { s.control with stage := .font (w.number + 1) }
        memory := asked s.memory .loader
          ⟨.glyphRead, (s.control.block.getD 4 0).toNat / 16 * 16 + 16 * (w.number + 1), 0, [], .requesting⟩ }) ∧
  (∀ (s : State) (w : GlyphWrite), s.video.glyphWrite = some w → w.number = 511 → Answers .glyphWrite s fun t =>
      t.control.device = .running ∧ t.control.lastStart = .done ∧
      t.video.glyphs = s.video.glyphs.set glyphSpec 511 w.lines)

/-- What the commit of a START with the setup block `ws` leaves of `s` (12.4, 3.2, 5.5, 6.6, 8.8, 9.8): the device is
RUNNING, each block has its share, a new geometry clears the plane to spaces, empties the overlay stack and suspends the
BOUND fields that do not fit, and every ring in ON asks for its first status read. -/
def Sys2Proof.Statement.Committed (s t : State) (ws : List Word) : Prop :=
  let g : Geometry := ⟨setupByte ws 0, setupByte ws 1⟩
  let covers (f n : Nat) : Prop :=
    (t.record f).state = .bound ∧ ∃ i < (t.record f).width, n = (t.record f).row * g.columns + ((t.record f).col + i)
  t = { s with
    control := { s.control with
      device := .running, lastStart := .done, stage := .idle, block := [], loaderInput := none }
    ports := withCause (withCause (withCause s.ports .t .startDone) .a .device) .b .device
    field := { s.field with
      absentGlyph := setupAbsentGlyph ws, inbox := t.field.inbox,
      records := t.field.records, occupancy := t.field.occupancy }
    highlight := { s.highlight with holds := setupHolds ws }
    plane := { s.plane with geometry := some g, cells := t.plane.cells, stack := t.plane.stack }
    video := { s.video with
      palette := setupPalette ws, pens := setupPens ws, glyphHeight := some (setupByte ws 2),
      blinkHalf := setupByte ws 3, blinkCounter := 0, shown := true, glyphWrite := none, cursor := t.video.cursor,
      cursorChanges := t.video.cursorChanges }
    rings :=
      ⟨{ s.rings.a with
          silenceLimit := setupByte ws 4, phase := if s.rings.a.state = .on then .status else s.rings.a.phase },
        { s.rings.b with
          silenceLimit := setupByte ws 5, phase := if s.rings.b.state = .on then .status else s.rings.b.phase },
        { s.rings.t with
          base := setupRingBase ws, lengthCode := setupLength ws, index := 0, haltReason := .none, state := .on,
          phase := .status }⟩
    memory := { s.memory with sent := t.memory.sent } } ∧
  (FieldRequest.step ∉ s.field.inbox → t.field.inbox = s.field.inbox ++ [.trigger]) ∧
  (∀ earlier later, s.field.inbox = earlier ++ .step :: later → FieldRequest.step ∉ earlier →
    t.field.inbox = earlier ++ .trigger :: .step :: later) ∧
  t.memory.sent.loader = s.memory.sent.loader ∧
  (∀ r, t.memory.sent.rings.get r =
    if (t.rings.get r).state = .on then some (statusReadOf (t.rings.get r) r) else s.memory.sent.rings.get r) ∧
  (s.plane.geometry = some g → t.plane = s.plane ∧ t.video.cursor = s.video.cursor ∧
    t.video.cursorChanges = s.video.cursorChanges ∧ t.field.records = s.field.records ∧ t.field.occupancy = s.field.occupancy) ∧
  (s.plane.geometry ≠ some g →
    (∀ n < 6144, t.plane.cells.get cellSpec n = ⟨32, 0⟩) ∧ t.plane.stack = [] ∧ t.video.cursor = ⟨0, 0, .off⟩ ∧
    t.video.cursorChanges = [] ∧
    (Tab.WF fieldSpec s.field.records →
      (∀ f, t.record f = { s.record f with state :=
        if (s.record f).state = .bound ∧
          ¬((s.record f).row < setupByte ws 1 ∧ (s.record f).col + (s.record f).width ≤ setupByte ws 0)
        then .suspended else (s.record f).state }) ∧
      ∀ n < 6144, (t.field.occupancy.get occSpec n = none ↔ ∀ f, ¬covers f n) ∧
        ∀ f, t.field.occupancy.get occSpec n = some f → covers f n))

/-- 12.4: the commit comes at the end of a setup read that passes the checks and asks for no font, and with the glyph
write of glyph 511. The last clause gives each field of the setup block by its bytes (11.5, 11.6). R131: the commit's
trigger is taken before a step request left over from an abandoned pass, which then serves as the first step of the new
one. Where the trigger stands among the other requests, that a cursor change not yet taken is dropped with a new geometry,
and that a frame in progress (`video.scan`) keeps the cursor fixed for it to its end, over the cleared plane, are the
model's choices (log entries 24, 23 and 27); the cursor that a new geometry sets to OFF is that of the frames after it. -/
def Obligations.CommitGivesEachBlockItsShare : Prop :=
  (∀ (s : State) (ws : List Word), s.control.loaderInput = some (.setupWords ws) → s.control.stage = .setup →
    setupFailure ws = none → setupFontLoad ws = false → Answers .setupReadEnd s fun t => Committed s t ws) ∧
  (∀ (s : State) (w : GlyphWrite), s.video.glyphWrite = some w → w.number = 511 → Answers .glyphWrite s fun t =>
    Committed { s with video := { s.video with glyphs := s.video.glyphs.set glyphSpec 511 w.lines } } t s.control.block) ∧
  (∀ ws : List Word,
    (∀ n, setupByte ws n = ((ws.getD (n / 4) 0).extractLsb' (8 * (n % 4)) 8).toNat ∧
      setupHalf ws n = setupByte ws n + 256 * setupByte ws (n + 1)) ∧
    (setupFontLoad ws = true ↔ setupByte ws 7 % 2 = 1) ∧ (setupAbsentGlyph ws).toNat = setupHalf ws 8 % 512 ∧
    (setupRingBase ws).toNat = (ws.getD 3 0).toNat / 64 * 64 ∧
    (setupByte ws 6 ≤ 6 → (setupLength ws).val = setupByte ws 6) ∧
    (∀ k : Fin 4, (setupHolds ws).get k = setupByte ws (20 + k.val)) ∧
    (∀ n : Fin 16, let h := setupHalf ws (24 + 2 * n.val)
      let c := (setupPalette ws).get n
      c.blue.toNat = h % 16 ∧ c.green.toNat = h / 16 % 16 ∧ c.red.toNat = h / 256 % 16) ∧
    (∀ n : Fin 32, let h := setupHalf ws (56 + 2 * n.val)
      let p := (setupPens ws).get n
      h / 256 % 4 ≠ 3 → p.foreground.toNat = h % 16 ∧ p.background.toNat = h / 16 % 16 ∧
        (p.blink = .steady ↔ h / 256 % 4 = 0) ∧ (p.blink = .phase0 ↔ h / 256 % 4 = 1) ∧
        (p.underline = true ↔ h / 1024 % 2 = 1) ∧ (p.reverse = true ↔ h / 2048 % 2 = 1)))

/-! ### The Memory Master (Section 10) -/

/-- 10.1 and 10.2: an arriving request is held while a transaction is in flight, and is granted on arrival when the Memory
Master is free and holds no other; a ring's grant moves the pointer past it, the Setup Loader's does not. -/
def Obligations.MemoryRequestHeldOrGranted : Prop :=
  (∀ (q : Requester) (s : State) (tx now : Transaction), s.memory.sent.get q = some tx → s.memory.inFlight = some now →
    Answers (.memoryRequest q) s fun t =>
      t = { s with memory := { s.memory with sent := s.memory.sent.set q none, held := s.memory.held.set q (some tx) } }) ∧
  (∀ (q : Requester) (s : State) (tx : Transaction), s.memory.sent.get q = some tx → s.memory.inFlight = none →
    s.memory.held = ⟨⟨none, none, none⟩, none⟩ → Answers (.memoryRequest q) s fun t =>
      t = { s with memory := { s.memory with
        sent := s.memory.sent.set q none
        inFlight := some tx
        pointer := match q with
          | .ring .a => .b
          | .ring .b => .t
          | .ring .t => .a
          | .loader => s.memory.pointer } })

/-- 10.2: among the rings the grant goes to the first that holds a request in the order A, B, T, A from the pointer, and
the pointer moves to the ring after it. That this holds also while the Setup Loader holds a request is the model's choice
(log entry 19); R172 says that the two never meet. The Setup Loader is granted when no ring holds a request, and nothing
is granted while a transaction is in flight.

10.2: no ring waits for more than one transaction of each other ring: if ring `r` holds a request through three grants
made one after another, each at the end of the transaction before, one of the three grants is its own. -/
def Obligations.RoundRobinGrant : Prop :=
  ((∀ (m : MemoryMaster) (r : RingId) (tx : Transaction), m.inFlight = none → m.held.rings.get r = some tx →
     (r = m.pointer ∨
       (r = nextRing m.pointer ∧ m.held.rings.get m.pointer = none) ∨
       (r = nextRing (nextRing m.pointer) ∧ m.held.rings.get m.pointer = none ∧
         m.held.rings.get (nextRing m.pointer) = none)) →
     m.grant = { m with inFlight := some tx, held := { m.held with rings := m.held.rings.set r none }, pointer := nextRing r }) ∧
   (∀ (m : MemoryMaster) (tx : Transaction), m.inFlight = none → m.held = ⟨⟨none, none, none⟩, some tx⟩ →
     m.grant = { m with inFlight := some tx, held := ⟨⟨none, none, none⟩, none⟩ }) ∧
   (∀ m : MemoryMaster, (m.inFlight.isSome = true ∨ m.held = ⟨⟨none, none, none⟩, none⟩) → m.grant = m)) ∧
  (∀ (m : MemoryMaster) (r : RingId), m.inFlight = none → (m.held.rings.get r).isSome = true →
     (∀ q tx, m.held.rings.get q = some tx → tx.kind.requester = .ring q) →
     let one := m.grant
     let two := { one with inFlight := none }.grant
     let three := { two with inFlight := none }.grant
     let own (x : MemoryMaster) : Prop := ∃ tx, x.inFlight = some tx ∧ tx.kind.requester = .ring r
     own one ∨ own two ∨ own three)

/-- 10.3: bus grant moves the transaction in flight to TRANSFERRING and changes nothing else.

10.3 and 10.4: an acknowledge answers the outstanding word. Before the last word the next one starts; at the last the
transaction ends, the next request is granted, and the completion goes to the requester. With no word outstanding it is
ignored.

10.3 and 10.4: the expiry of the response limit ends the transaction, grants the next request and returns the fault,
and none of the words, to the requester. That its expiry with no word outstanding changes nothing is the model's choice
(log entry 1).

10.1: the order of words on the bus. A write-back drives word 3 at its address and then word 0 twelve bytes below; a
read goes upward in words of 4 bytes, as many as the transaction's kind has. Bus request is asserted from the grant of a transaction to its end, and exactly one
strobe while a word is outstanding. -/
def Obligations.BusTransfersAndTheirEnds : Prop :=
  (∀ (s : State) (tx : Transaction), s.memory.inFlight = some tx →
     exec .busGrant s = .next { s with memory := { s.memory with inFlight := some { tx with phase := .transferring } } }) ∧
  ((∀ (s : State) (tx : Transaction) (w : Word), s.memory.inFlight = some tx → tx.phase = .transferring →
     tx.moved + 1 < tx.kind.words → Answers (.transferAcknowledge w) s fun t =>
       t = { s with memory := { s.memory with inFlight := some { tx with
         moved := tx.moved + 1, data := if tx.kind.isWrite then tx.data else tx.data ++ [w] } } }) ∧
   (∀ (s : State) (tx : Transaction) (w : Word), s.memory.inFlight = some tx → tx.phase = .transferring →
     tx.kind.words ≤ tx.moved + 1 → Answers (.transferAcknowledge w) s fun t =>
       let ws := tx.data ++ [w]
       let back (r : RingId) (i : RingInput) : PerRing RingUnit :=
         s.rings.set r { s.rings.get r with input := (s.rings.get r).input ++ [i] }
       t = { s with
         memory := { s.memory with inFlight := none }.grant
         rings := match tx.kind with
           | .statusRead r => back r (.statusEnd (ws.headD 0))
           | .bodyRead r => back r (.bodyEnd ws)
           | .writeBack r => back r .writeBackEnd
           | .setupRead => s.rings
           | .glyphRead => s.rings
         control := match tx.kind with
           | .setupRead => { s.control with loaderInput := some (.setupWords ws) }
           | .glyphRead => { s.control with loaderInput := some (.glyphWords ws) }
           | .statusRead _ => s.control
           | .bodyRead _ => s.control
           | .writeBack _ => s.control }) ∧
   (∀ (s : State) (w : Word), (∀ tx, s.memory.inFlight = some tx → tx.phase = .requesting) →
     exec (.transferAcknowledge w) s = .next s)) ∧
  ((∀ (s : State) (tx : Transaction), s.memory.inFlight = some tx → tx.phase = .transferring →
     Answers .responseLimitExpiry s fun t =>
       t = { s with
         memory := { s.memory with inFlight := none }.grant
         rings := match tx.kind.requester with
           | .ring r => s.rings.set r { s.rings.get r with input := (s.rings.get r).input ++ [.fault] }
           | .loader => s.rings
         control := match tx.kind.requester with
           | .ring _ => s.control
           | .loader => { s.control with loaderInput := some .fault } }) ∧
   (∀ s : State, (∀ tx, s.memory.inFlight = some tx → tx.phase = .requesting) →
     exec .responseLimitExpiry s = .next s)) ∧
  ((∀ (s : State) (r : RingId) (a : Nat) (w3 w0 : Word) (k : Nat), k < 2 →
     s.memory.inFlight = some ⟨.writeBack r, a + 12, k, [w3, w0], .transferring⟩ →
     s.busAddress = some (if k = 0 then a + 12 else a) ∧ s.busData = some (if k = 0 then w3 else w0) ∧
       s.writeStrobe = true ∧ s.readStrobe = false ∧ s.busRequest = true) ∧
   (∀ (s : State) (tx : Transaction), s.memory.inFlight = some tx → tx.kind.isWrite = false → tx.phase = .transferring →
     s.busAddress = some (tx.addr + 4 * tx.moved) ∧ s.busData = none ∧ s.readStrobe = true ∧ s.writeStrobe = false) ∧
   (∀ (s : State) (tx : Transaction), s.memory.inFlight = some tx → tx.phase = .requesting →
     s.busRequest = true ∧ s.busAddress = none ∧ s.readStrobe = false ∧ s.writeStrobe = false) ∧
   (∀ s : State, s.memory.inFlight = none →
     s.busRequest = false ∧ s.busAddress = none ∧ s.readStrobe = false ∧ s.writeStrobe = false) ∧
   (∀ s : State, (s.readStrobe = true ∨ s.writeStrobe = true) ↔ s.byteEnables = 0xF) ∧
   (∀ r : RingId, (TxKind.statusRead r).words = 1 ∧ (TxKind.bodyRead r).words = 15 ∧ (TxKind.writeBack r).words = 2 ∧
     (TxKind.statusRead r).isWrite = false ∧ (TxKind.bodyRead r).isWrite = false ∧
     (TxKind.writeBack r).isWrite = true) ∧
   TxKind.setupRead.words = 32 ∧ TxKind.glyphRead.words = 4 ∧ TxKind.setupRead.isWrite = false ∧
   TxKind.glyphRead.isWrite = false)

/-! ### The Ring Units (Section 9) -/

/-- 9.2 and 9.3: the end of the status read. A STOPPING ring becomes OFF whatever the flag; with the flag set the body
read is asked for and the descriptor is in flight; with it clear the ring waits. -/
def Obligations.StatusReadEndByFlag : Prop :=
  ∀ (r : RingId) (s : State) (w : Word) (rest : List RingInput), (s.rings.get r).input = .statusEnd w :: rest →
    let u := s.rings.get r
    (u.state = .stopping → Answers (.statusReadEnd r) s fun t =>
      t = { s with rings := s.rings.set r { u with input := rest, state := .off, phase := .idle },
                   ports := feedSent s.ports r, control := t.control } ∧
      Accompanied s t r .stopping .off) ∧
    (u.state ≠ .stopping → w.getLsbD 7 = true → Answers (.statusReadEnd r) s fun t =>
      t = { s with rings := s.rings.set r { u with input := rest, phase := .body, inFlight := .header w },
                   memory := asked s.memory (.ring r)
                     ⟨.bodyRead r, u.base.toNat + 64 * u.index + 4, 0, [], .requesting⟩ }) ∧
    (u.state ≠ .stopping → w.getLsbD 7 = false → Answers (.statusReadEnd r) s fun t =>
      t = { s with rings := s.rings.set r { u with input := rest, phase := .waiting } })

/-- The requests that a descriptor of each kind gives its owner block (9.2, the kind table). -/
def Sys2Proof.Statement.DeliveredTo (s t : State) (r : RingId) (d : Descriptor) : Prop :=
  (d.kind ∈ [1, 2, 3] → t.quote = { s.quote with inbox := s.quote.inbox ++ [.apply r d] }) ∧
  (d.kind = 16 → t.quote = { s.quote with inbox := s.quote.inbox ++ [.define d] }) ∧
  (d.kind = 17 → t.quote = { s.quote with inbox := s.quote.inbox ++ [.remove d] }) ∧
  (d.kind = 18 → t.quote = { s.quote with inbox := s.quote.inbox ++ [.setSources d] }) ∧
  (d.kind = 19 → t.field = { s.field with inbox := s.field.inbox ++ [.bind d] }) ∧
  (d.kind = 20 → t.field = { s.field with inbox := s.field.inbox ++ [.unbind d] }) ∧
  (d.kind = 21 → t.field = { s.field with inbox := s.field.inbox ++ [.move d] }) ∧
  (d.kind = 22 → t.field = { s.field with inbox := s.field.inbox ++ [.style d] }) ∧
  (d.kind = 23 → t.field = { s.field with inbox := s.field.inbox ++ [.setPen d] }) ∧
  (d.kind = 24 → t.plane = { s.plane with inbox := s.plane.inbox ++ [.writeCells d] }) ∧
  (d.kind = 25 → t.plane = { s.plane with inbox := s.plane.inbox ++ [.fillCells d] }) ∧
  (d.kind = 26 → t.plane = { s.plane with inbox := s.plane.inbox ++ [.openOverlay d] }) ∧
  (d.kind = 27 → t.plane = { s.plane with inbox := s.plane.inbox ++ [.closeOverlay] }) ∧
  (d.kind = 28 → t.field = { s.field with inbox := s.field.inbox ++ [.repaint] }) ∧
  (d.kind = 29 → t.plane = { s.plane with inbox := s.plane.inbox ++ [.setCursor d] }) ∧
  (d.kind ∉ [1, 2, 3, 16, 17, 18] → t.quote = s.quote) ∧
  (d.kind ∉ [19, 20, 21, 22, 23, 28] → t.field = s.field) ∧
  (d.kind ∉ [24, 25, 26, 27, 29] → t.plane = s.plane)

/-- 9.2: the end of the body read. A kind outside the table gives BAD_FORM and a command kind on Ring A or Ring B gives
WRONG_PORT, each taken by the Ring Unit as an outcome with result word 0 and no owner block reached; any other
descriptor goes to the block that owns its kind.

11.1: the descriptor header by its bytes (R177). Word 0 is that of the status read and words 1 to 15 those of the body
read; byte 0 of a word is its least significant byte. -/
def Obligations.BodyReadEndChecksKind : Prop :=
  (∀ (r : RingId) (s : State) (ws : List Word) (rest : List RingInput), (s.rings.get r).input = .bodyEnd ws :: rest →
    let u := s.rings.get r
    let d : Descriptor := ⟨u.inFlight.word0, ws⟩
    let legal : Prop := (1 ≤ d.kind ∧ d.kind ≤ 3) ∨ (16 ≤ d.kind ∧ d.kind ≤ 29)
    let refused (st : Status) (t : State) : Prop :=
      t = { s with
        rings := s.rings.set r { u with
          input := rest, inFlight := .fetched d, phase := .handBack, rejected := u.rejected + 1 }
        ports := withCause s.ports r .reject
        memory := asked s.memory (.ring r)
          ⟨.writeBack r, u.base.toNat + 64 * u.index + 12, 0, [0, backWord d.word0 st], .requesting⟩ }
    (¬legal → Answers (.bodyReadEnd r) s (refused .badForm)) ∧
    (legal → 16 ≤ d.kind → isFeed r = true → Answers (.bodyReadEnd r) s (refused .wrongPort)) ∧
    (legal → d.kind ≤ 3 ∨ r = .t → Answers (.bodyReadEnd r) s fun t =>
      t = { s with rings := s.rings.set r { u with input := rest, inFlight := .fetched d, phase := .owner },
                   quote := t.quote, field := t.field, plane := t.plane } ∧
      DeliveredTo s t r d)) ∧
  (∀ d : Descriptor,
    d.word 0 = d.word0 ∧ (∀ k, d.word (k + 1) = d.body.getD k 0) ∧
    (∀ w k, k < 4 → d.byte w k = ((d.word w).extractLsb' (8 * k) 8).toNat) ∧
    (∀ w k, k < 2 → d.half w k = d.byte w (2 * k) + 256 * d.byte w (2 * k + 1)) ∧
    d.kind = d.byte 0 1 ∧ d.pairCount = d.byte 0 2 % 8 ∧ (d.notify = true ↔ 128 ≤ d.byte 0 2) ∧
    d.conditionByte = d.byte 0 3 ∧ d.key = d.word 1 ∧
    d.key.toNat = d.byte 1 0 + 256 * d.byte 1 1 + 65536 * d.byte 1 2 + 16777216 * d.byte 1 3 ∧
    d.sequence.toNat = d.byte 2 0 + 256 * d.byte 2 1 + 65536 * d.byte 2 2 ∧ d.sequenceUpper = d.byte 2 3)

/-- 9.2 and 9.5: the taking of an outcome: it is counted in the counter that its status names and in no other, REJECT and
GAP are set as the status asks, and the write-back of word 3 and word 0 is asked for; word 0 carries the status code with
the ownership flag clear and its other three bytes as fetched. The last clauses are the codes of 11.1 and the counters of
R161. -/
def Obligations.OutcomeTakenCountsAndWritesBack : Prop :=
  (∀ (r : RingId) (s : State) (st : Status) (w : Word) (rest : List RingInput),
    (s.rings.get r).input = .outcome st w :: rest → Answers (.outcomeTaken r) s fun t =>
      let u := s.rings.get r
      t = { s with
        rings := t.rings
        ports := if st.counter = .rejected then withCause s.ports r .reject
          else if st = .appliedGap then
            (if r = .t then withCause s.ports .t .gap else withCause (withCause s.ports r .gap) .t .gap)
          else s.ports
        memory := asked s.memory (.ring r)
          ⟨.writeBack r, u.base.toNat + 64 * u.index + 12, 0, [w, backWord u.inFlight.word0 st], .requesting⟩ } ∧
      t.rings = s.rings.set r (t.rings.get r) ∧
      t.rings.get r = { u with
        input := rest, phase := .handBack, applied := (t.rings.get r).applied,
        duplicate := (t.rings.get r).duplicate, stale := (t.rings.get r).stale, rejected := (t.rings.get r).rejected } ∧
      ∀ c, (t.rings.get r).counter c = if c = st.counter then u.counter c + 1 else u.counter c) ∧
  (∀ (w0 : Word) (st : Status), byteOf (backWord w0 st) 0 = st.code ∧ (backWord w0 st).getLsbD 7 = false ∧
    ∀ k, 1 ≤ k → k ≤ 3 → byteOf (backWord w0 st) k = byteOf w0 k) ∧
  ([.applied, .appliedGap, .duplicate, .stale, .noKey, .notSource, .badForm, .done, .tableFull, .existing, .notFound,
    .hasBindings, .bindingsFull, .fieldInUse, .notBound, .outOfRange, .overlap, .noOverlay, .stackFull, .saveFull,
    .wrongPort].map Status.code = [1, 2, 3, 4, 5, 6, 7, 8, 9, 10, 11, 12, 13, 14, 15, 16, 17, 18, 19, 20, 21]) ∧
  (∀ st : Status, (st.counter = .applied ↔ st = .applied ∨ st = .appliedGap ∨ st = .done) ∧
    (st.counter = .duplicate ↔ st = .duplicate) ∧ (st.counter = .stale ↔ st = .stale) ∧
    (st.counter = .rejected ↔ 5 ≤ st.code ∧ st ≠ .done))

/-- 9.2: a hand-back. The descriptor in flight is cleared, DONE is set when NOTIFY asks for it, the silence counter of a
feed ring is 0 and a SILENT one returns to ON, the index advances modulo the length; then a ring that fetches asks for
its next status read while the device is RUNNING, a STOPPING ring becomes OFF, and any other stands IDLE. -/
def Obligations.HandBack : Prop :=
  ∀ (r : RingId) (s : State) (rest : List RingInput), (s.rings.get r).input = .writeBackEnd :: rest →
    let u := s.rings.get r
    let done := if u.inFlight.word0.getLsbD 23 then withCause s.ports r .done else s.ports
    let index := (u.index + 1) % (4 * 2 ^ u.lengthCode.val)
    let quiet := if isFeed r then 0 else u.silenceCounter
    (u.state = .on → s.control.device = .running → Answers (.writeBackEnd r) s fun t =>
      let v := { u with input := rest, inFlight := .none, index := index, silenceCounter := quiet, phase := .status }
      t = { s with ports := done, rings := s.rings.set r v, memory := asked s.memory (.ring r) (statusReadOf v r) }) ∧
    (u.state = .silent → isFeed r = true → s.control.device = .running → Answers (.writeBackEnd r) s fun t =>
      let v := { u with
        input := rest, inFlight := .none, index := index, silenceCounter := 0, state := .on, phase := .status }
      t = { s with ports := withCause done .t .feed, rings := s.rings.set r v, field := t.field,
                   memory := asked s.memory (.ring r) (statusReadOf v r) } ∧
      Accompanied s t r .silent .on) ∧
    (u.state = .stopping → Answers (.writeBackEnd r) s fun t =>
      t = { s with ports := feedSent done r, control := t.control,
                   rings := s.rings.set r { u with
                     input := rest, inFlight := .none, index := index, silenceCounter := quiet, state := .off,
                     phase := .idle } } ∧
      Accompanied s t r .stopping .off) ∧
    (u.state = .off ∨ u.state = .halted ∨ (u.state = .on ∧ s.control.device ≠ .running) →
      Answers (.writeBackEnd r) s fun t =>
        t = { s with ports := done, rings := s.rings.set r { u with
          input := rest, inFlight := .none, index := index, silenceCounter := quiet, phase := .idle } })

/-- 9.6: a fault in a status read or a body read halts the ring with FETCH, and one in a write-back with WRITEBACK; the
index and the counters keep their values, the descriptor in flight is cleared, and HALT and FEED are set. A halted ring
is one that was ON, SILENT or STOPPING. -/
def Obligations.MemoryFaultHaltsRing : Prop :=
  ∀ (r : RingId) (s : State) (rest : List RingInput), (s.rings.get r).input = .fault :: rest →
    (s.rings.get r).state = .on ∨ (s.rings.get r).state = .silent ∨ (s.rings.get r).state = .stopping →
    let u := s.rings.get r
    let halted (why : HaltReason) (t : State) : Prop :=
      t = { s with
        rings := s.rings.set r { u with
          input := rest, inFlight := .none, haltReason := why, phase := .idle, state := .halted }
        ports := withCause (feedSent s.ports r) r .halt
        field := t.field, control := t.control } ∧
      Accompanied s t r u.state .halted
    (u.phase = .status ∨ u.phase = .body → Answers (.ringFetchFault r) s (halted .fetch)) ∧
    (u.phase = .handBack → Answers (.writebackFault r) s (halted .writeback))

/-- 9.2 and 9.4: a frame event taken by a Ring Unit that does not bring it to its silence limit: a feed ring in ON counts
one frame while the device is RUNNING, up to 4080; a WAITING ring that fetches reads its status word again.

9.4: the frame event at which the counter of a feed ring in ON reaches 16 times its limit makes the ring SILENT: SILENT
is set on its own port, FEED on the Terminal Port, and the sweep is triggered; a WAITING ring also looks again. That SILENT
is the name of that frame event, and not an event of its own, is the model's reading (log entry 9). -/
def Obligations.FrameEventAtRingAndSilence : Prop :=
  (∀ (r : RingId) (s : State) (n : Half) (rest : List Half), (s.rings.get r).frames = n :: rest →
     let u := s.rings.get r
     let counts : Prop := r ≠ .t ∧ s.control.device = .running ∧ u.state = .on
     ∀ c : Nat, (counts → c = if u.silenceCounter < 4080 then u.silenceCounter + 1 else u.silenceCounter) → (¬counts → c = u.silenceCounter) →
       ¬(counts ∧ u.silenceLimit ≠ 0 ∧ 16 * u.silenceLimit ≤ c) →
       let v := { u with frames := rest, silenceCounter := c }
       (u.phase = .waiting → u.state = .on ∨ u.state = .silent → Answers (.ringFrameEvent r) s fun t =>
         t = { s with rings := s.rings.set r { v with phase := .status },
                      memory := asked s.memory (.ring r) (statusReadOf v r) }) ∧
       (¬(u.phase = .waiting ∧ (u.state = .on ∨ u.state = .silent)) → Answers (.ringFrameEvent r) s fun t =>
         t = { s with rings := s.rings.set r v })) ∧
  (∀ (r : RingId) (s : State) (n : Half) (rest : List Half), (s.rings.get r).frames = n :: rest → r ≠ .t →
     s.control.device = .running → (s.rings.get r).state = .on → (s.rings.get r).silenceLimit ≠ 0 →
     let u := s.rings.get r
     let c := if u.silenceCounter < 4080 then u.silenceCounter + 1 else u.silenceCounter
     16 * u.silenceLimit ≤ c →
     exec (.silent r) s = exec (.ringFrameEvent r) s ∧
     Answers (.silent r) s fun t =>
       let v := { u with
         frames := rest, silenceCounter := c, state := .silent,
         phase := if u.phase = .waiting then .status else u.phase }
       t = { s with
         rings := s.rings.set r v
         ports := withCause (withCause s.ports .t .feed) r .silent
         field := { s.field with inbox := s.field.inbox ++ [.trigger] }
         memory := if u.phase = .waiting then asked s.memory (.ring r) (statusReadOf v r) else s.memory })

/-! ### The quote map and applies (Sections 1 and 2) -/

/-- R4: the bucket is the low 7 bits of the exclusive-OR of the key's four bytes. -/
def Obligations.BucketIsFoldOfKey : Prop :=
  (∀ key : Word, bucketOf key =
    ((key.extractLsb' 0 8 ^^^ key.extractLsb' 8 8 ^^^ key.extractLsb' 16 8 ^^^ key.extractLsb' 24 8).setWidth 7).toNat) ∧
  (∀ key : Word, bucketOf key < 128) ∧ bucketOf 0x12345678 = 8 ∧ bucketOf 0x00000084 = 4

/-- R17: an instrument is stale exactly when it is PAUSED, or GAPPED or UNSEQUENCED, or none of the rings in its mask is
ON. -/
def Obligations.StalenessCondition : Prop :=
  ∀ (v : Slot) (rings : PerRing RingUnit), isStale v rings = true ↔
    v.condition = .paused ∨ v.seqState = .gapped ∨ v.seqState = .unsequenced ∨
      ∀ r, v.sources.get r = true → (rings.get r).state ≠ .on

/-- R26: sequence comparison modulo 2^24 with a newer window of 2^23 - 1; an UNSEQUENCED instrument is arbitrated without
regard to the comparison.

R27 and R28: the two case tables, and that a SNAPSHOT never gives APPLIED_GAP. -/
def Obligations.ComparisonAndCaseTables : Prop :=
  ((∀ seq last : BitVec 24,
     let d := (seq.toNat + 16777216 - last.toNat) % 16777216
     (d = 0 → compareSeq seq last = .equal) ∧ (d = 1 → compareSeq seq last = .inOrder) ∧
     (2 ≤ d ∧ d ≤ 8388607 → compareSeq seq last = .gap) ∧
     (8388608 ≤ d ∧ d ≤ 16777215 → compareSeq seq last = .older)) ∧
   (∀ c c' : SeqCompare, arbitrateUpdate .unsequenced c = arbitrateUpdate .unsequenced c' ∧
     arbitrateSnapshot .unsequenced c = arbitrateSnapshot .unsequenced c')) ∧
  ((∀ c, arbitrateUpdate .unsequenced c = .accept .gapped .appliedGap) ∧
   (∀ q, q = .synced ∨ q = .gapped →
     arbitrateUpdate q .equal = .refuse .duplicate ∧ arbitrateUpdate q .inOrder = .accept q .applied ∧
     arbitrateUpdate q .gap = .accept .gapped .appliedGap ∧ arbitrateUpdate q .older = .refuse .stale) ∧
   (∀ c, arbitrateSnapshot .unsequenced c = .accept .synced .applied ∧
     arbitrateSnapshot .gapped c = .accept .synced .applied) ∧
   arbitrateSnapshot .synced .equal = .refuse .duplicate ∧ arbitrateSnapshot .synced .inOrder = .accept .synced .applied ∧
   arbitrateSnapshot .synced .gap = .accept .synced .applied ∧ arbitrateSnapshot .synced .older = .refuse .stale ∧
   (∀ q c new, arbitrateSnapshot q c ≠ .accept new .appliedGap) ∧
   (∀ q c st, arbitrateUpdate q c = .accept .synced st → q = .synced))

/-- R23: the form check of the three quote kinds, by the bytes of the descriptor. What the descriptor then carries is given
by its bytes too: pair k is the item and scale in word 2k + 4 and the value in word 2k + 5 (11.2), and the condition byte
is 1 for TRADING and 2 for PAUSED (11.1). -/
def Obligations.FormCheck : Prop :=
  ∀ d : Descriptor,
    let n := d.byte 0 2 % 8
    let pairsGood : Prop := d.byte 2 3 = 0 ∧
      (∀ k < n, d.byte (2 * k + 4) 0 ≤ 7 ∧ d.byte (2 * k + 4) 1 ≤ 6) ∧
      (∀ j k, j < k → k < n → d.byte (2 * j + 4) 0 ≠ d.byte (2 * k + 4) 0)
    (d.updateForm.isSome = true ↔ pairsGood ∧ 1 ≤ n ∧ n ≤ 6 ∧ d.byte 0 3 = 0) ∧
    (d.snapshotForm.isSome = true ↔ pairsGood ∧ n ≤ 6 ∧ (d.byte 0 3 = 1 ∨ d.byte 0 3 = 2)) ∧
    (d.conditionForm.isSome = true ↔ pairsGood ∧ n = 0 ∧ (d.byte 0 3 = 1 ∨ d.byte 0 3 = 2)) ∧
    let carries (ps : List Pair) : Prop := ps.length = n ∧ ∀ (k : Nat) (_ : k < ps.length),
      ps[k].item.val = d.byte (2 * k + 4) 0 ∧ ps[k].scale.val = d.byte (2 * k + 4) 1 ∧ ps[k].value = d.word (2 * k + 5)
    let isGiven (c : Condition) : Prop := (c = .trading ↔ d.byte 0 3 = 1) ∧ (c = .paused ↔ d.byte 0 3 = 2)
    (∀ ps, d.updateForm = some ps → carries ps) ∧ (∀ ps c, d.snapshotForm = some (ps, c) → carries ps ∧ isGiven c) ∧
    (∀ c, d.conditionForm = some c → isGiven c)

/-- What an accepted apply leaves: slot `i` holds `v`, and nothing else of the table has changed; the render requests
`renders` go to the Field Unit while fewer than 64 are held there, and when all are sent the outcome returns to ring `r`
with the slot, the number of renders and the frame number (2.4, 2.5, R47); else the event waits. -/
def Sys2Proof.Statement.Applied (s t : State) (r : RingId) (i : Nat) (v : Slot) (renders : List RenderRequest)
    (st : Status) : Prop :=
  let w := ofBytes i renders.length (s.video.frameNumber.toNat % 256) (s.video.frameNumber.toNat / 256)
  let held := s.field.inbox.countP FieldRequest.isRender
  t = { s with
    quote := { quoteTaken s.quote with
      slots := s.quote.slots.set slotSpec i v
      wait := if renders.length ≤ 64 - held then none else some ⟨renders.drop (64 - held), r, st, w⟩ }
    field := { s.field with inbox := s.field.inbox ++ (renders.take (64 - held)).map .render }
    rings := if renders.length ≤ 64 - held then outcomeTo s.rings r st w else s.rings }

/-- The fields of a slot that an apply renders: those on the binding list that are not SUSPENDED, in list order. -/
def Sys2Proof.Statement.shown (s : State) (i : Nat) : List Nat :=
  (s.slot i).bindings.filter fun f => decide ((s.record f).state ≠ .suspended)

/-- 2.4: an accepted UPDATE. Each item that a pair names holds the pair's value and scale, and the others keep their
contents; the last sequence is the descriptor's. A field whose item was named is sent a tick render with the old and new
values at scale 6; the other fields a plain render when the sequence state changed, and nothing when it did not. Renders
that find no room wait (R47); that the list of them and the render count are fixed when the apply is taken is the model's
choice (log entry 26).

The item of a field is its record's; that of a field whose append is taken and whose record is not yet filled is read from
the BIND_FIELD in progress (R54), which is the model's reading (log entry 7). -/
def Obligations.UpdateAccepted : Prop :=
  (∀ (s : State) (r : RingId) (d : Descriptor) (rest : List QuoteRequest) (ps : List Pair) (i : Nat) (new : SeqState)
    (st : Status), s.quote.wait = none → s.quote.inbox = .apply r d :: rest → d.kind = 1 → d.updateForm = some ps →
    s.arbitrate r d arbitrateUpdate = .inl (i, new, st) → Answers .update s fun t =>
      ∃ items : Vector (Option Item) 8,
        Applied s t r i { s.slot i with items := items, seqState := new, lastSeq := d.sequence }
          ((shown s i).filterMap fun f =>
            match ps.find? fun p => decide (p.item = s.fieldItem f) with
            | some p => some (.tick f (((s.slot i).items.get (s.fieldItem f)).map fun it =>
                it.value.toInt * 10 ^ (6 - it.scale.val)) (p.value.toInt * 10 ^ (6 - p.scale.val)))
            | none => if new ≠ (s.slot i).seqState then some (.plain f) else none) st ∧
        (∀ p ∈ ps, items.get p.item = some ⟨p.value, p.scale⟩) ∧
        (∀ k, (∀ p ∈ ps, p.item ≠ k) → items.get k = (s.slot i).items.get k)) ∧
  (∀ (s : State) (f : Nat),
     ((s.record f).state ≠ .free ∨ s.field.command = none → s.fieldItem f = (s.record f).item) ∧
     (∀ d : Descriptor, (s.record f).state = .free → s.field.command = some d →
       (f ≠ d.half 4 0 → s.fieldItem f = (s.record f).item) ∧
       (f = d.half 4 0 → d.byte 4 2 ≤ 7 → (s.fieldItem f).val = d.byte 4 2)))

/-- 2.4: an accepted SNAPSHOT replaces the whole picture: the items its pairs name are present, the others absent; the
condition and the last sequence are the descriptor's; every field of the list but the SUSPENDED is sent a reset render.

2.4: an accepted CONDITION sets the condition, the sequence state and the last sequence, leaves the items as they
were, and sends every field of the list but the SUSPENDED a plain render.

Renders that find no room wait (R47); that the list of them and the render count are fixed when the apply is taken is the
model's choice (log entry 26). -/
def Obligations.SnapshotAndConditionAccepted : Prop :=
  (∀ (s : State) (r : RingId) (d : Descriptor) (rest : List QuoteRequest) (ps : List Pair) (c : Condition) (i : Nat)
     (new : SeqState) (st : Status), s.quote.wait = none → s.quote.inbox = .apply r d :: rest → d.kind = 2 →
     d.snapshotForm = some (ps, c) → s.arbitrate r d arbitrateSnapshot = .inl (i, new, st) → Answers .snapshot s fun t =>
       ∃ items : Vector (Option Item) 8,
         Applied s t r i
           { s.slot i with items := items, condition := c, seqState := new, lastSeq := d.sequence }
           ((shown s i).map .reset) st ∧
         (∀ p ∈ ps, items.get p.item = some ⟨p.value, p.scale⟩) ∧
         (∀ k, (∀ p ∈ ps, p.item ≠ k) → items.get k = none) ∧ new = .synced) ∧
  (∀ (s : State) (r : RingId) (d : Descriptor) (rest : List QuoteRequest) (c : Condition) (i : Nat) (new : SeqState)
     (st : Status), s.quote.wait = none → s.quote.inbox = .apply r d :: rest → d.kind = 3 → d.conditionForm = some c →
     s.arbitrate r d arbitrateUpdate = .inl (i, new, st) → Answers .condition s fun t =>
       Applied s t r i { s.slot i with condition := c, seqState := new, lastSeq := d.sequence }
         ((shown s i).map .plain) st)

/-- 2.1: the key check, the source check and the case table, in that order.

2.1 and 2.3: a refused apply of each kind changes no slot and no bucket head, sends no render, and returns its status
with the slot (0 for BAD_FORM and NO_KEY), render count 0 and the frame number. -/
def Obligations.ApplyChecksAndRefusals : Prop :=
  (∀ (s : State) (r : RingId) (d : Descriptor) (table : SeqState → SeqCompare → Verdict),
     (s.quote.lookup d.key = none → s.arbitrate r d table = .inr (0, .noKey)) ∧
     (∀ i pos, s.quote.lookup d.key = some (i, pos) →
       ((s.slot i).sources.get r = false → s.arbitrate r d table = .inr (i, .notSource)) ∧
       ((s.slot i).sources.get r = true →
         (∀ new st, table (s.slot i).seqState (compareSeq d.sequence (s.slot i).lastSeq) = .accept new st →
           s.arbitrate r d table = .inl (i, new, st)) ∧
         (∀ st, table (s.slot i).seqState (compareSeq d.sequence (s.slot i).lastSeq) = .refuse st →
           s.arbitrate r d table = .inr (i, st))))) ∧
  (∀ (s : State) (r : RingId) (d : Descriptor) (rest : List QuoteRequest), s.quote.wait = none →
     s.quote.inbox = .apply r d :: rest →
     let refused (i : Nat) (st : Status) (t : State) : Prop :=
       t = { s with
         quote := quoteTaken s.quote
         rings := outcomeTo s.rings r st (ofBytes i 0 (s.video.frameNumber.toNat % 256) (s.video.frameNumber.toNat / 256)) }
     (d.kind = 1 → d.updateForm = none → Answers .update s (refused 0 .badForm)) ∧
     (d.kind = 2 → d.snapshotForm = none → Answers .snapshot s (refused 0 .badForm)) ∧
     (d.kind = 3 → d.conditionForm = none → Answers .condition s (refused 0 .badForm)) ∧
     (∀ i st, d.kind = 1 → d.updateForm.isSome = true → s.arbitrate r d arbitrateUpdate = .inr (i, st) →
       Answers .update s (refused i st)) ∧
     (∀ i st, d.kind = 2 → d.snapshotForm.isSome = true → s.arbitrate r d arbitrateSnapshot = .inr (i, st) →
       Answers .snapshot s (refused i st)) ∧
     (∀ i st, d.kind = 3 → d.conditionForm.isSome = true → s.arbitrate r d arbitrateUpdate = .inr (i, st) →
       Answers .condition s (refused i st)))

/-- 1.3: DEFINE_INSTRUMENT. A form failure, a key already held and a full table each refuse it and leave the table and
the heads as they were; else the lowest-numbered FREE slot takes the new instrument, behind the tail of its bucket's
chain.

1.3: REMOVE_INSTRUMENT. An unknown key and a slot with bindings refuse it; else the slot is unlinked from its chain
and returns to FREE with the cleared contents.

1.2: a chain begins at its bucket's head and goes on by the chain links; a lookup answers the first slot of the chain of
the key's bucket that holds the key, with the number of slots before it, and never finds key 0. 11.4: the source mask by
its bits. -/
def Obligations.DefineAndRemoveInstrument : Prop :=
  (∀ (s : State) (d : Descriptor) (rest : List QuoteRequest), s.quote.wait = none → s.quote.inbox = .define d :: rest →
     let b := bucketOf d.key
     let refused (st : Status) (w : Word) (t : State) : Prop :=
       t = { s with quote := quoteTaken s.quote, rings := outcomeTo s.rings .t st w }
     (d.key = 0 ∨ maskOf (d.byte 4 0) = none → Answers .defineInstrument s (refused .badForm 0)) ∧
     (∀ mask i pos, d.key ≠ 0 → maskOf (d.byte 4 0) = some mask → s.quote.lookup d.key = some (i, pos) →
       Answers .defineInstrument s (refused .existing (ofBytes i b (s.slot i).bindings.length pos))) ∧
     (∀ mask, d.key ≠ 0 → maskOf (d.byte 4 0) = some mask → s.quote.lookup d.key = none →
       (∀ i < 256, (s.slot i).occupied = true) → Answers .defineInstrument s (refused .tableFull (ofBytes 0 b 0 0))) ∧
     (∀ mask i, d.key ≠ 0 → maskOf (d.byte 4 0) = some mask → s.quote.lookup d.key = none → i < 256 →
       (s.slot i).occupied = false → (∀ j < i, (s.slot j).occupied = true) → s.StoresWF →
       Answers .defineInstrument s fun t =>
         t = { s with
           quote := { quoteTaken s.quote with slots := t.quote.slots, heads := t.quote.heads }
           rings := outcomeTo s.rings .t .done (ofBytes i b 0 (s.quote.chain b).length) } ∧
         t.slot i = { Slot.cleared with occupied := true, key := d.key, sources := mask } ∧
         (∀ j, j ≠ i → (s.quote.chain b).getLast? ≠ some j → t.slot j = s.slot j) ∧
         (∀ j, j ≠ i → j < 256 → (s.quote.chain b).getLast? = some j → t.slot j = { s.slot j with link := some i }) ∧
         (∀ c < 128, t.quote.heads.get headSpec c =
           if c = b ∧ s.quote.chain b = [] then some i else s.quote.heads.get headSpec c))) ∧
  (∀ (s : State) (d : Descriptor) (rest : List QuoteRequest), s.quote.wait = none → s.quote.inbox = .remove d :: rest →
     let b := bucketOf d.key
     let refused (st : Status) (w : Word) (t : State) : Prop :=
       t = { s with quote := quoteTaken s.quote, rings := outcomeTo s.rings .t st w }
     (s.quote.lookup d.key = none → Answers .removeInstrument s (refused .notFound (ofBytes 0 b 0 0))) ∧
     (∀ i pos, s.quote.lookup d.key = some (i, pos) → (s.slot i).bindings ≠ [] →
       Answers .removeInstrument s (refused .hasBindings (ofBytes i b (s.slot i).bindings.length pos))) ∧
     (∀ i pos, s.quote.lookup d.key = some (i, pos) → (s.slot i).bindings = [] → s.StoresWF → i < 256 →
       Answers .removeInstrument s fun t =>
         t = { s with
           quote := { quoteTaken s.quote with slots := t.quote.slots, heads := t.quote.heads }
           rings := outcomeTo s.rings .t .done (ofBytes i b 0 pos) } ∧
         t.slot i = Slot.cleared ∧
         (pos = 0 → (∀ j, j ≠ i → t.slot j = s.slot j) ∧
           ∀ c < 128, t.quote.heads.get headSpec c = if c = b then (s.slot i).link else s.quote.heads.get headSpec c) ∧
         (∀ k before, pos = k + 1 → (s.quote.chain b)[k]? = some before → before ≠ i → before < 256 →
           t.quote.heads = s.quote.heads ∧ t.slot before = { s.slot before with link := (s.slot i).link } ∧
           ∀ j, j ≠ i → j ≠ before → t.slot j = s.slot j))) ∧
  (∀ (q : QuoteEngine) (b : Nat), (q.chain b)[0]? = q.heads.get headSpec b ∧
     ∀ k < 255, (q.chain b)[k + 1]? = (q.chain b)[k]?.bind fun i => (q.slots.get slotSpec i).link) ∧
  (∀ (q : QuoteEngine) (key : Word) (i pos : Nat), q.lookup key = some (i, pos) ↔
     key ≠ 0 ∧ (q.chain (bucketOf key))[pos]? = some i ∧ (q.slots.get slotSpec i).key = key ∧
       ∀ k < pos, ∀ j, (q.chain (bucketOf key))[k]? = some j → (q.slots.get slotSpec j).key ≠ key) ∧
  (∀ b : Nat, (maskOf b = none ↔ b = 0 ∨ 8 ≤ b) ∧ ∀ m, maskOf b = some m →
     (m.a = true ↔ b % 2 = 1) ∧ (m.b = true ↔ b / 2 % 2 = 1) ∧ (m.t = true ↔ b / 4 % 2 = 1))

/-- 1.3: SET_SOURCES. A bad mask and an unknown key refuse it; else the mask is replaced, every field of the list but the
SUSPENDED is sent a plain render, and DONE returns when all are sent. Renders that find no room wait (R47); that the list
of them is fixed when the command is taken is the model's choice (log entry 26). -/
def Obligations.SetSources : Prop :=
  ∀ (s : State) (d : Descriptor) (rest : List QuoteRequest), s.quote.wait = none → s.quote.inbox = .setSources d :: rest →
    let b := bucketOf d.key
    let refused (st : Status) (w : Word) (t : State) : Prop :=
      t = { s with quote := quoteTaken s.quote, rings := outcomeTo s.rings .t st w }
    (maskOf (d.byte 4 0) = none → Answers .setSources s (refused .badForm 0)) ∧
    (∀ mask, maskOf (d.byte 4 0) = some mask → s.quote.lookup d.key = none →
      Answers .setSources s (refused .notFound (ofBytes 0 b 0 0))) ∧
    (∀ mask i pos, maskOf (d.byte 4 0) = some mask → s.quote.lookup d.key = some (i, pos) → Answers .setSources s fun t =>
      let renders : List RenderRequest := (shown s i).map .plain
      let held := s.field.inbox.countP FieldRequest.isRender
      let w := ofBytes i b (s.slot i).bindings.length pos
      t = { s with
        quote := { quoteTaken s.quote with
          slots := s.quote.slots.set slotSpec i { s.slot i with sources := mask }
          wait := if renders.length ≤ 64 - held then none else some ⟨renders.drop (64 - held), .t, .done, w⟩ }
        field := { s.field with inbox := s.field.inbox ++ (renders.take (64 - held)).map .render }
        rings := if renders.length ≤ 64 - held then outcomeTo s.rings .t .done w else s.rings })

/-- 1.4 and 3.4: the three binding requests. A lookup changes nothing in the table and returns NOT_FOUND, BINDINGS_FULL
or the slot; an append puts the field at the tail of the slot's list; a removal takes it out of its list and keeps the
order of the rest. Each result goes to the Field Unit. -/
def Obligations.BindingRequests : Prop :=
  (∀ (s : State) (key : Word) (rest : List QuoteRequest), s.quote.wait = none → s.quote.inbox = .lookup key :: rest →
    Answers .bindingLookup s fun t =>
      t = { s with quote := quoteTaken s.quote, field := { s.field with inbox := s.field.inbox ++ [.lookupResult
        (match s.quote.lookup key with
          | none => .notFound
          | some (i, _) => if 16 ≤ (s.slot i).bindings.length then .full i else .found i)] } }) ∧
  (∀ (s : State) (f i : Nat) (rest : List QuoteRequest), s.quote.wait = none → s.quote.inbox = .append f i :: rest →
    Answers .append s fun t =>
      t = { s with
        quote := { quoteTaken s.quote with
          slots := s.quote.slots.set slotSpec i { s.slot i with bindings := (s.slot i).bindings ++ [f] } }
        field := { s.field with inbox := s.field.inbox ++ [.appendDone f i] } }) ∧
  (∀ (s : State) (f : Nat) (rest : List QuoteRequest), s.quote.wait = none → s.quote.inbox = .removal f :: rest →
    Tab.WF slotSpec s.quote.slots → Answers .removal s fun t =>
      t = { s with
        quote := { quoteTaken s.quote with slots := t.quote.slots }
        field := { s.field with inbox := s.field.inbox ++ [.removalDone f] } } ∧
      ∀ i, t.slot i = { s.slot i with bindings := (s.slot i).bindings.filter fun g => decide (g ≠ f) })

/-! ### Fields, renders and the sweep (Sections 3, 4 and 7) -/

/-- The span write of a render of field `f` at `s` (3.3): the formatter's glyph codes, left to right from the field's
position, each with the selected pen. -/
def Sys2Proof.Statement.renderOf (s : State) (f : Nat) : SpanWrite :=
  let v := s.record f
  let item := (s.slot v.slot).items.get v.item
  ⟨v.row, v.col, (format item v.width v.style s.field.absentGlyph).glyphs.map fun g =>
    ⟨g, selectPen v.style (isStale (s.slot v.slot) s.rings) v.tick item⟩⟩

/-- Does a render of field `f` at `s` overflow its width? -/
def Sys2Proof.Statement.overflows (s : State) (f : Nat) : Bool :=
  let v := s.record f
  (format ((s.slot v.slot).items.get v.item) v.width v.style s.field.absentGlyph).overflow

/-- The ports after a render of field `f` at `s`: an overflow sets OVERFLOW on the Terminal Port (3.6). -/
def Sys2Proof.Statement.portsRendered (s : State) (f : Nat) : PerRing PortUnit :=
  if overflows s f then withCause s.ports .t .overflow else s.ports

/-- The field table after a render of field `f` at `s`: an overflow is counted, up to 255 (3.6). -/
def Sys2Proof.Statement.recordsRendered (s : State) (f : Nat) : Tab FieldRec :=
  let v := s.record f
  if overflows s f then
    s.field.records.set fieldSpec f { v with overflow := if v.overflow < 255 then v.overflow + 1 else v.overflow }
  else s.field.records

/-- What a field event leaves that begins at `s`, its request taken and its records changed, with no Highlight Timer
request outstanding and room for its span writes: `spans` are sent, a text that did not fit is counted and sets OVERFLOW,
and the event ends with `rings` and the records `records`. -/
def Sys2Proof.Statement.Rendered (s t : State) (f : Nat) (spans : List SpanWrite) (rings : PerRing RingUnit) : Prop :=
  t = { s with
    plane := { s.plane with inbox := s.plane.inbox ++ spans.map .span }
    ports := portsRendered s f
    field := { s.field with records := recordsRendered s f }
    rings := rings }

/-- What a field event leaves whose render finds 64 span writes held: its request taken, `rest` behind it, a text that did
not fit counted, and the span write waiting with the event, which goes on as `after` (R49). -/
def Sys2Proof.Statement.RenderWaits (s t : State) (f : Nat) (rest : List FieldRequest) (after : FieldAfter) : Prop :=
  t = { s with
    ports := portsRendered s f
    field := { s.field with inbox := rest, event := some ⟨[renderOf s f], after⟩, records := recordsRendered s f } }

/-- What a field command leaves that ends in a render of `f` at `s`, its request taken and its records changed, with no
Highlight Timer request outstanding: a text that did not fit is counted, and with the span write sent DONE returns with
the result `w`; while 64 span writes are held the write waits with the event, and DONE with it (R49). -/
def Sys2Proof.Statement.RenderedDone (s t : State) (f : Nat) (w : Word) : Prop :=
  let room : Prop := s.plane.inbox.countP PlaneRequest.isSpan < 64
  t = { s with
    plane := if room then { s.plane with inbox := s.plane.inbox ++ [.span (renderOf s f)] } else s.plane
    ports := portsRendered s f
    field := { s.field with
      event := if room then none else some ⟨[renderOf s f], .complete .done w⟩, records := recordsRendered s f }
    rings := if room then outcomeTo s.rings .t .done w else s.rings }

/-- R62: the shifted magnitude, and the largest value it takes. -/
def Obligations.ShiftedMagnitude : Prop :=
  (∀ (i : Item) (p : Nat), i.shifted p =
    if p < i.scale.val then i.value.toInt.natAbs / 10 ^ (i.scale.val - p)
    else if i.scale.val < p then i.value.toInt.natAbs * 10 ^ (p - i.scale.val)
    else i.value.toInt.natAbs) ∧
  (∀ (i : Item) (p : Nat), p ≤ 6 → i.shifted p ≤ 2 ^ 31 * 10 ^ 6) ∧
  (⟨0x80000000, 0⟩ : Item).shifted 6 = 2 ^ 31 * 10 ^ 6 ∧ 2 ^ 31 * 10 ^ 6 < 10 ^ 16 ∧ 10 ^ 16 < 2 ^ 64 ∧
  (⟨10259, 2⟩ : Item).shifted 1 = 1025

/-- 3.6: the formatter gives exactly as many glyph codes as the field is wide, an overflow fill is all '#', and an absent
item shows spaces and the absent glyph without overflow.

3.6: without SQUEEZE, a text that fits is shown whole, right-justified: digits of the shifted magnitude with at least
one before the point, the point when there are places, and the sign. The digits read back as the magnitude.

3.6: with SQUEEZE, a text that does not fit loses fraction digits from the right, and the point with the last of them,
until it fits; the sign and the integer digits stay, and a text that still does not fit is an overflow fill. -/
def Obligations.FormatterText : Prop :=
  ((∀ (i : Option Item) (w : Nat) (st : Style) (a : BitVec 9), 1 ≤ w → (format i w st a).glyphs.length = w) ∧
   (∀ (i : Option Item) (w : Nat) (st : Style) (a : BitVec 9), (format i w st a).overflow = true →
     (format i w st a).glyphs = List.replicate w 35) ∧
   (∀ (w : Nat) (st : Style) (a : BitVec 9), format none w st a = ⟨List.replicate (w - 1) 32 ++ [a], false⟩) ∧
   (∀ (i : Item) (w : Nat) (st : Style) (a : BitVec 9), i.value = 0 → st.blankZero = true →
     format (some i) w st a = ⟨List.replicate w 32, false⟩)) ∧
  (∀ (i : Item) (w : Nat) (st : Style) (a : BitVec 9), ¬(i.value = 0 ∧ st.blankZero = true) → st.squeeze = false →
     let p := st.places.val
     let m := i.shifted p
     let sign : List (BitVec 9) :=
       if i.value.toInt < 0 ∧ m ≠ 0 then [45] else if 0 < i.value.toInt ∧ st.plus = true then [43] else []
     ∃ whole frac : List Nat,
       (∀ d ∈ whole ++ frac, d < 10) ∧ (whole ++ frac).foldl (fun n d => 10 * n + d) 0 = m ∧ frac.length = p ∧
       1 ≤ whole.length ∧ (2 ≤ whole.length → whole.head? ≠ some 0) ∧
       let glyph (d : Nat) : BitVec 9 := BitVec.ofNat 9 (48 + d)
       let text := sign ++ whole.map glyph ++ (if p = 0 then [] else 46 :: frac.map glyph)
       format (some i) w st a =
         if text.length ≤ w then ⟨List.replicate (w - text.length) 32 ++ text, false⟩ else ⟨List.replicate w 35, true⟩) ∧
  (∀ (i : Item) (w : Nat) (st : Style) (a : BitVec 9), ¬(i.value = 0 ∧ st.blankZero = true) → st.squeeze = true →
     let p := st.places.val
     let m := i.shifted p
     let sign : List (BitVec 9) :=
       if i.value.toInt < 0 ∧ m ≠ 0 then [45] else if 0 < i.value.toInt ∧ st.plus = true then [43] else []
     ∃ whole frac : List Nat,
       (∀ d ∈ whole ++ frac, d < 10) ∧ (whole ++ frac).foldl (fun n d => 10 * n + d) 0 = m ∧ frac.length = p ∧
       1 ≤ whole.length ∧ (2 ≤ whole.length → whole.head? ≠ some 0) ∧
       let glyph (d : Nat) : BitVec 9 := BitVec.ofNat 9 (48 + d)
       let text (k : Nat) := sign ++ whole.map glyph ++ (if k = 0 then [] else 46 :: (frac.take k).map glyph)
       (∀ k ≤ p, (text k).length ≤ w → (∀ j ≤ p, k < j → w < (text j).length) →
         format (some i) w st a = ⟨List.replicate (w - (text k).length) 32 ++ text k, false⟩) ∧
       ((∀ k ≤ p, w < (text k).length) → format (some i) w st a = ⟨List.replicate w 35, true⟩))

/-- R71: pen selection by colour rule and staleness; and by R72 a fresh field whose item is absent takes its STEADY pen
whatever the rule, a TICK field with tick UP or DOWN among them. -/
def Obligations.PenSelection : Prop :=
  ∀ (st : Style) (tick : Tick) (i : Option Item),
    selectPen st true tick i = st.stalePen ∧
    (st.rule = .plain → selectPen st false tick i = st.steadyPen) ∧
    selectPen st false tick none = st.steadyPen ∧
    (∀ v : Item, st.rule = .tick → selectPen st false tick (some v) =
      match tick with
      | .up => st.upPen
      | .down => st.downPen
      | .steady => st.steadyPen) ∧
    (st.rule = .sign → selectPen st false tick none = st.steadyPen ∧
      ∀ v : Item, selectPen st false tick (some v) =
        if 0 < v.value.toInt then st.upPen else if v.value.toInt < 0 then st.downPen else st.steadyPen)

/-- The state after a tick is set by an event that asks the Highlight Timer for `q`: the front request taken, the tick of
`f` set, the request sent. -/
def Sys2Proof.Statement.ticked (s : State) (f : Nat) (tick : Tick) (q : HighlightRequest) : State :=
  { s with
    field := { fieldTaken s.field with records := s.field.records.set fieldSpec f { s.record f with tick := tick } }
    highlight := { s.highlight with requests := s.highlight.requests ++ [q] } }

/-- 3.3, 4.1 and 4.5: the renders that change a tick. A reset render and the expiry of an EXPIRED entry set it to NONE and
ask for removal; a tick render of a TICK field in RUNNING sets it by the comparison of the two values and asks for an
arm or a removal; outside RUNNING it is NONE. The span write is then sent from the record with the new tick, or waits with
the event while 64 span writes are held (R49). The event goes on until the Highlight Timer has taken the request, which is
the model's reading of R75 (log entry 18). -/
def Obligations.TickChangingRenders : Prop :=
  ∀ (s : State) (f : Nat) (rest : List FieldRequest), s.field.event = none → s.field.records.WF fieldSpec → f < 512 →
    (s.record f).state = .bound →
    let room : Prop := s.plane.inbox.countP PlaneRequest.isSpan < 64
    let sends (tick : Tick) (q : HighlightRequest) (t : State) : Prop :=
      let u := ticked s f tick q
      t = { u with
        plane := if room then { s.plane with inbox := s.plane.inbox ++ [.span (renderOf u f)] } else s.plane
        ports := portsRendered u f
        field := { s.field with
          inbox := rest, event := some ⟨if room then [] else [renderOf u f], .nothing⟩,
          records := recordsRendered u f } } ∧
      (t.record f).tick = tick ∧ ∀ g, g ≠ f → t.record g = s.record g
    (s.field.inbox = .render (.reset f) :: rest → Answers .resetRender s (sends .steady (.remove f))) ∧
    (∀ e, s.field.inbox = .expiry f :: rest → s.highlight.entry f = some e → e.expired = true →
      Answers .expiry s (sends .steady (.remove f))) ∧
    (∀ e, s.field.inbox = .expiry f :: rest → s.highlight.entry f = some e → e.expired = false →
      exec .expiry s = .next { s with field := fieldTaken s.field }) ∧
    (∀ old new, s.field.inbox = .render (.tick f old new) :: rest → (s.record f).style.rule = .tick →
      (s.control.device ≠ .running → Answers .tickRender s (sends .steady (.remove f))) ∧
      (s.control.device = .running → old = none → Answers .tickRender s (sends .steady (.remove f))) ∧
      (∀ v, s.control.device = .running → old = some v → v < new →
        Answers .tickRender s (sends .up (.arm f (s.record f).style.hold))) ∧
      (∀ v, s.control.device = .running → old = some v → new < v →
        Answers .tickRender s (sends .down (.arm f (s.record f).style.hold)))) ∧
    (∀ old new, s.field.inbox = .render (.tick f old new) :: rest → s.highlight.requests = [] →
      (s.record f).style.rule ≠ .tick ∨ (s.control.device = .running ∧ old = some new) → Answers .tickRender s fun t =>
        (room → Rendered { s with field := fieldTaken s.field } t f [renderOf s f] s.rings) ∧
        (¬room → RenderWaits s t f rest .nothing))

/-- 3.3 and 7.2: the plain renders. PLAIN_RENDER of a BOUND field sends its one span write, or keeps it with the event
while 64 are held, and leaves the tick; EXPIRY of a BOUND field with no highlight entry does the same; each is discarded
for a field that is not BOUND.

3.3: a render request for a field that is not BOUND is discarded: no span write, no change of a record. -/
def Obligations.PlainAndDiscardedRenders : Prop :=
  (∀ (s : State) (f : Nat) (rest : List FieldRequest), s.field.event = none →
     (s.field.inbox = .render (.plain f) :: rest →
       ((s.record f).state = .bound → s.highlight.requests = [] → s.plane.inbox.countP PlaneRequest.isSpan < 64 →
         Answers .plainRender s fun t =>
           Rendered { s with field := fieldTaken s.field } t f [renderOf s f] s.rings) ∧
       ((s.record f).state = .bound → s.highlight.requests = [] → 64 ≤ s.plane.inbox.countP PlaneRequest.isSpan →
         Answers .plainRender s fun t => RenderWaits s t f rest .nothing) ∧
       ((s.record f).state ≠ .bound → exec .plainRender s = .next { s with field := fieldTaken s.field })) ∧
     (s.field.inbox = .expiry f :: rest →
       ((s.record f).state = .bound → s.highlight.entry f = none → s.highlight.requests = [] →
         s.plane.inbox.countP PlaneRequest.isSpan < 64 → Answers .expiry s fun t =>
           Rendered { s with field := fieldTaken s.field } t f [renderOf s f] s.rings) ∧
       ((s.record f).state = .bound → s.highlight.entry f = none → s.highlight.requests = [] →
         64 ≤ s.plane.inbox.countP PlaneRequest.isSpan → Answers .expiry s fun t =>
           RenderWaits s t f rest .nothing) ∧
       ((s.record f).state ≠ .bound → exec .expiry s = .next { s with field := fieldTaken s.field }))) ∧
  (∀ (s : State) (f : Nat) (rest : List FieldRequest), s.field.event = none → (s.record f).state ≠ .bound →
     (s.field.inbox = .render (.reset f) :: rest →
       exec .resetRender s = .next { s with field := fieldTaken s.field }) ∧
     (∀ old new, s.field.inbox = .render (.tick f old new) :: rest →
       exec .tickRender s = .next { s with field := fieldTaken s.field }))

/-- What the end of a pass leaves (R128, step 3): of the sweep `w`, its last render counted, and the requests `inbox`. A
REPAINT that waits for the pass returns the rendered count; with a rerun pending the next pass begins at position 0 with
its step request outstanding, and else the sweep is IDLE. -/
def Sys2Proof.Statement.PassEnded (s t : State) (w : Sweep) (inbox : List FieldRequest) : Prop :=
  t.rings = (match w.repaint with
    | .thisPass rr => outcomeTo s.rings .t .done (ofBytes (w.rendered % 256) (w.rendered / 256) 0 (if rr then 1 else 0))
    | .none => s.rings
    | .nextPass => s.rings) ∧
  (w.rerun = true → t.field.inbox = inbox ++ (if w.stepOut then [] else [.step]) ∧ t.field.sweep = { w with
    stepOut := true, rerun := false, position := 0, rendered := 0,
    repaint := if w.repaint = .nextPass then .thisPass true else .none }) ∧
  (w.rerun = false → w.repaint ≠ .nextPass → t.field.inbox = inbox ∧ t.field.sweep = { w with
    active := false, position := 0, rendered := 0, repaint := .none })

/-- 3.3: a Quote Engine event that waits on a full render queue sends its next render request once fewer than 64 are held,
and returns its outcome with the last; while 64 are held it goes on waiting.

3.3: a Field Unit event that waits on a full span-write queue sends its next span write once fewer than 64 are held;
with the last one sent the event ends, by returning its outcome, by freeing the record and returning it, or by going on
with the sweep, to the next position or at 511 to the end of the pass (R128). While 64 are held it goes on waiting. That
the event ends only when the Highlight Timer has taken its request is the model's reading of R75 (log entry 18). A move
that waits for its blanking write goes on as MoveField states.

R47 and R49: while its event waits, each of the two units takes no other request. That a command so held back answers the
state it was given is the model's form of it (log entry 1). -/
def Obligations.RoomSendsNextRequest : Prop :=
  (∀ (s : State) (q : RenderRequest) (more : List RenderRequest) (r : RingId) (st : Status) (w : Word),
     s.quote.wait = some ⟨q :: more, r, st, w⟩ →
     (s.field.inbox.countP FieldRequest.isRender < 64 → Answers .renderQueueRoom s fun t =>
       t = { s with
         field := { s.field with inbox := s.field.inbox ++ [.render q] }
         quote := { s.quote with wait := if more = [] then none else some ⟨more, r, st, w⟩ }
         rings := if more = [] then outcomeTo s.rings r st w else s.rings }) ∧
     (64 ≤ s.field.inbox.countP FieldRequest.isRender → exec .renderQueueRoom s = .next s)) ∧
  (∀ (s : State) (w : SpanWrite) (more : List SpanWrite) (after : FieldAfter), s.field.event = some ⟨w :: more, after⟩ →
     (s.plane.inbox.countP PlaneRequest.isSpan < 64 →
       (more ≠ [] ∨ (s.highlight.requests ≠ [] ∧ ∀ m, after ≠ .moveTo m)) → Answers .spanQueueRoom s fun t =>
         t = { s with plane := { s.plane with inbox := s.plane.inbox ++ [.span w] },
                      field := { s.field with event := some ⟨more, after⟩ } }) ∧
     (s.plane.inbox.countP PlaneRequest.isSpan < 64 → more = [] → s.highlight.requests = [] → after = .nothing →
       Answers .spanQueueRoom s fun t =>
         t = { s with plane := { s.plane with inbox := s.plane.inbox ++ [.span w] },
                      field := { s.field with event := none } }) ∧
     (∀ st r, s.plane.inbox.countP PlaneRequest.isSpan < 64 → more = [] → s.highlight.requests = [] →
       after = .complete st r → Answers .spanQueueRoom s fun t =>
         t = { s with plane := { s.plane with inbox := s.plane.inbox ++ [.span w] },
                      field := { s.field with event := none },
                      rings := outcomeTo s.rings .t st r }) ∧
     (∀ f r, s.plane.inbox.countP PlaneRequest.isSpan < 64 → more = [] → s.highlight.requests = [] →
       after = .freeAndComplete f r → Answers .spanQueueRoom s fun t =>
         t = { s with plane := { s.plane with inbox := s.plane.inbox ++ [.span w] },
                      field := { s.field with
                        event := none, records := s.field.records.set fieldSpec f FieldRec.cleared },
                      rings := outcomeTo s.rings .t .done r }) ∧
     (∀ b, s.plane.inbox.countP PlaneRequest.isSpan < 64 → more = [] → s.highlight.requests = [] →
       after = .sweepAdvance b → s.field.sweep.active = false ∨ s.field.sweep.position < 511 →
       Answers .spanQueueRoom s fun t =>
         t = { s with
           plane := { s.plane with inbox := s.plane.inbox ++ [.span w] }
           field := if s.field.sweep.active then { s.field with
               event := none
               inbox := if s.field.sweep.stepOut then s.field.inbox else s.field.inbox ++ [.step]
               sweep := { s.field.sweep with
                 stepOut := true, position := s.field.sweep.position + 1,
                 rendered := if b then s.field.sweep.rendered + 1 else s.field.sweep.rendered } }
             else { s.field with event := none } }) ∧
     (∀ b, s.plane.inbox.countP PlaneRequest.isSpan < 64 → more = [] → s.highlight.requests = [] →
       after = .sweepAdvance b → s.field.sweep.active = true → s.field.sweep.position = 511 →
       Answers .spanQueueRoom s fun t =>
         t = { s with
           plane := { s.plane with inbox := s.plane.inbox ++ [.span w] }
           field := { s.field with event := none, inbox := t.field.inbox, sweep := t.field.sweep }
           rings := t.rings } ∧
         PassEnded s t { s.field.sweep with
           rendered := if b then s.field.sweep.rendered + 1 else s.field.sweep.rendered } s.field.inbox) ∧
     (64 ≤ s.plane.inbox.countP PlaneRequest.isSpan → exec .spanQueueRoom s = .next s)) ∧
  (∀ s : State, s.quote.wait ≠ none →
     ∀ c ∈ [Instr.update, .snapshot, .condition, .defineInstrument, .removeInstrument, .setSources, .bindingLookup,
       .append, .removal], exec c s = .next s) ∧
  (∀ s : State, s.field.event ≠ none →
     ∀ c ∈ [Instr.plainRender, .tickRender, .resetRender, .bindField, .lookupResult, .appendCompletion, .unbindField,
       .removalCompletion, .moveField, .styleField, .setPen, .expiry, .sweepTrigger, .sweepStep, .repaint],
       exec c s = .next s)

/-- What a field command leaves that ends with an outcome and no span write, the Highlight Timer having no request
outstanding: its request taken, the outcome returned to Ring T. -/
def Sys2Proof.Statement.EndedWith (s t : State) (st : Status) (w : Word) : Prop :=
  t = { s with field := fieldTaken s.field, rings := outcomeTo s.rings .t st w }

/-- 3.4: BIND_FIELD. The checks in their order, each with its result word; when they pass the field stays FREE and a
binding lookup goes to the Quote Engine.

3.4, check 1 of BIND_FIELD and of STYLE_FIELD, by the bytes of the descriptor, and the bytes of the result word of every
field command (R50). -/
def Obligations.BindFieldChecks : Prop :=
  (∀ (s : State) (d : Descriptor) (rest : List FieldRequest), s.field.event = none → s.field.inbox = .bind d :: rest →
     s.highlight.requests = [] →
     let f := d.half 4 0
     let v := s.record f
     (512 ≤ f → Answers .bindField s fun t => EndedWith s t .badForm 0) ∧
     (f < 512 → d.bindForm = none → Answers .bindField s fun t => EndedWith s t .badForm (fieldResult f v.slot v.state)) ∧
     (f < 512 → d.bindForm.isSome = true → v.state ≠ .free →
       Answers .bindField s fun t => EndedWith s t .fieldInUse (fieldResult f v.slot v.state)) ∧
     (f < 512 → d.bindForm.isSome = true → v.state = .free → Answers .bindField s fun t =>
       t = { s with
         field := { fieldTaken s.field with command := some d }
         quote := { s.quote with inbox := s.quote.inbox ++ [.lookup d.key] } })) ∧
  (∀ d : Descriptor,
     let styleGood : Prop := d.byte 5 2 ≤ 6 ∧ d.byte 5 3 ≤ 2 ∧ d.byte 6 0 ≤ 3 ∧ d.byte 7 0 ≤ 31 ∧ d.byte 7 1 ≤ 31 ∧
       d.byte 7 2 ≤ 31 ∧ d.byte 7 3 ≤ 31 ∧ d.byte 6 1 ≤ 7
     (d.style.isSome = true ↔ styleGood) ∧
     (d.bindForm.isSome = true ↔ styleGood ∧ d.byte 4 2 ≤ 7 ∧ 1 ≤ d.byte 4 3 ∧ d.byte 4 3 ≤ 20) ∧
     (∀ item st, d.bindForm = some (item, st) → item.val = d.byte 4 2 ∧ d.style = some st) ∧
     (∀ st, d.style = some st → st.places.val = d.byte 5 2 ∧ st.hold.val = d.byte 6 0 ∧
       (st.rule = .plain ↔ d.byte 5 3 = 0) ∧ (st.rule = .sign ↔ d.byte 5 3 = 1) ∧ (st.rule = .tick ↔ d.byte 5 3 = 2) ∧
       st.steadyPen.toNat = d.byte 7 0 ∧ st.upPen.toNat = d.byte 7 1 ∧ st.downPen.toNat = d.byte 7 2 ∧
       st.stalePen.toNat = d.byte 7 3 ∧ (st.plus = true ↔ d.byte 6 1 % 2 = 1) ∧
       (st.blankZero = true ↔ d.byte 6 1 / 2 % 2 = 1) ∧ (st.squeeze = true ↔ d.byte 6 1 / 4 % 2 = 1))) ∧
  (∀ (f slot : Nat) (st : FieldState), f < 512 → slot < 256 →
     byteOf (fieldResult f slot st) 0 = f % 256 ∧ byteOf (fieldResult f slot st) 1 = f / 256 ∧
     byteOf (fieldResult f slot st) 2 = slot ∧
     byteOf (fieldResult f slot st) 3 = match st with
       | .free => 0
       | .bound => 1
       | .suspended => 2)

/-- 3.4: the lookup's result, taken for the BIND_FIELD in progress: refusals with the slot the key found, or the append
request. The span lies within the geometry and meets no occupied cell exactly when the append is sent.

3.4: the append's completion makes the field BOUND, with the slot, item, position, width and style of the command,
tick NONE and overflow count 0, enters its span in the occupancy map, renders it, and returns DONE. While 64 span writes
are held the render's write waits, and DONE with it (R49). -/
def Obligations.BindingCompletes : Prop :=
  (∀ (s : State) (d : Descriptor) (l : LookupResult) (rest : List FieldRequest), s.field.event = none →
     s.field.inbox = .lookupResult l :: rest → s.field.command = some d → s.highlight.requests = [] →
     let f := d.half 4 0
     let row := d.byte 5 0
     let col := d.byte 5 1
     let width := d.byte 4 3
     let fits : Prop := row < s.rows ∧ col < s.columns ∧ col + width ≤ s.columns
     let clear : Prop := ∀ i < width, s.field.occupancy.get occSpec (row * s.columns + (col + i)) = none
     let ended (st : Status) (w : Word) (t : State) : Prop :=
       t = { s with field := { fieldTaken s.field with command := none }, rings := outcomeTo s.rings .t st w }
     (l = .notFound → Answers .lookupResult s (ended .notFound (fieldResult f 0 .free))) ∧
     (∀ i, l = .full i → Answers .lookupResult s (ended .bindingsFull (fieldResult f i .free))) ∧
     (∀ i, l = .found i → ¬fits → Answers .lookupResult s (ended .outOfRange (fieldResult f i (s.record f).state))) ∧
     (∀ i, l = .found i → fits → ¬clear → Answers .lookupResult s (ended .overlap (fieldResult f i (s.record f).state))) ∧
     (∀ i, l = .found i → fits → clear → Answers .lookupResult s fun t =>
       t = { s with field := fieldTaken s.field, quote := { s.quote with inbox := s.quote.inbox ++ [.append f i] } })) ∧
  (∀ (s : State) (d : Descriptor) (slot : Nat) (rest : List FieldRequest) (item : Fin 8) (st : Style),
     s.field.event = none → s.field.inbox = .appendDone (d.half 4 0) slot :: rest → s.field.command = some d →
     s.highlight.requests = [] → d.bindForm = some (item, st) →
     d.half 4 0 < 512 → s.StoresWF → Answers .appendCompletion s fun t =>
       let f := d.half 4 0
       let v : FieldRec := ⟨.bound, slot, item, d.byte 5 0, d.byte 5 1, d.byte 4 3, st, .steady, 0⟩
       RenderedDone { s with field := { s.field with
         inbox := rest, command := none, records := s.field.records.set fieldSpec f v, occupancy := t.field.occupancy } }
         t f (fieldResult f slot .bound) ∧
       (t.record f = v ∨ t.record f = { v with overflow := 1 }) ∧ (∀ g, g ≠ f → t.record g = s.record g) ∧
       (∀ n < 6144, t.field.occupancy.get occSpec n =
         if ∃ i < d.byte 4 3, n = d.byte 5 0 * s.columns + (d.byte 5 1 + i) then some f
         else s.field.occupancy.get occSpec n))

/-- 3.4: UNBIND_FIELD. The checks; a BOUND or SUSPENDED field keeps its record while a removal request goes to the Quote
Engine.

3.4: the removal's completion. The span of a BOUND field leaves the occupancy map, the removal of its highlight entry
is asked for, the span is blanked when the command asks for it, or its blanking write waits while 64 span writes are held
(R49), and the event goes on; once the write is sent and the Highlight Timer has taken the request the record is FREE with
the cleared contents and DONE returns. The slot in the result word is the model's
reading (log entry 8), and so is that the event waits for the Highlight Timer (log entry 18). -/
def Obligations.UnbindFieldAndRemoval : Prop :=
  (∀ (s : State) (d : Descriptor) (rest : List FieldRequest), s.field.event = none → s.field.inbox = .unbind d :: rest →
     s.highlight.requests = [] →
     let f := d.half 4 0
     (512 ≤ f → Answers .unbindField s fun t => EndedWith s t .badForm 0) ∧
     (f < 512 → (s.record f).state = .free → Answers .unbindField s fun t => EndedWith s t .notBound (fieldResult f 0 .free)) ∧
     (f < 512 → (s.record f).state ≠ .free → Answers .unbindField s fun t =>
       t = { s with
         field := { fieldTaken s.field with command := some d }
         quote := { s.quote with inbox := s.quote.inbox ++ [.removal f] } })) ∧
  ((∀ (s : State) (d : Descriptor) (f : Nat) (rest : List FieldRequest), s.field.event = none →
     s.field.inbox = .removalDone f :: rest → s.field.command = some d → s.StoresWF →
     Answers .removalCompletion s fun t =>
       let v := s.record f
       let blanks : Prop := v.state = .bound ∧ d.byte 4 2 ≠ 0
       let room : Prop := s.plane.inbox.countP PlaneRequest.isSpan < 64
       let blank : SpanWrite := ⟨v.row, v.col, List.replicate v.width (cellOf (d.half 8 0))⟩
       t = { s with
         plane := if blanks ∧ room then { s.plane with inbox := s.plane.inbox ++ [.span blank] } else s.plane
         highlight := { s.highlight with requests := s.highlight.requests ++ [.remove f] }
         field := { fieldTaken s.field with
           command := none, occupancy := t.field.occupancy,
           event := some ⟨if blanks ∧ ¬room then [blank] else [], .freeAndComplete f (fieldResult f v.slot .free)⟩ } } ∧
       (∀ n < 6144, t.field.occupancy.get occSpec n =
         if v.state = .bound ∧ ∃ i < v.width, n = v.row * s.columns + (v.col + i) then none
         else s.field.occupancy.get occSpec n)) ∧
   (∀ (s : State) (f g : Nat) (w : Word), s.field.event = some ⟨[], .freeAndComplete f w⟩ →
     s.highlight.requests = [.remove g] → Answers .removeRequest s fun t =>
       t = { s with
         field := { s.field with event := none, records := s.field.records.set fieldSpec f FieldRec.cleared }
         rings := outcomeTo s.rings .t .done w
         highlight := { s.highlight with
           requests := [], queue := s.highlight.queue.filter fun e => decide (e.field ≠ g) } }))

/-- What a move leaves of `s`, where the old span has been cleared and its blanking write sent (R58): the field is BOUND at
its new place with item, style, tick and slot kept, its new span is entered, and it is rendered there. DONE returns with
the render's span write sent; while 64 are held the write waits (R49). -/
def Sys2Proof.Statement.MoveMade (s t : State) (m : FieldMove) : Prop :=
  let f := m.field
  let v := s.record f
  let moved : FieldRec := { v with state := .bound, row := m.row, col := m.col, width := m.width }
  RenderedDone { s with field := { s.field with
    records := s.field.records.set fieldSpec f moved, occupancy := t.field.occupancy } } t f (fieldResult f v.slot .bound) ∧
  t.record f = { moved with overflow := (t.record f).overflow } ∧ (∀ g, g ≠ f → t.record g = s.record g) ∧
  (∀ n < 6144, t.field.occupancy.get occSpec n =
    if ∃ i < m.width, n = m.row * s.columns + (m.col + i) then some f else s.field.occupancy.get occSpec n)

/-- 3.5: MOVE_FIELD. The checks with their result words; a move that passes them takes the old span of a BOUND field out
of the map and sends its blanking write, and then makes the move; a SUSPENDED field is moved at once. With 64 span writes
held the move waits for its blanking write: the old span is out of the map, and the record is as it was until
SPAN_QUEUE_ROOM has sent the write and makes the move (R49, R58). -/
def Obligations.MoveField : Prop :=
  (∀ (s : State) (d : Descriptor) (rest : List FieldRequest), s.field.event = none → s.field.inbox = .move d :: rest →
    s.highlight.requests = [] →
    let f := d.half 4 0
    let v := s.record f
    let row := d.byte 5 0
    let col := d.byte 5 1
    let width := d.byte 4 3
    let fits : Prop := 1 ≤ width ∧ width ≤ 20 ∧ row < s.rows ∧ col < s.columns ∧ col + width ≤ s.columns
    let free : Prop := ∀ i < width, ∀ g, s.field.occupancy.get occSpec (row * s.columns + (col + i)) = some g → g = f
    let blank : SpanWrite := ⟨v.row, v.col, List.replicate v.width (cellOf (d.half 8 0))⟩
    let cleared (occ : Tab (Option Nat)) : Prop := occ.WF occSpec ∧ ∀ n < 6144, occ.get occSpec n =
      if ∃ i < v.width, n = v.row * s.columns + (v.col + i) then none else s.field.occupancy.get occSpec n
    (512 ≤ f → Answers .moveField s fun t => EndedWith s t .badForm 0) ∧
    (f < 512 → v.state = .free → Answers .moveField s fun t => EndedWith s t .notBound (fieldResult f 0 .free)) ∧
    (f < 512 → v.state ≠ .free → ¬fits →
      Answers .moveField s fun t => EndedWith s t .outOfRange (fieldResult f v.slot v.state)) ∧
    (f < 512 → v.state ≠ .free → fits → ¬free →
      Answers .moveField s fun t => EndedWith s t .overlap (fieldResult f v.slot v.state)) ∧
    (f < 512 → v.state = .suspended → fits → free → s.StoresWF → Answers .moveField s fun t =>
      MoveMade { s with field := fieldTaken s.field } t ⟨f, row, col, width⟩) ∧
    (f < 512 → v.state = .bound → fits → free → s.StoresWF → s.plane.inbox.countP PlaneRequest.isSpan < 64 →
      Answers .moveField s fun t => ∃ occ, cleared occ ∧
        MoveMade { s with
          plane := { s.plane with inbox := s.plane.inbox ++ [.span blank] }
          field := { fieldTaken s.field with occupancy := occ } } t ⟨f, row, col, width⟩) ∧
    (f < 512 → v.state = .bound → fits → free → s.StoresWF → 64 ≤ s.plane.inbox.countP PlaneRequest.isSpan →
      Answers .moveField s fun t => cleared t.field.occupancy ∧
        t = { s with field := { fieldTaken s.field with
          occupancy := t.field.occupancy, event := some ⟨[blank], .moveTo ⟨f, row, col, width⟩⟩ } })) ∧
  (∀ (s : State) (w : SpanWrite) (m : FieldMove), s.field.event = some ⟨[w], .moveTo m⟩ → m.field < 512 →
    s.highlight.requests = [] → s.StoresWF → s.plane.inbox.countP PlaneRequest.isSpan < 64 →
    Answers .spanQueueRoom s fun t =>
      MoveMade { s with
        plane := { s.plane with inbox := s.plane.inbox ++ [.span w] }
        field := { s.field with event := none } } t m)

/-- 3.5: STYLE_FIELD. The checks; then the new style is stored. When TICK is taken away or the hold class changes the tick
becomes NONE and removal of the highlight entry is asked for, else both are kept; a BOUND field is rendered and DONE
returns. While 64 span writes are held the render's write waits, and DONE with it (R49). In the last clause the highlight
entry ends, and DONE returns once the write is sent and the Highlight Timer has taken the request, which is the model's
reading of R75 (log entry 18). -/
def Obligations.StyleField : Prop :=
  ∀ (s : State) (d : Descriptor) (rest : List FieldRequest), s.field.event = none → s.field.inbox = .style d :: rest →
    s.highlight.requests = [] → s.StoresWF →
    let f := d.half 4 0
    let v := s.record f
    let room : Prop := s.plane.inbox.countP PlaneRequest.isSpan < 64
    let ends (st : Style) : Prop := (v.style.rule = .tick ∧ st.rule ≠ .tick) ∨ st.hold ≠ v.style.hold
    (512 ≤ f → Answers .styleField s fun t => EndedWith s t .badForm 0) ∧
    (f < 512 → v.state = .free → Answers .styleField s fun t => EndedWith s t .notBound (fieldResult f 0 .free)) ∧
    (f < 512 → v.state ≠ .free → d.style = none →
      Answers .styleField s fun t => EndedWith s t .badForm (fieldResult f v.slot v.state)) ∧
    (∀ st, f < 512 → v.state ≠ .free → d.style = some st → ¬ends st → Answers .styleField s fun t =>
      let styled : FieldRec := { v with style := st }
      let u : State := { s with field := { s.field with
        inbox := rest, records := s.field.records.set fieldSpec f styled } }
      (v.state = .bound → RenderedDone u t f (fieldResult f v.slot v.state)) ∧
      (v.state ≠ .bound → t = { u with rings := outcomeTo s.rings .t .done (fieldResult f v.slot v.state) }) ∧
      t.record f = { styled with overflow := (t.record f).overflow } ∧ ∀ g, g ≠ f → t.record g = s.record g) ∧
    (∀ st, f < 512 → v.state ≠ .free → d.style = some st → ends st → Answers .styleField s fun t =>
      let styled : FieldRec := { v with style := st, tick := .steady }
      let u : State := { s with field := { s.field with records := s.field.records.set fieldSpec f styled } }
      t = { s with
        plane := if v.state = .bound ∧ room then { s.plane with inbox := s.plane.inbox ++ [.span (renderOf u f)] }
          else s.plane
        ports := if v.state = .bound then portsRendered u f else s.ports
        field := { s.field with
          inbox := rest
          event := some
            ⟨if v.state = .bound ∧ ¬room then [renderOf u f] else [], .complete .done (fieldResult f v.slot v.state)⟩
          records := t.field.records }
        highlight := { s.highlight with requests := [.remove f] } } ∧
      t.record f = { styled with overflow := (t.record f).overflow } ∧ ∀ g, g ≠ f → t.record g = s.record g)

/-- 7.2: SWEEP_TRIGGER by the device state and the sweep state, with the step request of an idle sweep.

7.2: SWEEP_STEP. With the sweep IDLE it ends; at a field that is not BOUND it passes over, and at a BOUND one it
renders it and counts it; then it goes on to the next field, or at field 511 ends the pass. While 64 span writes are held a
step that renders waits with its write, and goes on when that is sent (R49, RoomSendsNextRequest).

7.3: REPAINT. In RUNNING it is a sweep trigger and waits for the pass it starts, or for the rerun when a pass is under
way; outside RUNNING it completes at once with the ending "not run". -/
def Obligations.SweepAndRepaint : Prop :=
  (∀ (s : State) (rest : List FieldRequest), s.field.event = none → s.field.inbox = .trigger :: rest →
     let w := s.field.sweep
     (s.control.device = .running → w.active = false → Answers .sweepTrigger s fun t =>
       t = { s with field := { s.field with
         inbox := rest ++ (if w.stepOut then [] else [.step])
         sweep := { w with active := true, position := 0, rendered := 0, stepOut := true } } }) ∧
     (s.control.device = .running → w.active = true → Answers .sweepTrigger s fun t =>
       t = { s with field := { s.field with inbox := rest, sweep := { w with rerun := true } } }) ∧
     (s.control.device ≠ .running → exec .sweepTrigger s = .next { s with field := fieldTaken s.field })) ∧
  (∀ (s : State) (rest : List FieldRequest), s.field.event = none → s.field.inbox = .step :: rest →
     s.highlight.requests = [] →
     let w := s.field.sweep
     let renders : Prop := (s.record w.position).state = .bound
     let room : Prop := s.plane.inbox.countP PlaneRequest.isSpan < 64
     (w.active = false → Answers .sweepStep s fun t =>
       t = { s with field := { s.field with inbox := rest, sweep := { w with stepOut := false } } }) ∧
     (w.active = true → ¬renders → w.position < 511 → Answers .sweepStep s fun t =>
       t = { s with field := { s.field with
         inbox := rest ++ [.step], sweep := { w with stepOut := true, position := w.position + 1 } } }) ∧
     (w.active = true → renders → ¬room → Answers .sweepStep s fun t =>
       RenderWaits { s with field := { s.field with sweep := { w with stepOut := false } } } t w.position rest
         (.sweepAdvance true)) ∧
     (w.active = true → renders → room → w.position < 511 → Answers .sweepStep s fun t =>
       t = { s with
         plane := { s.plane with inbox := s.plane.inbox ++ [.span (renderOf s w.position)] }
         ports := portsRendered s w.position
         field := { s.field with
           inbox := rest ++ [.step]
           records := recordsRendered s w.position
           sweep := { w with stepOut := true, position := w.position + 1, rendered := w.rendered + 1 } } }) ∧
     (w.active = true → w.position = 511 → (renders → room) → Answers .sweepStep s fun t =>
       let n := if renders then w.rendered + 1 else w.rendered
       t = { s with
         plane := if renders then { s.plane with inbox := s.plane.inbox ++ [.span (renderOf s w.position)] } else s.plane
         ports := if renders then portsRendered s w.position else s.ports
         field := { s.field with
           inbox := t.field.inbox, sweep := t.field.sweep,
           records := if renders then recordsRendered s w.position else s.field.records }
         rings := t.rings } ∧
       PassEnded s t { w with stepOut := false, rendered := n } rest)) ∧
  (∀ (s : State) (rest : List FieldRequest), s.field.event = none → s.field.inbox = .repaint :: rest →
     let w := s.field.sweep
     (s.control.device = .running → w.active = false → Answers .repaint s fun t =>
       t = { s with field := { s.field with
         inbox := rest ++ (if w.stepOut then [] else [.step])
         sweep := { w with active := true, position := 0, rendered := 0, stepOut := true, repaint := .thisPass false } } }) ∧
     (s.control.device = .running → w.active = true → Answers .repaint s fun t =>
       t = { s with field := { s.field with inbox := rest, sweep := { w with rerun := true, repaint := .nextPass } } }) ∧
     (s.control.device ≠ .running → Answers .repaint s fun t => EndedWith s t .done (ofBytes 0 0 2 0)))

/-! ### The Highlight Timer (4.5) -/

/-- What an arm or remove request taken by the Highlight Timer leaves beside its queue, `rest` the requests behind it. While
the event under way waits for a span write or for another request, or with no event under way, nothing else changes; else
the event ends: one that completes nothing is gone, one that completes a command returns its outcome to Ring T, and the
end of UNBIND_FIELD frees the record first (R49, R56, R59, R75). -/
def Sys2Proof.Statement.EventEnds (s t : State) (rest : List HighlightRequest) : Prop :=
  (s.field.event = none ∨ rest ≠ [] → t = { s with highlight := t.highlight }) ∧
  (∀ w more after, s.field.event = some ⟨w :: more, after⟩ → t = { s with highlight := t.highlight }) ∧
  (s.field.event = some ⟨[], .nothing⟩ → rest = [] →
    t = { s with highlight := t.highlight, field := { s.field with event := none } }) ∧
  (∀ st w, s.field.event = some ⟨[], .complete st w⟩ → rest = [] → t = { s with
    highlight := t.highlight, field := { s.field with event := none }, rings := outcomeTo s.rings .t st w }) ∧
  (∀ f w, s.field.event = some ⟨[], .freeAndComplete f w⟩ → rest = [] → t = { s with
    highlight := t.highlight
    field := { s.field with event := none, records := s.field.records.set fieldSpec f FieldRec.cleared }
    rings := outcomeTo s.rings .t .done w })

/-- 4.5: an arm request. The field's old entry goes; a hold duration of 0 inserts none; else a WAITING entry with the
current frame plus the duration stands after every EXPIRED entry and every WAITING entry with as few frames left or
fewer, and before the rest, the others keeping their order.

4.5: a remove request takes the field's entry out of the queue and keeps the others in their order.

A Field Unit event under way ends when it waited for nothing more than the request, as EventEnds states; that it waits for
the Highlight Timer is the model's reading of R75 (log entry 18).

4.5: a frame event at the Highlight Timer. In RUNNING the EXPIRED entries stay, the WAITING entries from the front that
are due at the number the event carries become EXPIRED in place and their expiries are sent in that order, and the rest
is untouched; outside RUNNING the queue is left as it is. The number is the one the timer works from afterwards. -/
def Obligations.HighlightQueue : Prop :=
  (∀ (s : State) (f : Nat) (hold : Fin 4) (rest : List HighlightRequest), s.highlight.requests = .arm f hold :: rest →
     Answers .armRequest s fun t =>
       let d := s.highlight.holds.get hold
       let others := s.highlight.queue.filter fun e => decide (e.field ≠ f)
       let early (e : HighlightEntry) : Bool := e.expired || decide ((e.expiry - s.highlight.frame).toNat ≤ d)
       t.highlight = { s.highlight with requests := rest, queue := t.highlight.queue } ∧
       (d = 0 → t.highlight.queue = others) ∧
       (d ≠ 0 → ∃ front back, others = front ++ back ∧ (∀ e ∈ front, early e = true) ∧ (∀ e, back.head? = some e → early e = false) ∧
         t.highlight.queue = front ++ ⟨f, s.highlight.frame + BitVec.ofNat 16 d, false⟩ :: back) ∧
       t.quote = s.quote ∧ t.plane = s.plane ∧ t.video = s.video ∧ t.control = s.control ∧ t.ports = s.ports ∧
       t.memory = s.memory ∧ EventEnds s t rest) ∧
  (∀ (s : State) (f : Nat) (rest : List HighlightRequest), s.highlight.requests = .remove f :: rest →
     Answers .removeRequest s fun t =>
       t.highlight = { s.highlight with
         requests := rest, queue := s.highlight.queue.filter fun e => decide (e.field ≠ f) } ∧
       t.quote = s.quote ∧ t.plane = s.plane ∧ t.video = s.video ∧ t.control = s.control ∧ t.ports = s.ports ∧
       t.memory = s.memory ∧ EventEnds s t rest) ∧
  ((∀ (s : State) (n : Half) (frames : List Half) (old due rest : List HighlightEntry),
     s.highlight.frames = n :: frames → s.control.device = .running → s.highlight.queue = old ++ due ++ rest →
     (∀ e ∈ old, e.expired = true) → (∀ e ∈ due, e.expired = false ∧ e.expiry = n) →
     (∀ e, rest.head? = some e → e.expired = false ∧ e.expiry ≠ n) → Answers .highlightExpiry s fun t =>
       t = { s with
         highlight := { s.highlight with
           frame := n, frames := frames, queue := old ++ due.map (fun e => { e with expired := true }) ++ rest }
         field := { s.field with inbox := s.field.inbox ++ due.map fun e => .expiry e.field } }) ∧
   (∀ (s : State) (n : Half) (frames : List Half), s.highlight.frames = n :: frames → s.control.device ≠ .running →
     Answers .highlightExpiry s fun t =>
       t = { s with highlight := { s.highlight with frame := n, frames := frames } }))

/-! ### The plane, direct text and overlays (Sections 5 and 6) -/

/-- R112: when an overlay effectively covers a cell, by its state and by whether the cell's row is passed. -/
def Obligations.OverlayCoversTable : Prop :=
  ∀ (o : Overlay) (row col : Nat),
    let inside : Prop := o.top ≤ row ∧ row < o.top + o.height ∧ o.left ≤ col ∧ col < o.left + o.width
    (¬inside → o.covers row col = false) ∧
    (inside → o.state = .opened → o.covers row col = true) ∧
    (∀ k, inside → o.state = .opening k → (o.covers row col = true ↔ row < o.top + k)) ∧
    (∀ k, inside → o.state = .closing k → (o.covers row col = true ↔ ¬row < o.top + k))

/-- 5.2 and 6.4: a base-layer write of a cell goes to the save slot of the lowest overlay that covers the cell, and the
plane keeps its content; with none, to the plane, and the save area keeps its content. SPAN_WRITE makes one for each of
its cells that lies within the geometry, left to right, and drops the others. In LOADING either it does so, as R86 and R99
have it, or the write waits and nothing changes, as R146 has it: which of the two is a free value (log entry 25). -/
def Obligations.SpanWriteIsBaseLayerWrite : Prop :=
  (∀ (p : PlaneController) (row col : Nat) (v : CellValue) (low : List Overlay) (o : Overlay) (high : List Overlay),
    p.stack = low ++ o :: high → (∀ u ∈ low, u.covers row col = false) → o.covers row col = true →
    p.baseWrite row col v = { p with
      save := p.save.set saveSpec (o.offset + (row - o.top) * o.width + (col - o.left)) v }) ∧
  (∀ (p : PlaneController) (row col : Nat) (v : CellValue), (∀ u ∈ p.stack, u.covers row col = false) →
    p.baseWrite row col v = { p with cells := p.cells.set cellSpec (row * p.columns + col) v }) ∧
  (∀ (s : State) (w : SpanWrite) (rest : List PlaneRequest), s.plane.inbox = .span w :: rest →
    let taken (t : State) : Prop :=
      t = { s with plane := t.plane } ∧
      t.plane = (w.cells.zipIdx.foldl (fun p e =>
        if w.row < s.rows ∧ w.col + e.2 < s.columns then p.baseWrite w.row (w.col + e.2) e.1 else p)
        (planeTaken s.plane))
    (s.control.device ≠ .loading → Answers .spanWrite s taken) ∧
    (s.control.device = .loading → Answers .spanWrite s fun t =>
      if Config.spansWaitInLoading = true then t = s else taken t))

/-- What a text command carries: its cell values, or none when its count or repeat is out of range (5.3, 11.4). -/
def Sys2Proof.Statement.textOf (c : Instr) (d : Descriptor) : Option (List CellValue) :=
  if c = .writeCells then
    (if 1 ≤ d.byte 1 2 ∧ d.byte 1 2 ≤ 24 then
      some ((List.range (d.byte 1 2)).map fun j => cellOf (d.half (4 + j / 2) (j % 2)))
    else none)
  else (if d.half 4 0 ≤ 6143 then some (List.replicate (d.half 4 0 + 1) (cellOf (d.half 4 1))) else none)

/-- 5.3: the checks of WRITE_CELLS and FILL_CELLS in their order, and the counts of a walk: cell j of the command is
written when it lies on the plane and, on the base layer, no field occupies it, or, on the top layer, it lies inside the
top overlay's rectangle; else it is skipped, and each cell counts once.

5.2 and 5.3: which cells a completed text command changes. A base-layer command makes the base-layer write of value j
at cell j of its walk when the cell lies on the plane and no field occupies it, and no other write. With no overlay a base-layer command writes value j into
cell j of its walk when the cell lies on the plane and no field occupies it; a top-layer command when it lies on the
plane inside the top overlay's rectangle; every other cell of the plane, and the whole save area, reads as before. The
last clause gives a cell value by its bits (11.5). -/
def Obligations.TextCommands : Prop :=
  (∀ (c : Instr) (s : State) (d : Descriptor) (rest : List PlaneRequest),
     (c = .writeCells ∧ s.plane.inbox = .writeCells d :: rest) ∨ (c = .fillCells ∧ s.plane.inbox = .fillCells d :: rest) →
     let refused (st : Status) (t : State) : Prop :=
       t = { s with plane := planeTaken s.plane, rings := outcomeTo s.rings .t st 0 }
     let first := d.byte 1 0 * s.columns + d.byte 1 1
     let onRange : Prop := d.byte 1 0 < s.rows ∧ d.byte 1 1 < s.columns
     (2 ≤ d.byte 1 3 ∨ textOf c d = none → Answers c s (refused .badForm)) ∧
     (∀ vs, d.byte 1 3 = 1 → textOf c d = some vs → s.plane.stack = [] → Answers c s (refused .noOverlay)) ∧
     (∀ vs, d.byte 1 3 ≤ 1 → textOf c d = some vs → (d.byte 1 3 = 1 → s.plane.stack ≠ []) → ¬onRange →
       Answers c s (refused .outOfRange)) ∧
     (∀ vs, d.byte 1 3 = 0 → textOf c d = some vs → onRange → Answers c s fun t =>
       let hit (j : Nat) : Bool :=
         decide (first + j < s.columns * s.rows) && (s.field.occupancy.get occSpec (first + j)).isNone
       let written := ((List.range vs.length).filter hit).length
       t = { s with plane := t.plane,
                    rings := outcomeTo s.rings .t .done (ofHalves written (vs.length - written)) } ∧
       t.plane = { planeTaken s.plane with cells := t.plane.cells, save := t.plane.save }) ∧
     (∀ vs o low, d.byte 1 3 = 1 → textOf c d = some vs → onRange → s.plane.stack = low ++ [o] → Answers c s fun t =>
       let hit (j : Nat) : Bool :=
         decide (first + j < s.columns * s.rows) &&
           o.inside ((first + j) / s.columns) ((first + j) % s.columns)
       let written := ((List.range vs.length).filter hit).length
       t = { s with plane := t.plane,
                    rings := outcomeTo s.rings .t .done (ofHalves written (vs.length - written)) } ∧
       t.plane = { planeTaken s.plane with cells := t.plane.cells })) ∧
  (∀ (c : Instr) (s : State) (d : Descriptor) (rest : List PlaneRequest) (vs : List CellValue),
     (c = .writeCells ∧ s.plane.inbox = .writeCells d :: rest) ∨ (c = .fillCells ∧ s.plane.inbox = .fillCells d :: rest) →
     textOf c d = some vs → d.byte 1 0 < s.rows → d.byte 1 1 < s.columns → s.Inv →
     let first := d.byte 1 0 * s.columns + d.byte 1 1
     let open_ (n : Nat) : Prop := n < s.columns * s.rows ∧ s.field.occupancy.get occSpec n = none
     let after (hit : Nat → Prop) (t : State) : Prop :=
       t.plane.save = s.plane.save ∧
       (∀ (j : Nat) (_ : j < vs.length), first + j < s.columns * s.rows → hit (first + j) →
         t.plane.cells.get cellSpec (first + j) = vs[j]) ∧
       (∀ n < 6144, (n < first ∨ first + vs.length ≤ n ∨ s.columns * s.rows ≤ n ∨ ¬hit n) →
         t.plane.cells.get cellSpec n = s.plane.cells.get cellSpec n)
     (d.byte 1 3 = 0 → Answers c s fun t =>
       t.plane = vs.zipIdx.foldl (fun p e =>
         if open_ (first + e.2) then p.baseWrite ((first + e.2) / s.columns) ((first + e.2) % s.columns) e.1 else p)
         (planeTaken s.plane)) ∧
     (d.byte 1 3 = 0 → s.plane.stack = [] →
       Answers c s (after fun n => s.field.occupancy.get occSpec n = none)) ∧
     (∀ o low, d.byte 1 3 = 1 → s.plane.stack = low ++ [o] →
       Answers c s (after fun n => o.inside (n / s.columns) (n % s.columns) = true))) ∧
  (∀ h : Nat, (cellOf h).glyph.toNat = h % 512 ∧ (cellOf h).pen.toNat = h / 512 % 32)

/-- 5.4, 8.6 and 4.2: the two commands of Ring T that give the Video Generator a value. SET_PEN: a pen number above 31 and
blink class 3 each refuse it and leave the pen table; else the entry is replaced. SET_CURSOR: a mode above 2 and a
position off the geometry each refuse it; else the change is sent, and CURSOR_CHANGE replaces row, column and mode
together, but in LOADING, where the Video Generator changes the board only by glyph writes (R146), it is held. That DONE
returns before CURSOR_CHANGE is taken, and that the change is held in LOADING, are the model's choices (log entries 23 and
25). -/
def Obligations.SetPenAndSetCursor : Prop :=
  (∀ (s : State) (d : Descriptor) (rest : List FieldRequest), s.field.event = none → s.field.inbox = .setPen d :: rest →
    s.highlight.requests = [] →
    let n := d.byte 4 0
    let x := d.half 5 0
    (32 ≤ n → Answers .setPen s fun t => EndedWith s t .badForm 0) ∧
    (n < 32 → x / 256 % 4 = 3 → Answers .setPen s fun t => EndedWith s t .badForm (ofBytes n 0 0 0)) ∧
    (∀ _ : n < 32, x / 256 % 4 ≠ 3 → Answers .setPen s fun t =>
      ∃ p : Pen, p.foreground.toNat = x % 16 ∧ p.background.toNat = x / 16 % 16 ∧
        (p.blink = .steady ↔ x / 256 % 4 = 0) ∧ (p.blink = .phase0 ↔ x / 256 % 4 = 1) ∧
        (p.underline = true ↔ x / 1024 % 2 = 1) ∧ (p.reverse = true ↔ x / 2048 % 2 = 1) ∧
        t = { s with
          field := fieldTaken s.field
          rings := outcomeTo s.rings .t .done (ofBytes n 0 0 0)
          video := { s.video with pens := s.video.pens.set n p } })) ∧
  (∀ (s : State) (d : Descriptor) (rest : List PlaneRequest), s.plane.inbox = .setCursor d :: rest →
    let row := d.byte 4 0
    let col := d.byte 4 1
    let refused (st : Status) (t : State) : Prop :=
      t = { s with plane := planeTaken s.plane, rings := outcomeTo s.rings .t st 0 }
    (3 ≤ d.byte 4 2 → Answers .setCursor s (refused .badForm)) ∧
    (d.byte 4 2 ≤ 2 → s.rows ≤ row ∨ s.columns ≤ col → Answers .setCursor s (refused .outOfRange)) ∧
    (d.byte 4 2 ≤ 2 → row < s.rows → col < s.columns → Answers .setCursor s fun t =>
      ∃ mode : CursorMode, (mode = .off ↔ d.byte 4 2 = 0) ∧ (mode = .steady ↔ d.byte 4 2 = 1) ∧
        t = { s with
          plane := planeTaken s.plane
          rings := outcomeTo s.rings .t .done (ofBytes row col (d.byte 4 2) 0)
          video := { s.video with cursorChanges := s.video.cursorChanges ++ [⟨row, col, mode⟩] } })) ∧
  (∀ (s : State) (c : Cursor) (rest : List Cursor), s.video.cursorChanges = c :: rest → s.control.device ≠ .loading →
    exec .cursorChange s = .next { s with video := { s.video with cursor := c, cursorChanges := rest } }) ∧
  (∀ s : State, s.control.device = .loading → exec .cursorChange s = .next s)

/-- 6.2 and 6.3: OPEN_OVERLAY and CLOSE_OVERLAY. The checks in their order, each reporting depth and save cells in use;
an open that passes them pushes an OPENING record at the end of the save cells in use and sends the first row event, no
cell changed; a close marks the top record CLOSING and sends the first row event, no cell changed. -/
def Obligations.OverlayCommands : Prop :=
  ∀ (s : State) (rest : List PlaneRequest),
    let refused (st : Status) (t : State) : Prop :=
      t = { s with
        plane := planeTaken s.plane
        rings := outcomeTo s.rings .t st
          (ofBytes s.plane.stack.length 0 (s.plane.inUse % 256) (s.plane.inUse / 256)) }
    (∀ d : Descriptor, s.plane.inbox = .openOverlay d :: rest →
      let top := d.byte 4 0
      let left := d.byte 4 1
      let height := d.byte 4 2
      let width := d.byte 4 3
      let fits : Prop := 0 < height ∧ 0 < width ∧ top + height ≤ s.rows ∧ left + width ≤ s.columns
      (¬fits → Answers .openOverlay s (refused .outOfRange)) ∧
      (fits → s.plane.stack.length = 4 → Answers .openOverlay s (refused .stackFull)) ∧
      (fits → s.plane.stack.length ≠ 4 → 3072 - s.plane.inUse < height * width →
        Answers .openOverlay s (refused .saveFull)) ∧
      (fits → s.plane.stack.length ≠ 4 → height * width ≤ 3072 - s.plane.inUse → Answers .openOverlay s fun t =>
        t = { s with plane := { s.plane with
          inbox := rest ++ [.row]
          stack := s.plane.stack ++
            [⟨top, left, height, width, s.plane.inUse, .opening 0, cellOf (d.half 5 0)⟩] } } ∧
        t.plane.inUse = s.plane.inUse + height * width)) ∧
    (s.plane.inbox = .closeOverlay :: rest →
      (s.plane.stack = [] → Answers .closeOverlay s fun t => refused .noOverlay t ∧ s.plane.inUse = 0) ∧
      (∀ low o, s.plane.stack = low ++ [o] → Answers .closeOverlay s fun t =>
        t = { s with plane := { s.plane with
          inbox := rest ++ [.row], stack := low ++ [{ o with state := .closing 0 }] } }))

/-- 6.2 and 6.3: the row events. A row of an OPENING overlay saves each cell of the row in the slot that belongs to it and
writes the fill there; a row of a CLOSING one restores each cell from its slot; no other cell and no other slot changes.
Before the last row the next row event is sent; the last row makes the overlay OPEN, or takes it off the stack, and the
command completes with DONE and the depth and save cells in use. The premise is the invariant, with a row still to pass.

6.2 to 6.4: a row that an overlay saves and later restores comes back as it was: restoring right after saving gives
every cell of the plane what it held. The premises place the overlay's slots in the save area and its cells in the
plane. -/
def Obligations.OverlayRowsSaveAndRestore : Prop :=
  (∀ (s : State) (rest : List PlaneRequest) (low : List Overlay) (o : Overlay) (k : Nat), s.Inv →
     s.plane.inbox = .row :: rest → s.plane.stack = low ++ [o] → k < o.height →
     let cell (i : Nat) : Nat := (o.top + k) * s.columns + (o.left + i)
     let slot (i : Nat) : Nat := o.offset + k * o.width + i
     let report (p : PlaneController) : Word := ofBytes p.stack.length 0 (p.inUse % 256) (p.inUse / 256)
     (o.state = .opening k → Answers .openingRow s fun t =>
       (∀ i < o.width, t.plane.save.get saveSpec (slot i) = s.plane.cells.get cellSpec (cell i) ∧
         t.plane.cells.get cellSpec (cell i) = o.fill) ∧
       (∀ n < 6144, (∀ i < o.width, n ≠ cell i) → t.plane.cells.get cellSpec n = s.plane.cells.get cellSpec n) ∧
       (∀ n < 3072, (∀ i < o.width, n ≠ slot i) → t.plane.save.get saveSpec n = s.plane.save.get saveSpec n) ∧
       (k + 1 < o.height →
         t = { s with plane := { s.plane with
           inbox := rest ++ [.row], cells := t.plane.cells, save := t.plane.save,
           stack := low ++ [{ o with state := .opening (k + 1) }] } }) ∧
       (k + 1 = o.height →
         t = { s with
           plane := { s.plane with
             inbox := rest, cells := t.plane.cells, save := t.plane.save, stack := low ++ [{ o with state := .opened }] }
           control := { s.control with overlayReports := s.control.overlayReports + 1 }
           rings := outcomeTo s.rings .t .done (report t.plane) } ∧ t.plane.inUse = s.plane.inUse)) ∧
     (o.state = .closing k → Answers .closingRow s fun t =>
       (∀ i < o.width, t.plane.cells.get cellSpec (cell i) = s.plane.save.get saveSpec (slot i)) ∧
       (∀ n < 6144, (∀ i < o.width, n ≠ cell i) → t.plane.cells.get cellSpec n = s.plane.cells.get cellSpec n) ∧
       t.plane.save = s.plane.save ∧
       (k + 1 < o.height →
         t = { s with plane := { s.plane with
           inbox := rest ++ [.row], cells := t.plane.cells, stack := low ++ [{ o with state := .closing (k + 1) }] } }) ∧
       (k + 1 = o.height →
         t = { s with
           plane := { s.plane with inbox := rest, cells := t.plane.cells, stack := low }
           control := { s.control with overlayReports := s.control.overlayReports + 1 }
           rings := outcomeTo s.rings .t .done (report t.plane) } ∧ t.plane.inUse = o.offset))) ∧
  (∀ (p : PlaneController) (o : Overlay) (row : Nat), Tab.WF cellSpec p.cells → Tab.WF saveSpec p.save →
     o.top ≤ row → row < o.top + o.height → o.offset + o.area ≤ 3072 → row * p.columns + (o.left + o.width) ≤ 6144 →
     let saved := o.columnList.foldl (o.saveCell row) p
     let restored := o.columnList.foldl (o.restoreCell row) saved
     (∀ n < 6144, restored.cells.get cellSpec n = p.cells.get cellSpec n) ∧
     (∀ i < o.width, saved.cells.get cellSpec (row * p.columns + (o.left + i)) = o.fill) ∧
     restored.save = saved.save)

/-! ### The Video Generator (Sections 7.1 and 8) -/

/-- 7.1 and 8.4: the start of a scan fixes geometry, glyph height and cursor for the frame. The frame event increases the
frame number modulo 65536 and the blink counter, which at the half-period returns to 0 and changes the phase, and goes,
with the number it leaves, to the Highlight Timer and the three Ring Units. Nothing is scanned and no frame event is
raised while the shown flag is clear; the colour outputs are then at zero intensity, blanking is asserted and no sync is
driven. The cells of a frame are drawn row by row, in a row scan line by scan line, and on a scan line column by column.
That the frame event ends the frame under way is log entry 11, and that BLINK_PHASE_CHANGE is the frame event in its
half-period case is log entry 9; both are the model's readings. -/
def Obligations.FrameScanAndFrameEvent : Prop :=
  (∀ s : State, s.video.shown = true → s.video.scan = none →
    exec .frameScanStart s = .next { s with video := { s.video with
      scan := some ⟨s.plane.geometry, s.video.glyphHeight, s.video.cursor, 0⟩ } }) ∧
  (∀ s : State, s.video.shown = true → s.video.scan.isSome = true →
    let n := s.video.frameNumber + 1
    let turns : Prop := s.video.blinkCounter + 1 = s.video.blinkHalf
    let after (t : State) : Prop :=
      t = { s with
        video := { s.video with
          frameNumber := n, scan := none,
          blinkCounter := t.video.blinkCounter, blinkPhase := t.video.blinkPhase }
        highlight := { s.highlight with frames := s.highlight.frames ++ [n] }
        rings := ⟨{ s.rings.a with frames := s.rings.a.frames ++ [n] }, { s.rings.b with frames := s.rings.b.frames ++ [n] },
          { s.rings.t with frames := s.rings.t.frames ++ [n] }⟩ } ∧
      (turns → t.video.blinkCounter = 0 ∧ t.video.blinkPhase = !s.video.blinkPhase) ∧
      (¬turns → t.video.blinkCounter = s.video.blinkCounter + 1 ∧ t.video.blinkPhase = s.video.blinkPhase)
    Answers .frameEvent s after ∧ (turns → Answers .blinkPhaseChange s after)) ∧
  (∀ s : State, s.video.shown = false → exec .frameScanStart s = .next s ∧ exec .frameEvent s = .next s ∧
    exec .blinkPhaseChange s = .next s ∧ s.blanked = true ∧ s.syncDriven = false ∧
    ∀ x, s.colourOutput x = ⟨0, 0, 0⟩) ∧
  (∀ (f : Scan) (g : Geometry) (height : Nat), f.geometry = some g → f.glyphHeight = some height →
    (∀ row line col, row < g.rows → line < height → col < g.columns →
      f.place ((row * height + line) * g.columns + col) = some (row, line, col)) ∧
    ∀ n, (f.place n = none ↔ g.rows * height * g.columns ≤ n))

/-- 8.5 and 8.6: how a dot is drawn. Ink is a set dot of the glyph's line, or any dot of the last line of an underlined
pen; reverse exchanges the colours, a hidden glyph has no ink, and the cursor exchanges the colours once more. The two
case tables say when a glyph is hidden and when the cursor is shown.

8.3 and 8.4: a dot of the frame being scanned takes its cell from the plane, the cell's glyph from the glyph store, its
pen from the pen table and the colour from the palette, as each stands now, under the geometry, glyph height and cursor
fixed for the frame; outside the picture there is none. The colour outputs carry the dots of the cell being drawn. -/
def Obligations.DotsAreDrawnByPenPhaseAndCursor : Prop :=
  (∀ phase, BlinkClass.steady.hides phase = false ∧ BlinkClass.phase0.hides phase = phase ∧
    BlinkClass.phase1.hides phase = !phase) ∧
  (∀ (c : Cursor) (row col : Nat) (phase : Bool), c.shownOn row col phase = true ↔
    c.row = row ∧ c.col = col ∧ (c.mode = .steady ∨ (c.mode = .blink ∧ phase = false))) ∧
  (∀ (g : Glyph) (p : Pen) (height k x : Nat) (phase cursor : Bool) (_ : k < 16), x < 8 →
    let ink : Bool := (g[k].getLsbD (7 - x) || (p.underline && decide (k = height - 1 ∧ 0 < height))) && !p.blink.hides phase
    let inkColour := if p.reverse then p.background else p.foreground
    let paper := if p.reverse then p.foreground else p.background
    dotEntry g p height k x phase cursor =
      if cursor then (if ink then paper else inkColour) else (if ink then inkColour else paper)) ∧
  (∀ (s : State) (f : Scan) (g : Geometry) (height : Nat), s.video.scan = some f → f.geometry = some g →
    f.glyphHeight = some height → ∀ row col k x : Nat,
    (row < g.rows ∧ col < g.columns ∧ k < height ∧ x < 8 →
      let c := s.plane.cells.get cellSpec (row * g.columns + col)
      let e := dotEntry (s.video.glyphs.get glyphSpec c.glyph.toNat) (s.video.pens.get c.pen.toFin) height k x
        s.video.blinkPhase (f.cursor.shownOn row col s.video.blinkPhase)
      s.dotColour row col k x = some (s.video.palette.get e.toFin)) ∧
    (¬(row < g.rows ∧ col < g.columns ∧ k < height ∧ x < 8) → s.dotColour row col k x = none)) ∧
  (∀ (s : State) (f : Scan) (row line col x : Nat) (c : Colour), s.video.shown = true → s.video.scan = some f →
    f.place f.drawn = some (row, line, col) → s.dotColour row col line x = some c → s.colourOutput x = c)
end

