-- ==== Sys2Proof/Laws/Table.lean ====
section
/-! SUPPORT. The sparse tables: reading after writing, and that every table operation keeps the canonical form. -/

namespace Sys2Proof.Machine

set_option linter.unusedSectionVars false

variable {α : Type} [DecidableEq α]

/-- An unlisted number reads as `d`. -/
theorem Tab.find_of_not_mem (d : α) : ∀ (t : Tab α) (n : Nat), (∀ e ∈ t, e.1 ≠ n) → Tab.find d t n = d
  | [], _, _ => rfl
  | (k, v) :: rest, n, h => by
    have hk : k ≠ n := h (k, v) (by simp)
    simp only [Tab.find, hk, if_false]
    exact Tab.find_of_not_mem d rest n fun e he => h e (by simp [he])

/-- Every entry of a table written at `n` is an old entry or the new one. -/
theorem Tab.mem_put (d : α) : ∀ (t : Tab α) (n : Nat) (v : α) (e : Nat × α), e ∈ Tab.put d t n v →
    e ∈ t ∨ (e = (n, v) ∧ v ≠ d)
  | [], n, v, e, h => by
    unfold Tab.put at h
    split at h <;> simp_all
  | (k, w) :: rest, n, v, e, h => by
    unfold Tab.put at h
    split at h
    · split at h
      · exact .inl h
      · rcases List.mem_cons.1 h with h | h
        · exact .inr ⟨h, by assumption⟩
        · exact .inl h
    · split at h
      · split at h
        · exact .inl (by simp [h])
        · rcases List.mem_cons.1 h with h | h
          · exact .inr ⟨h, by assumption⟩
          · exact .inl (by simp [h])
      · rcases List.mem_cons.1 h with h | h
        · exact .inl (by simp [h])
        · rcases Tab.mem_put d rest n v e h with h | h
          · exact .inl (by simp [h])
          · exact .inr h

/-- Writing keeps the numbers strictly rising. -/
theorem Tab.put_pairwise (d : α) : ∀ (t : Tab α) (n : Nat) (v : α), t.Pairwise (fun x y => x.1 < y.1) →
    (Tab.put d t n v).Pairwise (fun x y => x.1 < y.1)
  | [], n, v, _ => by unfold Tab.put; split <;> simp
  | (k, w) :: rest, n, v, h => by
    obtain ⟨h1, h2⟩ := List.pairwise_cons.1 h
    unfold Tab.put
    split
    · split
      · exact h
      · refine List.pairwise_cons.2 ⟨fun e he => ?_, h⟩
        rcases List.mem_cons.1 he with he | he
        · subst he; assumption
        · exact Nat.lt_trans (by assumption) (h1 e he)
    · split
      · rename_i hnk
        split
        · exact h2
        · exact List.pairwise_cons.2 ⟨fun e he => hnk ▸ h1 e he, h2⟩
      · refine List.pairwise_cons.2 ⟨fun e he => ?_, Tab.put_pairwise d rest n v h2⟩
        rcases Tab.mem_put d rest n v e he with he | he
        · exact h1 e he
        · simp only [he.1]; omega

/-- A write keeps the canonical form. -/
theorem Tab.set_wf (T : TabSpec α) (t : Tab α) (n : Nat) (v : α) (h : Tab.WF T t) : Tab.WF T (Tab.set T t n v) := by
  unfold Tab.set
  split
  · refine ⟨Tab.put_pairwise _ _ _ _ h.1, fun e he => ?_⟩
    rcases Tab.mem_put _ _ _ _ _ he with he | he
    · exact h.2 e he
    · exact he.1 ▸ ⟨by assumption, he.2⟩
  · exact h

/-- The empty table is canonical. -/
theorem Tab.nil_wf (T : TabSpec α) : Tab.WF T [] := by simp [Tab.WF]

/-- Changing every listed content keeps the canonical form. -/
theorem Tab.mapListed_wf (T : TabSpec α) (f : α → α) (t : Tab α) (h : Tab.WF T t) :
    Tab.WF T (Tab.mapListed T f t) := by
  refine ⟨List.Pairwise.filter _ (List.pairwise_map.2 h.1), fun e he => ?_⟩
  obtain ⟨h1, h2⟩ := List.mem_filter.1 he
  obtain ⟨x, hx, rfl⟩ := List.mem_map.1 h1
  exact ⟨(h.2 x hx).1, by simpa using h2⟩

/-- A filled table is canonical. -/
theorem Tab.filled_wf (T : TabSpec α) (v : α) : Tab.WF T (Tab.filled T v) := by
  unfold Tab.filled
  split
  · exact Tab.nil_wf T
  · refine ⟨List.pairwise_map.2 (List.pairwise_lt_range), fun e he => ?_⟩
    obtain ⟨x, hx, rfl⟩ := List.mem_map.1 he
    exact ⟨List.mem_range.1 hx, by assumption⟩

/-- Reading the number just written. -/
theorem Tab.find_put_self (d : α) : ∀ (t : Tab α) (n : Nat) (v : α), t.Pairwise (fun x y => x.1 < y.1) →
    Tab.find d (Tab.put d t n v) n = v
  | [], n, v, _ => by unfold Tab.put; split <;> simp_all [Tab.find]
  | (k, w) :: rest, n, v, h => by
    obtain ⟨h1, h2⟩ := List.pairwise_cons.1 h
    have later : ∀ m, m ≤ k → Tab.find d rest m = d := fun m hm =>
      Tab.find_of_not_mem d rest m fun e he => by have := h1 e he; simp only at this; omega
    unfold Tab.put
    split
    · split
      · rename_i hlt hv
        have hk : k ≠ n := by omega
        simp only [Tab.find, hk, if_false, hv]
        exact later n (by omega)
      · simp [Tab.find]
    · split
      · rename_i hnk
        split
        · rename_i hv
          rw [hv]; exact later n (by omega)
        · simp [Tab.find]
      · have hk : k ≠ n := by omega
        simp only [Tab.find, hk, if_false]
        exact Tab.find_put_self d rest n v h2

/-- Reading another number than the one written. -/
theorem Tab.find_put_ne (d : α) : ∀ (t : Tab α) (n m : Nat) (v : α), t.Pairwise (fun x y => x.1 < y.1) → m ≠ n →
    Tab.find d (Tab.put d t n v) m = Tab.find d t m
  | [], n, m, v, _, hm => by
    have : n ≠ m := fun h => hm h.symm
    unfold Tab.put; split <;> simp [Tab.find, this]
  | (k, w) :: rest, n, m, v, h, hm => by
    have hnm : n ≠ m := fun h => hm h.symm
    obtain ⟨h1, h2⟩ := List.pairwise_cons.1 h
    unfold Tab.put
    split
    · split
      · rfl
      · simp [Tab.find, hnm]
    · split
      · rename_i hnk
        have hk : k ≠ m := by omega
        split <;> simp [Tab.find, hk, hnm]
      · by_cases hk : k = m
        · simp [Tab.find, hk]
        · simp only [Tab.find, hk, if_false]
          exact Tab.find_put_ne d rest n m v h2 hm

/-- Reading an entry just written. -/
theorem Tab.get_set_self (T : TabSpec α) (t : Tab α) (n : Nat) (v : α) (h : Tab.WF T t) (hn : n < T.size) :
    Tab.get T (Tab.set T t n v) n = v := by
  simp [Tab.get, Tab.set, hn, Tab.find_put_self T.dflt t n v h.1]

/-- Reading another entry than the one written. -/
theorem Tab.get_set_ne (T : TabSpec α) (t : Tab α) (n m : Nat) (v : α) (h : Tab.WF T t) (hm : m ≠ n) :
    Tab.get T (Tab.set T t n v) m = Tab.get T t m := by
  unfold Tab.get Tab.set
  split
  · split
    · exact Tab.find_put_ne T.dflt t n m v h.1 hm
    · rfl
  · rfl

/-- What a write leaves to be read, entry by entry. -/
theorem Tab.get_set (T : TabSpec α) (t : Tab α) (n m : Nat) (v : α) (h : Tab.WF T t) :
    Tab.get T (Tab.set T t n v) m = if m = n ∧ n < T.size then v else Tab.get T t m := by
  by_cases hm : m = n
  · subst hm
    by_cases hn : m < T.size
    · simp [hn, Tab.get_set_self T t m v h hn]
    · simp [hn, Tab.set]
  · simp [hm, Tab.get_set_ne T t n m v h hm]

/-- Reading after every listed content is changed by an `f` that keeps the unlisted contents. -/
theorem Tab.find_mapListed (T : TabSpec α) (f : α → α) (hf : f T.dflt = T.dflt) : ∀ (t : Tab α) (n : Nat),
    t.Pairwise (fun x y => x.1 < y.1) → Tab.find T.dflt (Tab.mapListed T f t) n = f (Tab.find T.dflt t n)
  | [], _, _ => hf.symm
  | (k, v) :: rest, n, h => by
    obtain ⟨h1, h2⟩ := List.pairwise_cons.1 h
    have ih := Tab.find_mapListed T f hf rest n h2
    unfold Tab.mapListed at ih ⊢
    simp only [ne_eq, decide_not] at ih
    by_cases hk : k = n
    · subst hk
      by_cases hv : f v = T.dflt
      · have hr : Tab.find T.dflt rest k = T.dflt := Tab.find_of_not_mem _ _ _ fun e he => by
          have := h1 e he; simp only at this; omega
        simp [hv, Tab.find, ih, hr, hf]
      · simp [hv, Tab.find]
    · by_cases hv : f v = T.dflt
      · simp [hv, Tab.find, hk, ih]
      · simp [hv, Tab.find, hk, ih]

/-- Reading after every listed content is changed by an `f` that keeps the unlisted contents. -/
theorem Tab.get_mapListed (T : TabSpec α) (f : α → α) (hf : f T.dflt = T.dflt) (t : Tab α) (n : Nat)
    (h : Tab.WF T t) : Tab.get T (Tab.mapListed T f t) n = f (Tab.get T t n) := by
  unfold Tab.get
  split
  · exact Tab.find_mapListed T f hf t n h.1
  · exact hf.symm

/-- Finding a number in a list of numbers that all hold `v`. -/
theorem Tab.find_map_const (d v : α) : ∀ (l : List Nat) (n : Nat), n ∈ l →
    Tab.find d (l.map fun n => (n, v)) n = v
  | k :: rest, n, h => by
    by_cases hk : k = n
    · simp [Tab.find, hk]
    · have : n ∈ rest := by
        rcases List.mem_cons.1 h with h | h
        · exact absurd h.symm hk
        · exact h
      simp [Tab.find, hk, Tab.find_map_const d v rest n this]

/-- Every entry of a filled table reads `v`. -/
theorem Tab.get_filled (T : TabSpec α) (v : α) (n : Nat) (hn : n < T.size) : Tab.get T (Tab.filled T v) n = v := by
  unfold Tab.get Tab.filled
  rw [if_pos hn]
  split
  · rename_i h; simp [Tab.find, h]
  · exact Tab.find_map_const T.dflt v _ n (List.mem_range.2 hn)

/-- Marking cells of the occupancy map keeps its canonical form. -/
theorem markCells_wf (cells : List Nat) (v : Option Nat) : ∀ (occ : Tab (Option Nat)), Tab.WF occSpec occ →
    Tab.WF occSpec (markCells occ cells v) := by
  induction cells with
  | nil => intro occ h; exact h
  | cons n rest ih => intro occ h; exact ih _ (Tab.set_wf occSpec occ n v h)

/-- What marking cells leaves to be read. -/
theorem get_markCells (v : Option Nat) (m : Nat) (hm : m < 6144) : ∀ (cells : List Nat) (occ : Tab (Option Nat)),
    Tab.WF occSpec occ → (markCells occ cells v).get occSpec m = if m ∈ cells then v else occ.get occSpec m
  | [], occ, _ => by simp [markCells]
  | n :: rest, occ, h => by
    have ih := get_markCells v m hm rest (occ.set occSpec n v) (Tab.set_wf occSpec occ n v h)
    have hs := Tab.get_set occSpec occ n m v h
    simp only [markCells, List.foldl_cons] at ih ⊢
    rw [ih, hs]
    by_cases h1 : m ∈ rest
    · simp [h1]
    · by_cases h2 : m = n
      · subst h2; simp [h1, show m < occSpec.size from hm]
      · simp [h1, h2]

/-- The occupancy map rebuilt from a field table is canonical. -/
theorem occupancyOf_wf (g : Geometry) (records : Tab FieldRec) : Tab.WF occSpec (occupancyOf g records) := by
  unfold occupancyOf
  suffices h : ∀ occ, Tab.WF occSpec occ → Tab.WF occSpec (records.foldl (fun occ e =>
      if e.2.state = .bound then
        markCells occ ((List.range e.2.width).map fun i => e.2.row * g.columns + (e.2.col + i)) (some e.1)
      else occ) occ) from h [] (Tab.nil_wf _)
  induction records with
  | nil => intro occ h; exact h
  | cons e rest ih =>
    intro occ h
    refine ih _ ?_
    dsimp only
    split
    · exact markCells_wf _ _ _ h
    · exact h

end Sys2Proof.Machine
end

