-- ==== Sys2Proof/Laws/Chains.lean ====
section
/-! SUPPORT. The chains of the instrument table: a definition appends to one chain, a removal takes one slot out of one
chain, and everything else leaves them as they are (R5, R11, R12). -/

namespace Sys2Proof.Machine

/-- The slots of `l`, in this order, are linked from `h` on, and the last has no link. -/
def Linked (slots : Tab Slot) : Option Nat → List Nat → Prop
  | h, [] => h = none
  | h, i :: rest => h = some i ∧ Linked slots (slots.get slotSpec i).link rest

theorem chainFrom_of_linked (slots : Tab Slot) : ∀ (l : List Nat) (n : Nat) (h : Option Nat), Linked slots h l →
    l.length ≤ n → chainFrom slots n h = l
  | [], n, h, hl, _ => by
    have : h = none := hl
    subst this; cases n <;> rfl
  | i :: rest, 0, _, _, hn => by simp at hn
  | i :: rest, n + 1, h, hl, hn => by
    obtain ⟨e, r⟩ := hl
    subst e
    simp only [chainFrom]
    rw [chainFrom_of_linked slots rest n _ r (by simpa using hn)]

theorem linked_chainFrom (slots : Tab Slot) : ∀ (n : Nat) (h : Option Nat), n ≠ 0 →
    (∀ i, (chainFrom slots n h).getLast? = some i → (slots.get slotSpec i).link = none) →
    Linked slots h (chainFrom slots n h)
  | 0, _, hn, _ => absurd rfl hn
  | n + 1, none, _, _ => rfl
  | n + 1, some i, _, hl => by
    simp only [chainFrom] at hl ⊢
    refine ⟨rfl, ?_⟩
    by_cases hn : n = 0
    · subst hn
      simp only [chainFrom] at hl ⊢
      exact hl i (by simp)
    · refine linked_chainFrom slots n _ hn fun j hj => hl j ?_
      rw [List.getLast?_cons, hj]; rfl

theorem Linked.last {slots : Tab Slot} : ∀ {l : List Nat} {h : Option Nat}, Linked slots h l → ∀ i,
    l.getLast? = some i → (slots.get slotSpec i).link = none
  | [], _, _, i, hi => by simp at hi
  | [j], _, hl, i, hi => by
    simp at hi; subst hi; exact hl.2
  | j :: k :: rest, _, hl, i, hi => Linked.last hl.2 i (by simpa [List.getLast?_cons] using hi)

theorem Linked.congr {slots slots' : Tab Slot} : ∀ {l : List Nat} {h : Option Nat}, Linked slots h l →
    (∀ i ∈ l, (slots'.get slotSpec i).link = (slots.get slotSpec i).link) → Linked slots' h l
  | [], _, hl, _ => hl
  | i :: rest, _, hl, e => ⟨hl.1, by
      rw [e i (by simp)]
      exact Linked.congr hl.2 fun j hj => e j (by simp [hj])⟩

/-- A slot put behind the last of a chain (R11). -/
theorem Linked.append {slots slots' : Tab Slot} {n : Nat} : ∀ {l : List Nat} {h : Option Nat}, Linked slots h l →
    (∀ i ∈ l, (slots'.get slotSpec i).link = if l.getLast? = some i then some n else (slots.get slotSpec i).link) →
    (slots'.get slotSpec n).link = none → l.Nodup →
    Linked slots' (if l = [] then some n else h) (l ++ [n])
  | [], _, _, _, hn, _ => ⟨rfl, hn⟩
  | [i], _, hl, e, hn, _ => by
    refine ⟨hl.1, ?_⟩
    rw [e i (by simp)]
    simp only [List.getLast?_singleton, if_true]
    exact ⟨rfl, hn⟩
  | i :: j :: rest, _, hl, e, hn, nd => by
    refine ⟨hl.1, ?_⟩
    have hi : (i :: j :: rest).getLast? ≠ some i := by
      intro x
      have : i ∈ (j :: rest) := by
        have : (j :: rest).getLast? = some i := by simpa [List.getLast?_cons] using x
        exact List.mem_of_getLast? this
      exact (List.nodup_cons.mp nd).1 this
    rw [e i (by simp), if_neg hi]
    have := Linked.append (slots' := slots') (n := n) hl.2 (fun k hk => by
      rw [e k (by simp [List.mem_cons.mp hk])]
      simp [List.getLast?_cons]) hn (List.nodup_cons.mp nd).2
    simpa using this

/-- A slot taken out of a chain (R12). -/
theorem Linked.remove {slots slots' : Tab Slot} {n : Nat} {after : List Nat} : ∀ {l : List Nat} {h : Option Nat},
    Linked slots h (l ++ n :: after) → (l ++ n :: after).Nodup →
    (∀ i ∈ l ++ after, (slots'.get slotSpec i).link =
      if l.getLast? = some i then (slots.get slotSpec n).link else (slots.get slotSpec i).link) →
    Linked slots' (if l = [] then (slots.get slotSpec n).link else h) (l ++ after)
  | [], _, hl, _, e => by
    simp only [List.nil_append, if_true]
    exact hl.2.congr fun i hi => by simpa using e i (by simpa using hi)
  | [i], _, hl, nd, e => by
    refine ⟨hl.1, ?_⟩
    rw [e i (by simp)]
    simp only [List.getLast?_singleton, if_true, List.nil_append]
    refine hl.2.2.congr fun k hk => ?_
    have : i ≠ k := by
      rintro rfl
      simp at nd
      exact nd.1.2 hk
    rw [e k (by simp [hk])]
    simp [this]
  | i :: j :: rest, h, hl, nd, e => by
    refine ⟨hl.1, ?_⟩
    have hi : (i :: j :: rest).getLast? ≠ some i := by
      intro x
      have m : i ∈ (j :: rest) := by
        have : (j :: rest).getLast? = some i := by simpa [List.getLast?_cons] using x
        exact List.mem_of_getLast? this
      exact (List.nodup_cons.mp nd).1 (by simp at m ⊢; tauto)
    rw [e i (by simp), if_neg hi]
    have := Linked.remove (slots' := slots') (l := j :: rest) hl.2 (List.nodup_cons.mp nd).2 (fun k hk => by
      rw [e k (by simp at hk ⊢; tauto)]
      simp [List.getLast?_cons])
    simpa using this

/-- An OCCUPIED slot is one of the 256. -/
theorem occupied_lt {slots : Tab Slot} {i : Nat} (h : (slots.get slotSpec i).occupied = true) : i < 256 := by
  by_contra e
  unfold Tab.get at h
  rw [if_neg (by simp only [slotSpec]; omega)] at h
  simp [slotSpec, Slot.cleared] at h

theorem QuoteEngine.ChainsOk.linked {q : QuoteEngine} (c : q.ChainsOk) (b : Nat) :
    Linked q.slots (q.heads.get headSpec b) (q.chain b) :=
  linked_chainFrom q.slots 256 _ (by simp) (c.ends b)

/-- A chain that is linked in the tables is the one that the walk finds. -/
theorem QuoteEngine.chain_of_linked {q : QuoteEngine} {b : Nat} {l : List Nat}
    (h : Linked q.slots (q.heads.get headSpec b) l) (nd : l.Nodup) (lt : ∀ i ∈ l, i < 256) : q.chain b = l := by
  refine chainFrom_of_linked q.slots l 256 _ h ?_
  have := (List.Nodup.subperm nd (l₂ := List.range 256) fun i hi => List.mem_range.mpr (lt i hi)).length_le
  simpa using this

/-- The chain laws from the chains themselves. -/
theorem QuoteEngine.ChainsOk.of_linked {q : QuoteEngine} (L : Nat → List Nat)
    (hl : ∀ b, Linked q.slots (q.heads.get headSpec b) (L b)) (nd : ∀ b, (L b).Nodup)
    (mem : ∀ b i, i ∈ L b ↔ (q.slots.get slotSpec i).occupied = true ∧ bucketOf (q.slots.get slotSpec i).key = b)
    (keys : ∀ i j, (q.slots.get slotSpec i).occupied = true → (q.slots.get slotSpec j).occupied = true →
      (q.slots.get slotSpec i).key = (q.slots.get slotSpec j).key → i = j)
    (nonzero : ∀ i, (q.slots.get slotSpec i).occupied = true → (q.slots.get slotSpec i).key ≠ 0) : q.ChainsOk := by
  have e : ∀ b, q.chain b = L b := fun b =>
    QuoteEngine.chain_of_linked (hl b) (nd b) fun i hi => occupied_lt ((mem b i).1 hi).1
  exact ⟨fun b => e b ▸ nd b, fun b i => e b ▸ mem b i, fun b i => e b ▸ (hl b).last i, keys, nonzero⟩

/-- Slots whose key, link and occupancy stay the same leave the chains as they are. -/
theorem QuoteEngine.ChainsOk.keepSlots {p q : QuoteEngine} (c : p.ChainsOk) (hh : q.heads = p.heads)
    (h : ∀ i, (q.slots.get slotSpec i).occupied = (p.slots.get slotSpec i).occupied ∧
      (q.slots.get slotSpec i).key = (p.slots.get slotSpec i).key ∧
      (q.slots.get slotSpec i).link = (p.slots.get slotSpec i).link) : q.ChainsOk := by
  refine .of_linked p.chain (fun b => ?_) c.once (fun b i => ?_) (fun i j => ?_) (fun i => ?_)
  · rw [hh]; exact (c.linked b).congr fun i _ => (h i).2.2
  · rw [(h i).1, (h i).2.1]; exact c.members b i
  · rw [(h i).1, (h j).1, (h i).2.1, (h j).2.1]; exact c.keys i j
  · rw [(h i).1, (h i).2.1]; exact c.nonzero i

/-! ### Lookup -/

/-- What `findKey` finds: the first slot of the list with the key (R6). -/
theorem findKey_some (slots : Tab Slot) (key : Word) : ∀ (l : List Nat) (n i pos : Nat),
    findKey slots key l n = some (i, pos) → (slots.get slotSpec i).key = key ∧ n ≤ pos ∧ l[pos - n]? = some i
  | [], _, _, _, h => by simp [findKey] at h
  | j :: rest, n, i, pos, h => by
    unfold findKey at h
    split at h
    · rename_i e
      cases h; simp [e]
    · have := findKey_some slots key rest (n + 1) i pos h
      refine ⟨this.1, by omega, ?_⟩
      rw [← this.2.2]
      have : pos - n = (pos - (n + 1)) + 1 := by omega
      rw [this]; simp

theorem findKey_none (slots : Tab Slot) (key : Word) : ∀ (l : List Nat) (n : Nat),
    findKey slots key l n = none → ∀ i ∈ l, (slots.get slotSpec i).key ≠ key
  | [], _, _, i, hi => by simp at hi
  | j :: rest, n, h, i, hi => by
    unfold findKey at h
    split at h
    · simp at h
    · rename_i e
      rcases List.mem_cons.mp hi with x | x
      · subst x; exact e
      · exact findKey_none slots key rest (n + 1) h i x

/-- A lookup that finds a slot names it by its chain position (R6). -/
theorem QuoteEngine.lookup_some {q : QuoteEngine} {key : Word} {i pos : Nat} (h : q.lookup key = some (i, pos)) :
    key ≠ 0 ∧ (q.slots.get slotSpec i).key = key ∧ (q.chain (bucketOf key))[pos]? = some i := by
  unfold QuoteEngine.lookup at h
  split at h
  · simp at h
  · rename_i hk
    have := findKey_some _ _ _ _ _ _ h
    exact ⟨hk, this.1, by simpa using this.2.2⟩

/-- A lookup finds an OCCUPIED slot. -/
theorem QuoteEngine.ChainsOk.found {q : QuoteEngine} (c : q.ChainsOk) {key : Word} {i pos : Nat}
    (h : q.lookup key = some (i, pos)) : (q.slots.get slotSpec i).occupied = true :=
  ((c.members _ i).1 (List.mem_of_getElem? (QuoteEngine.lookup_some h).2.2)).1

/-- A lookup that finds nothing: no OCCUPIED slot holds the key. -/
theorem QuoteEngine.ChainsOk.notFound {q : QuoteEngine} (c : q.ChainsOk) {key : Word} (hk : key ≠ 0)
    (h : q.lookup key = none) (i : Nat) (ho : (q.slots.get slotSpec i).occupied = true) :
    (q.slots.get slotSpec i).key ≠ key := by
  intro e
  unfold QuoteEngine.lookup at h
  rw [if_neg hk] at h
  exact findKey_none _ _ _ _ h i ((c.members _ i).2 ⟨ho, by rw [e]⟩) e

/-! ### DEFINE_INSTRUMENT and REMOVE_INSTRUMENT -/

theorem slots_set (t : Tab Slot) (i j : Nat) (v : Slot) (h : Tab.WF slotSpec t) (hi : i < 256) :
    (t.set slotSpec i v).get slotSpec j = if j = i then v else t.get slotSpec j := by
  rw [Tab.get_set _ _ _ _ _ h]
  by_cases e : j = i <;> simp [e, slotSpec, hi]

theorem heads_set (t : Tab (Option Nat)) (b c : Nat) (v : Option Nat) (h : Tab.WF headSpec t) (hb : b < 128) :
    (t.set headSpec b v).get headSpec c = if c = b then v else t.get headSpec c := by
  rw [Tab.get_set _ _ _ _ _ h]
  by_cases e : c = b <;> simp [e, headSpec, hb]

theorem bucketOf_lt (key : Word) : bucketOf key < 128 := Nat.mod_lt _ (by norm_num)

/-- A definition (R11): the FREE slot `i` takes the new instrument and stands behind the last of its chain. -/
theorem QuoteEngine.ChainsOk.define {q : QuoteEngine} (c : q.ChainsOk) (ws : Tab.WF slotSpec q.slots)
    (wh : Tab.WF headSpec q.heads) {i : Nat} {v : Slot} (hi : i < 256)
    (hf : (q.slots.get slotSpec i).occupied = false) (ho : v.occupied = true) (hk : v.key ≠ 0) (hl : v.link = none)
    (hn : ∀ j, (q.slots.get slotSpec j).occupied = true → (q.slots.get slotSpec j).key ≠ v.key) :
    QuoteEngine.ChainsOk { q.link (bucketOf v.key) i with
      slots := (q.link (bucketOf v.key) i).slots.set slotSpec i v } := by
  have nm : ∀ b, i ∉ q.chain b := fun b h => by
    have := ((c.members b i).1 h).1
    rw [hf] at this; simp at this
  -- the new tables, entry by entry
  have sl : ∀ j, ((q.link (bucketOf v.key) i).slots.set slotSpec i v).get slotSpec j =
      if j = i then v else if (q.chain (bucketOf v.key)).getLast? = some j then
        { q.slots.get slotSpec j with link := some i } else q.slots.get slotSpec j := by
    intro j
    unfold QuoteEngine.link
    split
    · rename_i e
      rw [slots_set _ _ _ _ ws hi, e]; simp
    · rename_i tail e
      have ht : tail < 256 := occupied_lt ((c.members _ tail).1 (List.mem_of_getLast? e)).1
      rw [slots_set _ _ _ _ (Tab.set_wf _ _ _ _ ws) hi, slots_set _ _ _ _ ws ht, e]
      by_cases h : j = tail
      · subst h; simp
      · have h' : ¬tail = j := fun x => h x.symm
        simp [h, h']
  have hd : ∀ b, (q.link (bucketOf v.key) i).heads.get headSpec b =
      if b = bucketOf v.key ∧ q.chain (bucketOf v.key) = [] then some i else q.heads.get headSpec b := by
    intro b
    unfold QuoteEngine.link
    split
    · rename_i e
      rw [heads_set _ _ _ _ wh (bucketOf_lt _)]
      simp [List.getLast?_eq_none_iff.mp e]
    · rename_i tail e
      have : q.chain (bucketOf v.key) ≠ [] := by intro x; rw [x] at e; simp at e
      simp [this]
  have keep : ∀ j, j ≠ i → (((q.link (bucketOf v.key) i).slots.set slotSpec i v).get slotSpec j).occupied =
      (q.slots.get slotSpec j).occupied ∧ (((q.link (bucketOf v.key) i).slots.set slotSpec i v).get slotSpec j).key =
      (q.slots.get slotSpec j).key := fun j h => by
    rw [sl j, if_neg h]; split <;> exact ⟨rfl, rfl⟩
  have self : ((q.link (bucketOf v.key) i).slots.set slotSpec i v).get slotSpec i = v := by rw [sl i, if_pos rfl]
  refine .of_linked (fun b => if b = bucketOf v.key then q.chain b ++ [i] else q.chain b) (fun b => ?_) (fun b => ?_)
    (fun b j => ?_) (fun j k => ?_) (fun j => ?_)
  · dsimp only
    rw [hd b]
    by_cases e : b = bucketOf v.key
    · subst e
      have := Linked.append (slots' := (q.link (bucketOf v.key) i).slots.set slotSpec i v) (n := i) (c.linked (bucketOf v.key))
        (fun j hj => by
          have : j ≠ i := fun x => nm _ (x ▸ hj)
          rw [sl j, if_neg this]; split <;> rfl) (by rw [self]; exact hl) (c.once _)
      simpa using this
    · simp only [e, false_and, if_false]
      refine (c.linked b).congr fun j hj => ?_
      have : j ≠ i := fun x => nm _ (x ▸ hj)
      have : (q.chain (bucketOf v.key)).getLast? ≠ some j := fun x => e (by
        rw [← ((c.members b j).1 hj).2, ((c.members _ j).1 (List.mem_of_getLast? x)).2])
      rw [sl j, if_neg ‹j ≠ i›, if_neg this]
  · split
    · exact List.Nodup.append (c.once b) (by simp) (by simpa using nm b)
    · exact c.once b
  · dsimp only
    by_cases h : j = i
    · subst h
      rw [self]
      by_cases e : b = bucketOf v.key
      · simp [e, ho]
      · simp [e, nm b, ho, Ne.symm e]
    · rw [(keep j h).1, (keep j h).2, ← c.members b j]
      by_cases e : b = bucketOf v.key <;> simp [e, h]
  · dsimp only
    by_cases h : j = i <;> by_cases g : k = i
    · subst h; subst g; simp
    · subst h
      rw [self, (keep k g).1, (keep k g).2]
      exact fun _ x e => absurd e.symm (hn k x)
    · subst g
      rw [self, (keep j h).1, (keep j h).2]
      exact fun x _ e => absurd e (hn j x)
    · rw [(keep j h).1, (keep j h).2, (keep k g).1, (keep k g).2]; exact c.keys j k
  · dsimp only
    by_cases h : j = i
    · subst h; rw [self]; exact fun _ => hk
    · rw [(keep j h).1, (keep j h).2]; exact c.nonzero j

/-- A removal (R12): slot `i`, at position `pos` of its chain, becomes FREE, and the chain closes over it. -/
theorem QuoteEngine.ChainsOk.remove {q : QuoteEngine} (c : q.ChainsOk) (ws : Tab.WF slotSpec q.slots)
    (wh : Tab.WF headSpec q.heads) {b i pos : Nat} (hp : (q.chain b)[pos]? = some i) :
    QuoteEngine.ChainsOk { q.unlink b i pos with slots := (q.unlink b i pos).slots.set slotSpec i Slot.cleared } := by
  have mi := (c.members b i).1 (List.mem_of_getElem? hp)
  have hi : i < 256 := occupied_lt mi.1
  have hb : b < 128 := mi.2 ▸ bucketOf_lt _
  obtain ⟨hlt, hget⟩ := List.getElem?_eq_some_iff.mp hp
  have cut : q.chain b = (q.chain b).take pos ++ i :: (q.chain b).drop (pos + 1) := by
    rw [← hget, List.cons_getElem_drop_succ, List.take_append_drop]
  generalize hA : (q.chain b).take pos = A at cut
  generalize hB : (q.chain b).drop (pos + 1) = B at cut
  have nd : (A ++ i :: B).Nodup := cut ▸ c.once b
  have nA : i ∉ A ∧ i ∉ B := by
    have := List.nodup_append.mp nd
    exact ⟨fun h => this.2.2 i h i (by simp) rfl, (List.nodup_cons.mp this.2.1).1⟩
  have last : ∀ k, pos = k + 1 → A.getLast? = (q.chain b)[k]? := fun k hk => by
    subst hk
    rw [← hA, List.getLast?_take]
    simp [show k < (q.chain b).length by omega]
  have zero : pos = 0 → A = [] := fun h => by rw [← hA, h]; simp
  have sl : ∀ j, ((q.unlink b i pos).slots.set slotSpec i Slot.cleared).get slotSpec j =
      if j = i then Slot.cleared else if A.getLast? = some j then
        { q.slots.get slotSpec j with link := (q.slots.get slotSpec i).link } else q.slots.get slotSpec j := by
    intro j
    unfold QuoteEngine.unlink
    dsimp only
    split
    · rw [slots_set _ _ _ _ ws hi, zero rfl]; simp
    · rename_i k
      have hk : ∃ before, (q.chain b)[k]? = some before := ⟨_, List.getElem?_eq_getElem (by omega)⟩
      obtain ⟨before, hbef⟩ := hk
      rw [hbef]
      have hlast : A.getLast? = some before := by rw [last k rfl, hbef]
      have hlb : before < 256 := occupied_lt ((c.members b before).1 (List.mem_of_getElem? hbef)).1
      dsimp only
      rw [slots_set _ _ _ _ (Tab.set_wf _ _ _ _ ws) hi, slots_set _ _ _ _ ws hlb, hlast]
      by_cases h : j = before
      · subst h; simp
      · have h' : ¬before = j := fun x => h x.symm
        simp [h, h']
  have hd : ∀ d, (q.unlink b i pos).heads.get headSpec d =
      if d = b ∧ A = [] then (q.slots.get slotSpec i).link else q.heads.get headSpec d := by
    intro d
    unfold QuoteEngine.unlink
    dsimp only
    split
    · rw [heads_set _ _ _ _ wh hb, zero rfl]; simp
    · rename_i k
      have : A ≠ [] := by
        intro x
        have := last k rfl
        rw [x, List.getElem?_eq_getElem (by omega)] at this
        simp at this
      split <;> simp [this]
  have keep : ∀ j, j ≠ i → (((q.unlink b i pos).slots.set slotSpec i Slot.cleared).get slotSpec j).occupied =
      (q.slots.get slotSpec j).occupied ∧ (((q.unlink b i pos).slots.set slotSpec i Slot.cleared).get slotSpec j).key =
      (q.slots.get slotSpec j).key := fun j h => by
    rw [sl j, if_neg h]; split <;> exact ⟨rfl, rfl⟩
  have self : ((q.unlink b i pos).slots.set slotSpec i Slot.cleared).get slotSpec i = Slot.cleared := by
    rw [sl i, if_pos rfl]
  have other : ∀ d, d ≠ b → i ∉ q.chain d := fun d h x => h (by rw [← ((c.members d i).1 x).2, mi.2])
  refine .of_linked (fun d => if d = b then A ++ B else q.chain d) (fun d => ?_) (fun d => ?_)
    (fun d j => ?_) (fun j k => ?_) (fun j => ?_)
  · dsimp only
    rw [hd d]
    by_cases e : d = b
    · subst e
      have L := c.linked d
      rw [cut] at L
      have := Linked.remove (slots' := (q.unlink d i pos).slots.set slotSpec i Slot.cleared) L nd (fun j hj => by
          have : j ≠ i := fun x => by subst x; rcases List.mem_append.mp hj with h | h; exacts [nA.1 h, nA.2 h]
          rw [sl j, if_neg this]; split <;> rfl)
      simpa using this
    · simp only [e, false_and, if_false]
      refine (c.linked d).congr fun j hj => ?_
      have h1 : j ≠ i := fun x => other d e (x ▸ hj)
      have h2 : A.getLast? ≠ some j := fun x => e (by
        have : j ∈ q.chain b := by rw [cut]; simp [List.mem_of_getLast? x]
        rw [← ((c.members d j).1 hj).2, ((c.members b j).1 this).2])
      rw [sl j, if_neg h1, if_neg h2]
  · split
    · have := List.nodup_append.mp nd
      refine List.nodup_append.mpr ⟨this.1, (List.nodup_cons.mp this.2.1).2, fun a ha d hd => this.2.2 a ha d (by simp [hd])⟩
    · exact c.once d
  · dsimp only
    by_cases h : j = i
    · subst h
      rw [self]
      by_cases e : d = b
      · simp [e, nA.1, nA.2, Slot.cleared]
      · simp [e, other d e, Slot.cleared]
    · rw [(keep j h).1, (keep j h).2, ← c.members d j]
      by_cases e : d = b
      · subst e; rw [cut]; simp [h]
      · simp [e]
  · dsimp only
    by_cases h : j = i
    · subst h; rw [self]; simp [Slot.cleared]
    · by_cases g : k = i
      · subst g; rw [self]; simp [Slot.cleared]
      · rw [(keep j h).1, (keep j h).2, (keep k g).1, (keep k g).2]; exact c.keys j k
  · dsimp only
    by_cases h : j = i
    · subst h; rw [self]; simp [Slot.cleared]
    · rw [(keep j h).1, (keep j h).2]; exact c.nonzero j

end Sys2Proof.Machine
end

