-- ==== Sys2Proof/Laws/State.lean ====
section
/-! SUPPORT. What each named update leaves in each field of State: one lemma per field per update, true by rfl, so that
no later proof unfolds a record update. -/

namespace Sys2Proof.Machine

/-! ### modRing -/

@[simp] theorem State.modRing_ports (s : State) (r : RingId) (f : RingUnit → RingUnit) :
    (s.modRing r f).ports = s.ports := rfl
@[simp] theorem State.modRing_probe (s : State) (r : RingId) (f : RingUnit → RingUnit) :
    (s.modRing r f).probe = s.probe := rfl
@[simp] theorem State.modRing_rings (s : State) (r : RingId) (f : RingUnit → RingUnit) :
    (s.modRing r f).rings = s.rings.set r (f (s.rings.get r)) := rfl
@[simp] theorem State.modRing_memory (s : State) (r : RingId) (f : RingUnit → RingUnit) :
    (s.modRing r f).memory = s.memory := rfl
@[simp] theorem State.modRing_quote (s : State) (r : RingId) (f : RingUnit → RingUnit) :
    (s.modRing r f).quote = s.quote := rfl
@[simp] theorem State.modRing_field (s : State) (r : RingId) (f : RingUnit → RingUnit) :
    (s.modRing r f).field = s.field := rfl
@[simp] theorem State.modRing_highlight (s : State) (r : RingId) (f : RingUnit → RingUnit) :
    (s.modRing r f).highlight = s.highlight := rfl
@[simp] theorem State.modRing_plane (s : State) (r : RingId) (f : RingUnit → RingUnit) :
    (s.modRing r f).plane = s.plane := rfl
@[simp] theorem State.modRing_video (s : State) (r : RingId) (f : RingUnit → RingUnit) :
    (s.modRing r f).video = s.video := rfl
@[simp] theorem State.modRing_control (s : State) (r : RingId) (f : RingUnit → RingUnit) :
    (s.modRing r f).control = s.control := rfl
@[simp] theorem State.modRing_resetHeld (s : State) (r : RingId) (f : RingUnit → RingUnit) :
    (s.modRing r f).resetHeld = s.resetHeld := rfl
@[simp] theorem State.modRing_freeCount (s : State) (r : RingId) (f : RingUnit → RingUnit) :
    (s.modRing r f).freeCount = s.freeCount := rfl
@[simp] theorem State.modRing_pending (s : State) (r : RingId) (f : RingUnit → RingUnit) :
    (s.modRing r f).pending = s.pending := rfl

/-! ### modPort -/

@[simp] theorem State.modPort_ports (s : State) (p : Port) (f : PortUnit → PortUnit) :
    (s.modPort p f).ports = s.ports.set p (f (s.ports.get p)) := rfl
@[simp] theorem State.modPort_probe (s : State) (p : Port) (f : PortUnit → PortUnit) :
    (s.modPort p f).probe = s.probe := rfl
@[simp] theorem State.modPort_rings (s : State) (p : Port) (f : PortUnit → PortUnit) :
    (s.modPort p f).rings = s.rings := rfl
@[simp] theorem State.modPort_memory (s : State) (p : Port) (f : PortUnit → PortUnit) :
    (s.modPort p f).memory = s.memory := rfl
@[simp] theorem State.modPort_quote (s : State) (p : Port) (f : PortUnit → PortUnit) :
    (s.modPort p f).quote = s.quote := rfl
@[simp] theorem State.modPort_field (s : State) (p : Port) (f : PortUnit → PortUnit) :
    (s.modPort p f).field = s.field := rfl
@[simp] theorem State.modPort_highlight (s : State) (p : Port) (f : PortUnit → PortUnit) :
    (s.modPort p f).highlight = s.highlight := rfl
@[simp] theorem State.modPort_plane (s : State) (p : Port) (f : PortUnit → PortUnit) :
    (s.modPort p f).plane = s.plane := rfl
@[simp] theorem State.modPort_video (s : State) (p : Port) (f : PortUnit → PortUnit) :
    (s.modPort p f).video = s.video := rfl
@[simp] theorem State.modPort_control (s : State) (p : Port) (f : PortUnit → PortUnit) :
    (s.modPort p f).control = s.control := rfl
@[simp] theorem State.modPort_resetHeld (s : State) (p : Port) (f : PortUnit → PortUnit) :
    (s.modPort p f).resetHeld = s.resetHeld := rfl
@[simp] theorem State.modPort_freeCount (s : State) (p : Port) (f : PortUnit → PortUnit) :
    (s.modPort p f).freeCount = s.freeCount := rfl
@[simp] theorem State.modPort_pending (s : State) (p : Port) (f : PortUnit → PortUnit) :
    (s.modPort p f).pending = s.pending := rfl

/-! ### sendCause -/

@[simp] theorem State.sendCause_ports (s : State) (p : Port) (c : Cause) :
    (s.sendCause p c).ports =
      s.ports.set p { s.ports.get p with causes := (s.ports.get p).causes ++ [c] } := rfl
@[simp] theorem State.sendCause_probe (s : State) (p : Port) (c : Cause) : (s.sendCause p c).probe = s.probe := rfl
@[simp] theorem State.sendCause_rings (s : State) (p : Port) (c : Cause) : (s.sendCause p c).rings = s.rings := rfl
@[simp] theorem State.sendCause_memory (s : State) (p : Port) (c : Cause) : (s.sendCause p c).memory = s.memory := rfl
@[simp] theorem State.sendCause_quote (s : State) (p : Port) (c : Cause) : (s.sendCause p c).quote = s.quote := rfl
@[simp] theorem State.sendCause_field (s : State) (p : Port) (c : Cause) : (s.sendCause p c).field = s.field := rfl
@[simp] theorem State.sendCause_highlight (s : State) (p : Port) (c : Cause) :
    (s.sendCause p c).highlight = s.highlight := rfl
@[simp] theorem State.sendCause_plane (s : State) (p : Port) (c : Cause) : (s.sendCause p c).plane = s.plane := rfl
@[simp] theorem State.sendCause_video (s : State) (p : Port) (c : Cause) : (s.sendCause p c).video = s.video := rfl
@[simp] theorem State.sendCause_control (s : State) (p : Port) (c : Cause) :
    (s.sendCause p c).control = s.control := rfl
@[simp] theorem State.sendCause_resetHeld (s : State) (p : Port) (c : Cause) :
    (s.sendCause p c).resetHeld = s.resetHeld := rfl
@[simp] theorem State.sendCause_freeCount (s : State) (p : Port) (c : Cause) :
    (s.sendCause p c).freeCount = s.freeCount := rfl
@[simp] theorem State.sendCause_pending (s : State) (p : Port) (c : Cause) :
    (s.sendCause p c).pending = s.pending := rfl

/-! ### sendQuote -/

@[simp] theorem State.sendQuote_ports (s : State) (q : QuoteRequest) : (s.sendQuote q).ports = s.ports := rfl
@[simp] theorem State.sendQuote_probe (s : State) (q : QuoteRequest) : (s.sendQuote q).probe = s.probe := rfl
@[simp] theorem State.sendQuote_rings (s : State) (q : QuoteRequest) : (s.sendQuote q).rings = s.rings := rfl
@[simp] theorem State.sendQuote_memory (s : State) (q : QuoteRequest) : (s.sendQuote q).memory = s.memory := rfl
@[simp] theorem State.sendQuote_quote (s : State) (q : QuoteRequest) :
    (s.sendQuote q).quote = { s.quote with inbox := s.quote.inbox ++ [q] } := rfl
@[simp] theorem State.sendQuote_field (s : State) (q : QuoteRequest) : (s.sendQuote q).field = s.field := rfl
@[simp] theorem State.sendQuote_highlight (s : State) (q : QuoteRequest) :
    (s.sendQuote q).highlight = s.highlight := rfl
@[simp] theorem State.sendQuote_plane (s : State) (q : QuoteRequest) : (s.sendQuote q).plane = s.plane := rfl
@[simp] theorem State.sendQuote_video (s : State) (q : QuoteRequest) : (s.sendQuote q).video = s.video := rfl
@[simp] theorem State.sendQuote_control (s : State) (q : QuoteRequest) : (s.sendQuote q).control = s.control := rfl
@[simp] theorem State.sendQuote_resetHeld (s : State) (q : QuoteRequest) :
    (s.sendQuote q).resetHeld = s.resetHeld := rfl
@[simp] theorem State.sendQuote_freeCount (s : State) (q : QuoteRequest) :
    (s.sendQuote q).freeCount = s.freeCount := rfl
@[simp] theorem State.sendQuote_pending (s : State) (q : QuoteRequest) : (s.sendQuote q).pending = s.pending := rfl

/-! ### sendFields -/

@[simp] theorem State.sendFields_ports (s : State) (qs : List FieldRequest) : (s.sendFields qs).ports = s.ports := rfl
@[simp] theorem State.sendFields_probe (s : State) (qs : List FieldRequest) : (s.sendFields qs).probe = s.probe := rfl
@[simp] theorem State.sendFields_rings (s : State) (qs : List FieldRequest) : (s.sendFields qs).rings = s.rings := rfl
@[simp] theorem State.sendFields_memory (s : State) (qs : List FieldRequest) :
    (s.sendFields qs).memory = s.memory := rfl
@[simp] theorem State.sendFields_quote (s : State) (qs : List FieldRequest) : (s.sendFields qs).quote = s.quote := rfl
@[simp] theorem State.sendFields_field (s : State) (qs : List FieldRequest) :
    (s.sendFields qs).field = { s.field with inbox := s.field.inbox ++ qs } := rfl
@[simp] theorem State.sendFields_highlight (s : State) (qs : List FieldRequest) :
    (s.sendFields qs).highlight = s.highlight := rfl
@[simp] theorem State.sendFields_plane (s : State) (qs : List FieldRequest) : (s.sendFields qs).plane = s.plane := rfl
@[simp] theorem State.sendFields_video (s : State) (qs : List FieldRequest) : (s.sendFields qs).video = s.video := rfl
@[simp] theorem State.sendFields_control (s : State) (qs : List FieldRequest) :
    (s.sendFields qs).control = s.control := rfl
@[simp] theorem State.sendFields_resetHeld (s : State) (qs : List FieldRequest) :
    (s.sendFields qs).resetHeld = s.resetHeld := rfl
@[simp] theorem State.sendFields_freeCount (s : State) (qs : List FieldRequest) :
    (s.sendFields qs).freeCount = s.freeCount := rfl
@[simp] theorem State.sendFields_pending (s : State) (qs : List FieldRequest) :
    (s.sendFields qs).pending = s.pending := rfl

/-! ### sendField -/

@[simp] theorem State.sendField_ports (s : State) (q : FieldRequest) : (s.sendField q).ports = s.ports := rfl
@[simp] theorem State.sendField_probe (s : State) (q : FieldRequest) : (s.sendField q).probe = s.probe := rfl
@[simp] theorem State.sendField_rings (s : State) (q : FieldRequest) : (s.sendField q).rings = s.rings := rfl
@[simp] theorem State.sendField_memory (s : State) (q : FieldRequest) : (s.sendField q).memory = s.memory := rfl
@[simp] theorem State.sendField_quote (s : State) (q : FieldRequest) : (s.sendField q).quote = s.quote := rfl
@[simp] theorem State.sendField_field (s : State) (q : FieldRequest) :
    (s.sendField q).field = { s.field with inbox := s.field.inbox ++ [q] } := rfl
@[simp] theorem State.sendField_highlight (s : State) (q : FieldRequest) :
    (s.sendField q).highlight = s.highlight := rfl
@[simp] theorem State.sendField_plane (s : State) (q : FieldRequest) : (s.sendField q).plane = s.plane := rfl
@[simp] theorem State.sendField_video (s : State) (q : FieldRequest) : (s.sendField q).video = s.video := rfl
@[simp] theorem State.sendField_control (s : State) (q : FieldRequest) : (s.sendField q).control = s.control := rfl
@[simp] theorem State.sendField_resetHeld (s : State) (q : FieldRequest) :
    (s.sendField q).resetHeld = s.resetHeld := rfl
@[simp] theorem State.sendField_freeCount (s : State) (q : FieldRequest) :
    (s.sendField q).freeCount = s.freeCount := rfl
@[simp] theorem State.sendField_pending (s : State) (q : FieldRequest) : (s.sendField q).pending = s.pending := rfl

/-! ### sendPlanes -/

@[simp] theorem State.sendPlanes_ports (s : State) (qs : List PlaneRequest) : (s.sendPlanes qs).ports = s.ports := rfl
@[simp] theorem State.sendPlanes_probe (s : State) (qs : List PlaneRequest) : (s.sendPlanes qs).probe = s.probe := rfl
@[simp] theorem State.sendPlanes_rings (s : State) (qs : List PlaneRequest) : (s.sendPlanes qs).rings = s.rings := rfl
@[simp] theorem State.sendPlanes_memory (s : State) (qs : List PlaneRequest) :
    (s.sendPlanes qs).memory = s.memory := rfl
@[simp] theorem State.sendPlanes_quote (s : State) (qs : List PlaneRequest) : (s.sendPlanes qs).quote = s.quote := rfl
@[simp] theorem State.sendPlanes_field (s : State) (qs : List PlaneRequest) : (s.sendPlanes qs).field = s.field := rfl
@[simp] theorem State.sendPlanes_highlight (s : State) (qs : List PlaneRequest) :
    (s.sendPlanes qs).highlight = s.highlight := rfl
@[simp] theorem State.sendPlanes_plane (s : State) (qs : List PlaneRequest) :
    (s.sendPlanes qs).plane = { s.plane with inbox := s.plane.inbox ++ qs } := rfl
@[simp] theorem State.sendPlanes_video (s : State) (qs : List PlaneRequest) : (s.sendPlanes qs).video = s.video := rfl
@[simp] theorem State.sendPlanes_control (s : State) (qs : List PlaneRequest) :
    (s.sendPlanes qs).control = s.control := rfl
@[simp] theorem State.sendPlanes_resetHeld (s : State) (qs : List PlaneRequest) :
    (s.sendPlanes qs).resetHeld = s.resetHeld := rfl
@[simp] theorem State.sendPlanes_freeCount (s : State) (qs : List PlaneRequest) :
    (s.sendPlanes qs).freeCount = s.freeCount := rfl
@[simp] theorem State.sendPlanes_pending (s : State) (qs : List PlaneRequest) :
    (s.sendPlanes qs).pending = s.pending := rfl

/-! ### sendHighlight -/

@[simp] theorem State.sendHighlight_ports (s : State) (q : HighlightRequest) :
    (s.sendHighlight q).ports = s.ports := rfl
@[simp] theorem State.sendHighlight_probe (s : State) (q : HighlightRequest) :
    (s.sendHighlight q).probe = s.probe := rfl
@[simp] theorem State.sendHighlight_rings (s : State) (q : HighlightRequest) :
    (s.sendHighlight q).rings = s.rings := rfl
@[simp] theorem State.sendHighlight_memory (s : State) (q : HighlightRequest) :
    (s.sendHighlight q).memory = s.memory := rfl
@[simp] theorem State.sendHighlight_quote (s : State) (q : HighlightRequest) :
    (s.sendHighlight q).quote = s.quote := rfl
@[simp] theorem State.sendHighlight_field (s : State) (q : HighlightRequest) :
    (s.sendHighlight q).field = s.field := rfl
@[simp] theorem State.sendHighlight_highlight (s : State) (q : HighlightRequest) :
    (s.sendHighlight q).highlight = { s.highlight with requests := s.highlight.requests ++ [q] } := rfl
@[simp] theorem State.sendHighlight_plane (s : State) (q : HighlightRequest) :
    (s.sendHighlight q).plane = s.plane := rfl
@[simp] theorem State.sendHighlight_video (s : State) (q : HighlightRequest) :
    (s.sendHighlight q).video = s.video := rfl
@[simp] theorem State.sendHighlight_control (s : State) (q : HighlightRequest) :
    (s.sendHighlight q).control = s.control := rfl
@[simp] theorem State.sendHighlight_resetHeld (s : State) (q : HighlightRequest) :
    (s.sendHighlight q).resetHeld = s.resetHeld := rfl
@[simp] theorem State.sendHighlight_freeCount (s : State) (q : HighlightRequest) :
    (s.sendHighlight q).freeCount = s.freeCount := rfl
@[simp] theorem State.sendHighlight_pending (s : State) (q : HighlightRequest) :
    (s.sendHighlight q).pending = s.pending := rfl

/-! ### sendRing -/

@[simp] theorem State.sendRing_ports (s : State) (r : RingId) (i : RingInput) :
    (s.sendRing r i).ports = s.ports := rfl
@[simp] theorem State.sendRing_probe (s : State) (r : RingId) (i : RingInput) :
    (s.sendRing r i).probe = s.probe := rfl
@[simp] theorem State.sendRing_rings (s : State) (r : RingId) (i : RingInput) :
    (s.sendRing r i).rings =
      s.rings.set r { s.rings.get r with input := (s.rings.get r).input ++ [i] } := rfl
@[simp] theorem State.sendRing_memory (s : State) (r : RingId) (i : RingInput) :
    (s.sendRing r i).memory = s.memory := rfl
@[simp] theorem State.sendRing_quote (s : State) (r : RingId) (i : RingInput) :
    (s.sendRing r i).quote = s.quote := rfl
@[simp] theorem State.sendRing_field (s : State) (r : RingId) (i : RingInput) :
    (s.sendRing r i).field = s.field := rfl
@[simp] theorem State.sendRing_highlight (s : State) (r : RingId) (i : RingInput) :
    (s.sendRing r i).highlight = s.highlight := rfl
@[simp] theorem State.sendRing_plane (s : State) (r : RingId) (i : RingInput) :
    (s.sendRing r i).plane = s.plane := rfl
@[simp] theorem State.sendRing_video (s : State) (r : RingId) (i : RingInput) :
    (s.sendRing r i).video = s.video := rfl
@[simp] theorem State.sendRing_control (s : State) (r : RingId) (i : RingInput) :
    (s.sendRing r i).control = s.control := rfl
@[simp] theorem State.sendRing_resetHeld (s : State) (r : RingId) (i : RingInput) :
    (s.sendRing r i).resetHeld = s.resetHeld := rfl
@[simp] theorem State.sendRing_freeCount (s : State) (r : RingId) (i : RingInput) :
    (s.sendRing r i).freeCount = s.freeCount := rfl
@[simp] theorem State.sendRing_pending (s : State) (r : RingId) (i : RingInput) :
    (s.sendRing r i).pending = s.pending := rfl

/-! ### completeCommand -/

@[simp] theorem State.completeCommand_ports (s : State) (st : Status) (w : Word) :
    (s.completeCommand st w).ports = s.ports := rfl
@[simp] theorem State.completeCommand_probe (s : State) (st : Status) (w : Word) :
    (s.completeCommand st w).probe = s.probe := rfl
@[simp] theorem State.completeCommand_rings (s : State) (st : Status) (w : Word) :
    (s.completeCommand st w).rings =
      s.rings.set .t { s.rings.t with input := s.rings.t.input ++ [.outcome st w] } := rfl
@[simp] theorem State.completeCommand_memory (s : State) (st : Status) (w : Word) :
    (s.completeCommand st w).memory = s.memory := rfl
@[simp] theorem State.completeCommand_quote (s : State) (st : Status) (w : Word) :
    (s.completeCommand st w).quote = s.quote := rfl
@[simp] theorem State.completeCommand_field (s : State) (st : Status) (w : Word) :
    (s.completeCommand st w).field = s.field := rfl
@[simp] theorem State.completeCommand_highlight (s : State) (st : Status) (w : Word) :
    (s.completeCommand st w).highlight = s.highlight := rfl
@[simp] theorem State.completeCommand_plane (s : State) (st : Status) (w : Word) :
    (s.completeCommand st w).plane = s.plane := rfl
@[simp] theorem State.completeCommand_video (s : State) (st : Status) (w : Word) :
    (s.completeCommand st w).video = s.video := rfl
@[simp] theorem State.completeCommand_control (s : State) (st : Status) (w : Word) :
    (s.completeCommand st w).control = s.control := rfl
@[simp] theorem State.completeCommand_resetHeld (s : State) (st : Status) (w : Word) :
    (s.completeCommand st w).resetHeld = s.resetHeld := rfl
@[simp] theorem State.completeCommand_freeCount (s : State) (st : Status) (w : Word) :
    (s.completeCommand st w).freeCount = s.freeCount := rfl
@[simp] theorem State.completeCommand_pending (s : State) (st : Status) (w : Word) :
    (s.completeCommand st w).pending = s.pending := rfl

/-! ### sendMemory -/

@[simp] theorem State.sendMemory_ports (s : State) (q : Requester) (tx : Transaction) :
    (s.sendMemory q tx).ports = s.ports := rfl
@[simp] theorem State.sendMemory_probe (s : State) (q : Requester) (tx : Transaction) :
    (s.sendMemory q tx).probe = s.probe := rfl
@[simp] theorem State.sendMemory_rings (s : State) (q : Requester) (tx : Transaction) :
    (s.sendMemory q tx).rings = s.rings := rfl
@[simp] theorem State.sendMemory_memory (s : State) (q : Requester) (tx : Transaction) :
    (s.sendMemory q tx).memory = { s.memory with sent := s.memory.sent.set q (some tx) } := rfl
@[simp] theorem State.sendMemory_quote (s : State) (q : Requester) (tx : Transaction) :
    (s.sendMemory q tx).quote = s.quote := rfl
@[simp] theorem State.sendMemory_field (s : State) (q : Requester) (tx : Transaction) :
    (s.sendMemory q tx).field = s.field := rfl
@[simp] theorem State.sendMemory_highlight (s : State) (q : Requester) (tx : Transaction) :
    (s.sendMemory q tx).highlight = s.highlight := rfl
@[simp] theorem State.sendMemory_plane (s : State) (q : Requester) (tx : Transaction) :
    (s.sendMemory q tx).plane = s.plane := rfl
@[simp] theorem State.sendMemory_video (s : State) (q : Requester) (tx : Transaction) :
    (s.sendMemory q tx).video = s.video := rfl
@[simp] theorem State.sendMemory_control (s : State) (q : Requester) (tx : Transaction) :
    (s.sendMemory q tx).control = s.control := rfl
@[simp] theorem State.sendMemory_resetHeld (s : State) (q : Requester) (tx : Transaction) :
    (s.sendMemory q tx).resetHeld = s.resetHeld := rfl
@[simp] theorem State.sendMemory_freeCount (s : State) (q : Requester) (tx : Transaction) :
    (s.sendMemory q tx).freeCount = s.freeCount := rfl
@[simp] theorem State.sendMemory_pending (s : State) (q : Requester) (tx : Transaction) :
    (s.sendMemory q tx).pending = s.pending := rfl

/-! ### setSlot -/

@[simp] theorem State.setSlot_ports (s : State) (i : Nat) (v : Slot) : (s.setSlot i v).ports = s.ports := rfl
@[simp] theorem State.setSlot_probe (s : State) (i : Nat) (v : Slot) : (s.setSlot i v).probe = s.probe := rfl
@[simp] theorem State.setSlot_rings (s : State) (i : Nat) (v : Slot) : (s.setSlot i v).rings = s.rings := rfl
@[simp] theorem State.setSlot_memory (s : State) (i : Nat) (v : Slot) : (s.setSlot i v).memory = s.memory := rfl
@[simp] theorem State.setSlot_quote (s : State) (i : Nat) (v : Slot) :
    (s.setSlot i v).quote = { s.quote with slots := s.quote.slots.set slotSpec i v } := rfl
@[simp] theorem State.setSlot_field (s : State) (i : Nat) (v : Slot) : (s.setSlot i v).field = s.field := rfl
@[simp] theorem State.setSlot_highlight (s : State) (i : Nat) (v : Slot) :
    (s.setSlot i v).highlight = s.highlight := rfl
@[simp] theorem State.setSlot_plane (s : State) (i : Nat) (v : Slot) : (s.setSlot i v).plane = s.plane := rfl
@[simp] theorem State.setSlot_video (s : State) (i : Nat) (v : Slot) : (s.setSlot i v).video = s.video := rfl
@[simp] theorem State.setSlot_control (s : State) (i : Nat) (v : Slot) : (s.setSlot i v).control = s.control := rfl
@[simp] theorem State.setSlot_resetHeld (s : State) (i : Nat) (v : Slot) :
    (s.setSlot i v).resetHeld = s.resetHeld := rfl
@[simp] theorem State.setSlot_freeCount (s : State) (i : Nat) (v : Slot) :
    (s.setSlot i v).freeCount = s.freeCount := rfl
@[simp] theorem State.setSlot_pending (s : State) (i : Nat) (v : Slot) : (s.setSlot i v).pending = s.pending := rfl

/-! ### setRecord -/

@[simp] theorem State.setRecord_ports (s : State) (f : Nat) (v : FieldRec) : (s.setRecord f v).ports = s.ports := rfl
@[simp] theorem State.setRecord_probe (s : State) (f : Nat) (v : FieldRec) : (s.setRecord f v).probe = s.probe := rfl
@[simp] theorem State.setRecord_rings (s : State) (f : Nat) (v : FieldRec) : (s.setRecord f v).rings = s.rings := rfl
@[simp] theorem State.setRecord_memory (s : State) (f : Nat) (v : FieldRec) :
    (s.setRecord f v).memory = s.memory := rfl
@[simp] theorem State.setRecord_quote (s : State) (f : Nat) (v : FieldRec) : (s.setRecord f v).quote = s.quote := rfl
@[simp] theorem State.setRecord_field (s : State) (f : Nat) (v : FieldRec) :
    (s.setRecord f v).field =
      { s.field with records := s.field.records.set fieldSpec f v } := rfl
@[simp] theorem State.setRecord_highlight (s : State) (f : Nat) (v : FieldRec) :
    (s.setRecord f v).highlight = s.highlight := rfl
@[simp] theorem State.setRecord_plane (s : State) (f : Nat) (v : FieldRec) : (s.setRecord f v).plane = s.plane := rfl
@[simp] theorem State.setRecord_video (s : State) (f : Nat) (v : FieldRec) : (s.setRecord f v).video = s.video := rfl
@[simp] theorem State.setRecord_control (s : State) (f : Nat) (v : FieldRec) :
    (s.setRecord f v).control = s.control := rfl
@[simp] theorem State.setRecord_resetHeld (s : State) (f : Nat) (v : FieldRec) :
    (s.setRecord f v).resetHeld = s.resetHeld := rfl
@[simp] theorem State.setRecord_freeCount (s : State) (f : Nat) (v : FieldRec) :
    (s.setRecord f v).freeCount = s.freeCount := rfl
@[simp] theorem State.setRecord_pending (s : State) (f : Nat) (v : FieldRec) :
    (s.setRecord f v).pending = s.pending := rfl

/-! ### enterReady -/

@[simp] theorem State.enterReady_ports (s : State) (r : RingId) : (s.enterReady r).ports = s.ports := rfl
@[simp] theorem State.enterReady_probe (s : State) (r : RingId) : (s.enterReady r).probe = s.probe := rfl
@[simp] theorem State.enterReady_rings (s : State) (r : RingId) :
    (s.enterReady r).rings = s.rings.set r { s.rings.get r with phase := .status } := rfl
@[simp] theorem State.enterReady_memory (s : State) (r : RingId) :
    (s.enterReady r).memory =
      { s.memory with sent := s.memory.sent.set (.ring r) (some ⟨.statusRead r, (s.rings.get r).descriptorAddress, 0, [], .requesting⟩) } := rfl
@[simp] theorem State.enterReady_quote (s : State) (r : RingId) : (s.enterReady r).quote = s.quote := rfl
@[simp] theorem State.enterReady_field (s : State) (r : RingId) : (s.enterReady r).field = s.field := rfl
@[simp] theorem State.enterReady_highlight (s : State) (r : RingId) : (s.enterReady r).highlight = s.highlight := rfl
@[simp] theorem State.enterReady_plane (s : State) (r : RingId) : (s.enterReady r).plane = s.plane := rfl
@[simp] theorem State.enterReady_video (s : State) (r : RingId) : (s.enterReady r).video = s.video := rfl
@[simp] theorem State.enterReady_control (s : State) (r : RingId) : (s.enterReady r).control = s.control := rfl
@[simp] theorem State.enterReady_resetHeld (s : State) (r : RingId) : (s.enterReady r).resetHeld = s.resetHeld := rfl
@[simp] theorem State.enterReady_freeCount (s : State) (r : RingId) : (s.enterReady r).freeCount = s.freeCount := rfl
@[simp] theorem State.enterReady_pending (s : State) (r : RingId) : (s.enterReady r).pending = s.pending := rfl

/-! ### dropInput -/

@[simp] theorem State.dropInput_ports (s : State) (r : RingId) : (s.dropInput r).ports = s.ports := rfl
@[simp] theorem State.dropInput_probe (s : State) (r : RingId) : (s.dropInput r).probe = s.probe := rfl
@[simp] theorem State.dropInput_rings (s : State) (r : RingId) :
    (s.dropInput r).rings =
      s.rings.set r { s.rings.get r with input := (s.rings.get r).input.tail } := rfl
@[simp] theorem State.dropInput_memory (s : State) (r : RingId) : (s.dropInput r).memory = s.memory := rfl
@[simp] theorem State.dropInput_quote (s : State) (r : RingId) : (s.dropInput r).quote = s.quote := rfl
@[simp] theorem State.dropInput_field (s : State) (r : RingId) : (s.dropInput r).field = s.field := rfl
@[simp] theorem State.dropInput_highlight (s : State) (r : RingId) : (s.dropInput r).highlight = s.highlight := rfl
@[simp] theorem State.dropInput_plane (s : State) (r : RingId) : (s.dropInput r).plane = s.plane := rfl
@[simp] theorem State.dropInput_video (s : State) (r : RingId) : (s.dropInput r).video = s.video := rfl
@[simp] theorem State.dropInput_control (s : State) (r : RingId) : (s.dropInput r).control = s.control := rfl
@[simp] theorem State.dropInput_resetHeld (s : State) (r : RingId) : (s.dropInput r).resetHeld = s.resetHeld := rfl
@[simp] theorem State.dropInput_freeCount (s : State) (r : RingId) : (s.dropInput r).freeCount = s.freeCount := rfl
@[simp] theorem State.dropInput_pending (s : State) (r : RingId) : (s.dropInput r).pending = s.pending := rfl

/-! ### setPhase -/

@[simp] theorem State.setPhase_ports (s : State) (r : RingId) (p : FetchPhase) :
    (s.setPhase r p).ports = s.ports := rfl
@[simp] theorem State.setPhase_probe (s : State) (r : RingId) (p : FetchPhase) :
    (s.setPhase r p).probe = s.probe := rfl
@[simp] theorem State.setPhase_rings (s : State) (r : RingId) (p : FetchPhase) :
    (s.setPhase r p).rings = s.rings.set r { s.rings.get r with phase := p } := rfl
@[simp] theorem State.setPhase_memory (s : State) (r : RingId) (p : FetchPhase) :
    (s.setPhase r p).memory = s.memory := rfl
@[simp] theorem State.setPhase_quote (s : State) (r : RingId) (p : FetchPhase) :
    (s.setPhase r p).quote = s.quote := rfl
@[simp] theorem State.setPhase_field (s : State) (r : RingId) (p : FetchPhase) :
    (s.setPhase r p).field = s.field := rfl
@[simp] theorem State.setPhase_highlight (s : State) (r : RingId) (p : FetchPhase) :
    (s.setPhase r p).highlight = s.highlight := rfl
@[simp] theorem State.setPhase_plane (s : State) (r : RingId) (p : FetchPhase) :
    (s.setPhase r p).plane = s.plane := rfl
@[simp] theorem State.setPhase_video (s : State) (r : RingId) (p : FetchPhase) :
    (s.setPhase r p).video = s.video := rfl
@[simp] theorem State.setPhase_control (s : State) (r : RingId) (p : FetchPhase) :
    (s.setPhase r p).control = s.control := rfl
@[simp] theorem State.setPhase_resetHeld (s : State) (r : RingId) (p : FetchPhase) :
    (s.setPhase r p).resetHeld = s.resetHeld := rfl
@[simp] theorem State.setPhase_freeCount (s : State) (r : RingId) (p : FetchPhase) :
    (s.setPhase r p).freeCount = s.freeCount := rfl
@[simp] theorem State.setPhase_pending (s : State) (r : RingId) (p : FetchPhase) :
    (s.setPhase r p).pending = s.pending := rfl

/-! ### dropQuote -/

@[simp] theorem State.dropQuote_ports (s : State) : (s.dropQuote).ports = s.ports := rfl
@[simp] theorem State.dropQuote_probe (s : State) : (s.dropQuote).probe = s.probe := rfl
@[simp] theorem State.dropQuote_rings (s : State) : (s.dropQuote).rings = s.rings := rfl
@[simp] theorem State.dropQuote_memory (s : State) : (s.dropQuote).memory = s.memory := rfl
@[simp] theorem State.dropQuote_quote (s : State) :
    (s.dropQuote).quote = { s.quote with inbox := s.quote.inbox.tail } := rfl
@[simp] theorem State.dropQuote_field (s : State) : (s.dropQuote).field = s.field := rfl
@[simp] theorem State.dropQuote_highlight (s : State) : (s.dropQuote).highlight = s.highlight := rfl
@[simp] theorem State.dropQuote_plane (s : State) : (s.dropQuote).plane = s.plane := rfl
@[simp] theorem State.dropQuote_video (s : State) : (s.dropQuote).video = s.video := rfl
@[simp] theorem State.dropQuote_control (s : State) : (s.dropQuote).control = s.control := rfl
@[simp] theorem State.dropQuote_resetHeld (s : State) : (s.dropQuote).resetHeld = s.resetHeld := rfl
@[simp] theorem State.dropQuote_freeCount (s : State) : (s.dropQuote).freeCount = s.freeCount := rfl
@[simp] theorem State.dropQuote_pending (s : State) : (s.dropQuote).pending = s.pending := rfl

/-! ### dropField -/

@[simp] theorem State.dropField_ports (s : State) : (s.dropField).ports = s.ports := rfl
@[simp] theorem State.dropField_probe (s : State) : (s.dropField).probe = s.probe := rfl
@[simp] theorem State.dropField_rings (s : State) : (s.dropField).rings = s.rings := rfl
@[simp] theorem State.dropField_memory (s : State) : (s.dropField).memory = s.memory := rfl
@[simp] theorem State.dropField_quote (s : State) : (s.dropField).quote = s.quote := rfl
@[simp] theorem State.dropField_field (s : State) :
    (s.dropField).field = { s.field with inbox := s.field.inbox.tail } := rfl
@[simp] theorem State.dropField_highlight (s : State) : (s.dropField).highlight = s.highlight := rfl
@[simp] theorem State.dropField_plane (s : State) : (s.dropField).plane = s.plane := rfl
@[simp] theorem State.dropField_video (s : State) : (s.dropField).video = s.video := rfl
@[simp] theorem State.dropField_control (s : State) : (s.dropField).control = s.control := rfl
@[simp] theorem State.dropField_resetHeld (s : State) : (s.dropField).resetHeld = s.resetHeld := rfl
@[simp] theorem State.dropField_freeCount (s : State) : (s.dropField).freeCount = s.freeCount := rfl
@[simp] theorem State.dropField_pending (s : State) : (s.dropField).pending = s.pending := rfl

/-! ### dropCommand -/

@[simp] theorem State.dropCommand_ports (s : State) : (s.dropCommand).ports = s.ports := rfl
@[simp] theorem State.dropCommand_probe (s : State) : (s.dropCommand).probe = s.probe := rfl
@[simp] theorem State.dropCommand_rings (s : State) : (s.dropCommand).rings = s.rings := rfl
@[simp] theorem State.dropCommand_memory (s : State) : (s.dropCommand).memory = s.memory := rfl
@[simp] theorem State.dropCommand_quote (s : State) : (s.dropCommand).quote = s.quote := rfl
@[simp] theorem State.dropCommand_field (s : State) : (s.dropCommand).field = { s.field with command := none } := rfl
@[simp] theorem State.dropCommand_highlight (s : State) : (s.dropCommand).highlight = s.highlight := rfl
@[simp] theorem State.dropCommand_plane (s : State) : (s.dropCommand).plane = s.plane := rfl
@[simp] theorem State.dropCommand_video (s : State) : (s.dropCommand).video = s.video := rfl
@[simp] theorem State.dropCommand_control (s : State) : (s.dropCommand).control = s.control := rfl
@[simp] theorem State.dropCommand_resetHeld (s : State) : (s.dropCommand).resetHeld = s.resetHeld := rfl
@[simp] theorem State.dropCommand_freeCount (s : State) : (s.dropCommand).freeCount = s.freeCount := rfl
@[simp] theorem State.dropCommand_pending (s : State) : (s.dropCommand).pending = s.pending := rfl

/-! ### setSweep -/

@[simp] theorem State.setSweep_ports (s : State) (w : Sweep) : (s.setSweep w).ports = s.ports := rfl
@[simp] theorem State.setSweep_probe (s : State) (w : Sweep) : (s.setSweep w).probe = s.probe := rfl
@[simp] theorem State.setSweep_rings (s : State) (w : Sweep) : (s.setSweep w).rings = s.rings := rfl
@[simp] theorem State.setSweep_memory (s : State) (w : Sweep) : (s.setSweep w).memory = s.memory := rfl
@[simp] theorem State.setSweep_quote (s : State) (w : Sweep) : (s.setSweep w).quote = s.quote := rfl
@[simp] theorem State.setSweep_field (s : State) (w : Sweep) :
    (s.setSweep w).field = { s.field with sweep := w } := rfl
@[simp] theorem State.setSweep_highlight (s : State) (w : Sweep) : (s.setSweep w).highlight = s.highlight := rfl
@[simp] theorem State.setSweep_plane (s : State) (w : Sweep) : (s.setSweep w).plane = s.plane := rfl
@[simp] theorem State.setSweep_video (s : State) (w : Sweep) : (s.setSweep w).video = s.video := rfl
@[simp] theorem State.setSweep_control (s : State) (w : Sweep) : (s.setSweep w).control = s.control := rfl
@[simp] theorem State.setSweep_resetHeld (s : State) (w : Sweep) : (s.setSweep w).resetHeld = s.resetHeld := rfl
@[simp] theorem State.setSweep_freeCount (s : State) (w : Sweep) : (s.setSweep w).freeCount = s.freeCount := rfl
@[simp] theorem State.setSweep_pending (s : State) (w : Sweep) : (s.setSweep w).pending = s.pending := rfl

/-! ### markSpan -/

@[simp] theorem State.markSpan_ports (s : State) (row col width : Nat) (v : Option Nat) :
    (s.markSpan row col width v).ports = s.ports := rfl
@[simp] theorem State.markSpan_probe (s : State) (row col width : Nat) (v : Option Nat) :
    (s.markSpan row col width v).probe = s.probe := rfl
@[simp] theorem State.markSpan_rings (s : State) (row col width : Nat) (v : Option Nat) :
    (s.markSpan row col width v).rings = s.rings := rfl
@[simp] theorem State.markSpan_memory (s : State) (row col width : Nat) (v : Option Nat) :
    (s.markSpan row col width v).memory = s.memory := rfl
@[simp] theorem State.markSpan_quote (s : State) (row col width : Nat) (v : Option Nat) :
    (s.markSpan row col width v).quote = s.quote := rfl
@[simp] theorem State.markSpan_field (s : State) (row col width : Nat) (v : Option Nat) :
    (s.markSpan row col width v).field =
      { s.field with occupancy := markCells s.field.occupancy (s.spanCells row col width) v } := rfl
@[simp] theorem State.markSpan_highlight (s : State) (row col width : Nat) (v : Option Nat) :
    (s.markSpan row col width v).highlight = s.highlight := rfl
@[simp] theorem State.markSpan_plane (s : State) (row col width : Nat) (v : Option Nat) :
    (s.markSpan row col width v).plane = s.plane := rfl
@[simp] theorem State.markSpan_video (s : State) (row col width : Nat) (v : Option Nat) :
    (s.markSpan row col width v).video = s.video := rfl
@[simp] theorem State.markSpan_control (s : State) (row col width : Nat) (v : Option Nat) :
    (s.markSpan row col width v).control = s.control := rfl
@[simp] theorem State.markSpan_resetHeld (s : State) (row col width : Nat) (v : Option Nat) :
    (s.markSpan row col width v).resetHeld = s.resetHeld := rfl
@[simp] theorem State.markSpan_freeCount (s : State) (row col width : Nat) (v : Option Nat) :
    (s.markSpan row col width v).freeCount = s.freeCount := rfl
@[simp] theorem State.markSpan_pending (s : State) (row col width : Nat) (v : Option Nat) :
    (s.markSpan row col width v).pending = s.pending := rfl

/-! ### dropPlane -/

@[simp] theorem State.dropPlane_ports (s : State) : (s.dropPlane).ports = s.ports := rfl
@[simp] theorem State.dropPlane_probe (s : State) : (s.dropPlane).probe = s.probe := rfl
@[simp] theorem State.dropPlane_rings (s : State) : (s.dropPlane).rings = s.rings := rfl
@[simp] theorem State.dropPlane_memory (s : State) : (s.dropPlane).memory = s.memory := rfl
@[simp] theorem State.dropPlane_quote (s : State) : (s.dropPlane).quote = s.quote := rfl
@[simp] theorem State.dropPlane_field (s : State) : (s.dropPlane).field = s.field := rfl
@[simp] theorem State.dropPlane_highlight (s : State) : (s.dropPlane).highlight = s.highlight := rfl
@[simp] theorem State.dropPlane_plane (s : State) :
    (s.dropPlane).plane = { s.plane with inbox := s.plane.inbox.tail } := rfl
@[simp] theorem State.dropPlane_video (s : State) : (s.dropPlane).video = s.video := rfl
@[simp] theorem State.dropPlane_control (s : State) : (s.dropPlane).control = s.control := rfl
@[simp] theorem State.dropPlane_resetHeld (s : State) : (s.dropPlane).resetHeld = s.resetHeld := rfl
@[simp] theorem State.dropPlane_freeCount (s : State) : (s.dropPlane).freeCount = s.freeCount := rfl
@[simp] theorem State.dropPlane_pending (s : State) : (s.dropPlane).pending = s.pending := rfl

/-! ### setDevice -/

@[simp] theorem State.setDevice_ports (s : State) (d : DeviceState) : (s.setDevice d).ports = s.ports := rfl
@[simp] theorem State.setDevice_probe (s : State) (d : DeviceState) : (s.setDevice d).probe = s.probe := rfl
@[simp] theorem State.setDevice_rings (s : State) (d : DeviceState) : (s.setDevice d).rings = s.rings := rfl
@[simp] theorem State.setDevice_memory (s : State) (d : DeviceState) : (s.setDevice d).memory = s.memory := rfl
@[simp] theorem State.setDevice_quote (s : State) (d : DeviceState) : (s.setDevice d).quote = s.quote := rfl
@[simp] theorem State.setDevice_field (s : State) (d : DeviceState) : (s.setDevice d).field = s.field := rfl
@[simp] theorem State.setDevice_highlight (s : State) (d : DeviceState) :
    (s.setDevice d).highlight = s.highlight := rfl
@[simp] theorem State.setDevice_plane (s : State) (d : DeviceState) : (s.setDevice d).plane = s.plane := rfl
@[simp] theorem State.setDevice_video (s : State) (d : DeviceState) : (s.setDevice d).video = s.video := rfl
@[simp] theorem State.setDevice_control (s : State) (d : DeviceState) :
    (s.setDevice d).control = { s.control with device := d } := rfl
@[simp] theorem State.setDevice_resetHeld (s : State) (d : DeviceState) :
    (s.setDevice d).resetHeld = s.resetHeld := rfl
@[simp] theorem State.setDevice_freeCount (s : State) (d : DeviceState) :
    (s.setDevice d).freeCount = s.freeCount := rfl
@[simp] theorem State.setDevice_pending (s : State) (d : DeviceState) : (s.setDevice d).pending = s.pending := rfl

/-! ### endStart -/

@[simp] theorem State.endStart_ports (s : State) (d : DeviceState) (o : StartOutcome) :
    (s.endStart d o).ports =
      s.ports.set .t { s.ports.t with causes := s.ports.t.causes ++ [.startDone] } := rfl
@[simp] theorem State.endStart_probe (s : State) (d : DeviceState) (o : StartOutcome) :
    (s.endStart d o).probe = s.probe := rfl
@[simp] theorem State.endStart_rings (s : State) (d : DeviceState) (o : StartOutcome) :
    (s.endStart d o).rings = s.rings := rfl
@[simp] theorem State.endStart_memory (s : State) (d : DeviceState) (o : StartOutcome) :
    (s.endStart d o).memory = s.memory := rfl
@[simp] theorem State.endStart_quote (s : State) (d : DeviceState) (o : StartOutcome) :
    (s.endStart d o).quote = s.quote := rfl
@[simp] theorem State.endStart_field (s : State) (d : DeviceState) (o : StartOutcome) :
    (s.endStart d o).field = s.field := rfl
@[simp] theorem State.endStart_highlight (s : State) (d : DeviceState) (o : StartOutcome) :
    (s.endStart d o).highlight = s.highlight := rfl
@[simp] theorem State.endStart_plane (s : State) (d : DeviceState) (o : StartOutcome) :
    (s.endStart d o).plane = s.plane := rfl
@[simp] theorem State.endStart_video (s : State) (d : DeviceState) (o : StartOutcome) :
    (s.endStart d o).video = { s.video with glyphWrite := none } := rfl
@[simp] theorem State.endStart_control (s : State) (d : DeviceState) (o : StartOutcome) :
    (s.endStart d o).control =
      { s.control with device := d, lastStart := o, stage := .idle, block := [], loaderInput := none } := rfl
@[simp] theorem State.endStart_resetHeld (s : State) (d : DeviceState) (o : StartOutcome) :
    (s.endStart d o).resetHeld = s.resetHeld := rfl
@[simp] theorem State.endStart_freeCount (s : State) (d : DeviceState) (o : StartOutcome) :
    (s.endStart d o).freeCount = s.freeCount := rfl
@[simp] theorem State.endStart_pending (s : State) (d : DeviceState) (o : StartOutcome) :
    (s.endStart d o).pending = s.pending := rfl

/-! ### useFree -/

@[simp] theorem State.useFree_ports (s : State) : (s.useFree).ports = s.ports := rfl
@[simp] theorem State.useFree_probe (s : State) : (s.useFree).probe = s.probe := rfl
@[simp] theorem State.useFree_rings (s : State) : (s.useFree).rings = s.rings := rfl
@[simp] theorem State.useFree_memory (s : State) : (s.useFree).memory = s.memory := rfl
@[simp] theorem State.useFree_quote (s : State) : (s.useFree).quote = s.quote := rfl
@[simp] theorem State.useFree_field (s : State) : (s.useFree).field = s.field := rfl
@[simp] theorem State.useFree_highlight (s : State) : (s.useFree).highlight = s.highlight := rfl
@[simp] theorem State.useFree_plane (s : State) : (s.useFree).plane = s.plane := rfl
@[simp] theorem State.useFree_video (s : State) : (s.useFree).video = s.video := rfl
@[simp] theorem State.useFree_control (s : State) : (s.useFree).control = s.control := rfl
@[simp] theorem State.useFree_resetHeld (s : State) : (s.useFree).resetHeld = s.resetHeld := rfl
@[simp] theorem State.useFree_freeCount (s : State) : (s.useFree).freeCount = s.freeCount + 1 := rfl
@[simp] theorem State.useFree_pending (s : State) : (s.useFree).pending = s.pending := rfl

/-! ### commitTrigger -/

@[simp] theorem State.commitTrigger_ports (s : State) : s.commitTrigger.ports = s.ports := rfl
@[simp] theorem State.commitTrigger_probe (s : State) : s.commitTrigger.probe = s.probe := rfl
@[simp] theorem State.commitTrigger_rings (s : State) : s.commitTrigger.rings = s.rings := rfl
@[simp] theorem State.commitTrigger_memory (s : State) : s.commitTrigger.memory = s.memory := rfl
@[simp] theorem State.commitTrigger_quote (s : State) : s.commitTrigger.quote = s.quote := rfl
@[simp] theorem State.commitTrigger_highlight (s : State) : s.commitTrigger.highlight = s.highlight := rfl
@[simp] theorem State.commitTrigger_plane (s : State) : s.commitTrigger.plane = s.plane := rfl
@[simp] theorem State.commitTrigger_video (s : State) : s.commitTrigger.video = s.video := rfl
@[simp] theorem State.commitTrigger_control (s : State) : s.commitTrigger.control = s.control := rfl
@[simp] theorem State.commitTrigger_resetHeld (s : State) : s.commitTrigger.resetHeld = s.resetHeld := rfl
@[simp] theorem State.commitTrigger_freeCount (s : State) : s.commitTrigger.freeCount = s.freeCount := rfl
@[simp] theorem State.commitTrigger_pending (s : State) : s.commitTrigger.pending = s.pending := rfl
@[simp] theorem State.commitTrigger_field (s : State) :
    s.commitTrigger.field = { s.field with inbox := joinTrigger s.field.inbox } := rfl

/-! ### release -/

@[simp] theorem State.release_ports (s : State) : s.release.ports = s.ports := rfl
@[simp] theorem State.release_probe (s : State) : s.release.probe = s.probe := rfl
@[simp] theorem State.release_rings (s : State) : s.release.rings = s.rings := rfl
@[simp] theorem State.release_memory (s : State) : s.release.memory = s.memory := rfl
@[simp] theorem State.release_quote (s : State) : s.release.quote = s.quote := rfl
@[simp] theorem State.release_field (s : State) : s.release.field = s.field := rfl
@[simp] theorem State.release_highlight (s : State) : s.release.highlight = s.highlight := rfl
@[simp] theorem State.release_plane (s : State) : s.release.plane = s.plane := rfl
@[simp] theorem State.release_video (s : State) : s.release.video = s.video := rfl
@[simp] theorem State.release_control (s : State) : s.release.control = s.control := rfl
@[simp] theorem State.release_resetHeld (s : State) : s.release.resetHeld = false := rfl
@[simp] theorem State.release_freeCount (s : State) : s.release.freeCount = s.freeCount := rfl
@[simp] theorem State.release_pending (s : State) : s.release.pending = s.pending := rfl

/-! ### ignoreCommand -/

@[simp] theorem State.ignoreCommand_ports (s : State) : (s.ignoreCommand).ports = s.ports := rfl
@[simp] theorem State.ignoreCommand_probe (s : State) : (s.ignoreCommand).probe = s.probe := rfl
@[simp] theorem State.ignoreCommand_rings (s : State) : (s.ignoreCommand).rings = s.rings := rfl
@[simp] theorem State.ignoreCommand_memory (s : State) : (s.ignoreCommand).memory = s.memory := rfl
@[simp] theorem State.ignoreCommand_quote (s : State) : (s.ignoreCommand).quote = s.quote := rfl
@[simp] theorem State.ignoreCommand_field (s : State) : (s.ignoreCommand).field = s.field := rfl
@[simp] theorem State.ignoreCommand_highlight (s : State) : (s.ignoreCommand).highlight = s.highlight := rfl
@[simp] theorem State.ignoreCommand_plane (s : State) : (s.ignoreCommand).plane = s.plane := rfl
@[simp] theorem State.ignoreCommand_video (s : State) : (s.ignoreCommand).video = s.video := rfl
@[simp] theorem State.ignoreCommand_control (s : State) :
    (s.ignoreCommand).control = { s.control with ignored := true } := rfl
@[simp] theorem State.ignoreCommand_resetHeld (s : State) : (s.ignoreCommand).resetHeld = s.resetHeld := rfl
@[simp] theorem State.ignoreCommand_freeCount (s : State) : (s.ignoreCommand).freeCount = s.freeCount := rfl
@[simp] theorem State.ignoreCommand_pending (s : State) : (s.ignoreCommand).pending = s.pending := rfl

end Sys2Proof.Machine
end

