-- ==== Sys2Proof/Laws/Frames.lean ====
section
/-! SUPPORT. The fields of State that each shared operation leaves as they are, one lemma per field, so that no proof
unfolds an operation to know what it does not touch. -/

namespace Sys2Proof.Machine

/-! ### changeRing -/

@[simp] theorem State.changeRing_probe (s : State) (r : RingId) (n : RingState) : (s.changeRing r n).probe = s.probe := by
  unfold State.changeRing; dsimp only; split <;> split <;> split <;> simp
@[simp] theorem State.changeRing_memory (s : State) (r : RingId) (n : RingState) : (s.changeRing r n).memory = s.memory := by
  unfold State.changeRing; dsimp only; split <;> split <;> split <;> simp
@[simp] theorem State.changeRing_quote (s : State) (r : RingId) (n : RingState) : (s.changeRing r n).quote = s.quote := by
  unfold State.changeRing; dsimp only; split <;> split <;> split <;> simp
@[simp] theorem State.changeRing_highlight (s : State) (r : RingId) (n : RingState) : (s.changeRing r n).highlight = s.highlight := by
  unfold State.changeRing; dsimp only; split <;> split <;> split <;> simp
@[simp] theorem State.changeRing_plane (s : State) (r : RingId) (n : RingState) : (s.changeRing r n).plane = s.plane := by
  unfold State.changeRing; dsimp only; split <;> split <;> split <;> simp
@[simp] theorem State.changeRing_video (s : State) (r : RingId) (n : RingState) : (s.changeRing r n).video = s.video := by
  unfold State.changeRing; dsimp only; split <;> split <;> split <;> simp
@[simp] theorem State.changeRing_resetHeld (s : State) (r : RingId) (n : RingState) : (s.changeRing r n).resetHeld = s.resetHeld := by
  unfold State.changeRing; dsimp only; split <;> split <;> split <;> simp
@[simp] theorem State.changeRing_freeCount (s : State) (r : RingId) (n : RingState) : (s.changeRing r n).freeCount = s.freeCount := by
  unfold State.changeRing; dsimp only; split <;> split <;> split <;> simp
@[simp] theorem State.changeRing_pending (s : State) (r : RingId) (n : RingState) : (s.changeRing r n).pending = s.pending := by
  unfold State.changeRing; dsimp only; split <;> split <;> split <;> simp

/-! ### outcomeAttention -/

@[simp] theorem State.outcomeAttention_probe (s : State) (r : RingId) (st : Status) : (s.outcomeAttention r st).probe = s.probe := by
  unfold State.outcomeAttention; dsimp only; split <;> split <;> (try split) <;> simp
@[simp] theorem State.outcomeAttention_rings (s : State) (r : RingId) (st : Status) : (s.outcomeAttention r st).rings = s.rings := by
  unfold State.outcomeAttention; dsimp only; split <;> split <;> (try split) <;> simp
@[simp] theorem State.outcomeAttention_memory (s : State) (r : RingId) (st : Status) : (s.outcomeAttention r st).memory = s.memory := by
  unfold State.outcomeAttention; dsimp only; split <;> split <;> (try split) <;> simp
@[simp] theorem State.outcomeAttention_quote (s : State) (r : RingId) (st : Status) : (s.outcomeAttention r st).quote = s.quote := by
  unfold State.outcomeAttention; dsimp only; split <;> split <;> (try split) <;> simp
@[simp] theorem State.outcomeAttention_field (s : State) (r : RingId) (st : Status) : (s.outcomeAttention r st).field = s.field := by
  unfold State.outcomeAttention; dsimp only; split <;> split <;> (try split) <;> simp
@[simp] theorem State.outcomeAttention_highlight (s : State) (r : RingId) (st : Status) : (s.outcomeAttention r st).highlight = s.highlight := by
  unfold State.outcomeAttention; dsimp only; split <;> split <;> (try split) <;> simp
@[simp] theorem State.outcomeAttention_plane (s : State) (r : RingId) (st : Status) : (s.outcomeAttention r st).plane = s.plane := by
  unfold State.outcomeAttention; dsimp only; split <;> split <;> (try split) <;> simp
@[simp] theorem State.outcomeAttention_video (s : State) (r : RingId) (st : Status) : (s.outcomeAttention r st).video = s.video := by
  unfold State.outcomeAttention; dsimp only; split <;> split <;> (try split) <;> simp
@[simp] theorem State.outcomeAttention_control (s : State) (r : RingId) (st : Status) : (s.outcomeAttention r st).control = s.control := by
  unfold State.outcomeAttention; dsimp only; split <;> split <;> (try split) <;> simp
@[simp] theorem State.outcomeAttention_resetHeld (s : State) (r : RingId) (st : Status) : (s.outcomeAttention r st).resetHeld = s.resetHeld := by
  unfold State.outcomeAttention; dsimp only; split <;> split <;> (try split) <;> simp
@[simp] theorem State.outcomeAttention_freeCount (s : State) (r : RingId) (st : Status) : (s.outcomeAttention r st).freeCount = s.freeCount := by
  unfold State.outcomeAttention; dsimp only; split <;> split <;> (try split) <;> simp
@[simp] theorem State.outcomeAttention_pending (s : State) (r : RingId) (st : Status) : (s.outcomeAttention r st).pending = s.pending := by
  unfold State.outcomeAttention; dsimp only; split <;> split <;> (try split) <;> simp

/-! ### takeOutcome -/

@[simp] theorem State.takeOutcome_probe (s : State) (r : RingId) (st : Status) (w : Word) : (s.takeOutcome r st w).probe = s.probe := by
  simp [State.takeOutcome]
@[simp] theorem State.takeOutcome_quote (s : State) (r : RingId) (st : Status) (w : Word) : (s.takeOutcome r st w).quote = s.quote := by
  simp [State.takeOutcome]
@[simp] theorem State.takeOutcome_field (s : State) (r : RingId) (st : Status) (w : Word) : (s.takeOutcome r st w).field = s.field := by
  simp [State.takeOutcome]
@[simp] theorem State.takeOutcome_highlight (s : State) (r : RingId) (st : Status) (w : Word) : (s.takeOutcome r st w).highlight = s.highlight := by
  simp [State.takeOutcome]
@[simp] theorem State.takeOutcome_plane (s : State) (r : RingId) (st : Status) (w : Word) : (s.takeOutcome r st w).plane = s.plane := by
  simp [State.takeOutcome]
@[simp] theorem State.takeOutcome_video (s : State) (r : RingId) (st : Status) (w : Word) : (s.takeOutcome r st w).video = s.video := by
  simp [State.takeOutcome]
@[simp] theorem State.takeOutcome_control (s : State) (r : RingId) (st : Status) (w : Word) : (s.takeOutcome r st w).control = s.control := by
  simp [State.takeOutcome]
@[simp] theorem State.takeOutcome_resetHeld (s : State) (r : RingId) (st : Status) (w : Word) : (s.takeOutcome r st w).resetHeld = s.resetHeld := by
  simp [State.takeOutcome]
@[simp] theorem State.takeOutcome_freeCount (s : State) (r : RingId) (st : Status) (w : Word) : (s.takeOutcome r st w).freeCount = s.freeCount := by
  simp [State.takeOutcome]
@[simp] theorem State.takeOutcome_pending (s : State) (r : RingId) (st : Status) (w : Word) : (s.takeOutcome r st w).pending = s.pending := by
  simp [State.takeOutcome]

/-! ### haltRing -/

@[simp] theorem State.haltRing_probe (s : State) (r : RingId) (why : HaltReason) : (s.haltRing r why).probe = s.probe := by
  simp [State.haltRing]
@[simp] theorem State.haltRing_memory (s : State) (r : RingId) (why : HaltReason) : (s.haltRing r why).memory = s.memory := by
  simp [State.haltRing]
@[simp] theorem State.haltRing_quote (s : State) (r : RingId) (why : HaltReason) : (s.haltRing r why).quote = s.quote := by
  simp [State.haltRing]
@[simp] theorem State.haltRing_highlight (s : State) (r : RingId) (why : HaltReason) : (s.haltRing r why).highlight = s.highlight := by
  simp [State.haltRing]
@[simp] theorem State.haltRing_plane (s : State) (r : RingId) (why : HaltReason) : (s.haltRing r why).plane = s.plane := by
  simp [State.haltRing]
@[simp] theorem State.haltRing_video (s : State) (r : RingId) (why : HaltReason) : (s.haltRing r why).video = s.video := by
  simp [State.haltRing]
@[simp] theorem State.haltRing_resetHeld (s : State) (r : RingId) (why : HaltReason) : (s.haltRing r why).resetHeld = s.resetHeld := by
  simp [State.haltRing]
@[simp] theorem State.haltRing_freeCount (s : State) (r : RingId) (why : HaltReason) : (s.haltRing r why).freeCount = s.freeCount := by
  simp [State.haltRing]
@[simp] theorem State.haltRing_pending (s : State) (r : RingId) (why : HaltReason) : (s.haltRing r why).pending = s.pending := by
  simp [State.haltRing]

/-! ### takeStatusWord -/

@[simp] theorem State.takeStatusWord_probe (s : State) (r : RingId) (w : Word) : (s.takeStatusWord r w).probe = s.probe := by
  unfold State.takeStatusWord; dsimp only; split <;> (try split) <;> simp
@[simp] theorem State.takeStatusWord_quote (s : State) (r : RingId) (w : Word) : (s.takeStatusWord r w).quote = s.quote := by
  unfold State.takeStatusWord; dsimp only; split <;> (try split) <;> simp
@[simp] theorem State.takeStatusWord_highlight (s : State) (r : RingId) (w : Word) : (s.takeStatusWord r w).highlight = s.highlight := by
  unfold State.takeStatusWord; dsimp only; split <;> (try split) <;> simp
@[simp] theorem State.takeStatusWord_plane (s : State) (r : RingId) (w : Word) : (s.takeStatusWord r w).plane = s.plane := by
  unfold State.takeStatusWord; dsimp only; split <;> (try split) <;> simp
@[simp] theorem State.takeStatusWord_video (s : State) (r : RingId) (w : Word) : (s.takeStatusWord r w).video = s.video := by
  unfold State.takeStatusWord; dsimp only; split <;> (try split) <;> simp
@[simp] theorem State.takeStatusWord_resetHeld (s : State) (r : RingId) (w : Word) : (s.takeStatusWord r w).resetHeld = s.resetHeld := by
  unfold State.takeStatusWord; dsimp only; split <;> (try split) <;> simp
@[simp] theorem State.takeStatusWord_freeCount (s : State) (r : RingId) (w : Word) : (s.takeStatusWord r w).freeCount = s.freeCount := by
  unfold State.takeStatusWord; dsimp only; split <;> (try split) <;> simp
@[simp] theorem State.takeStatusWord_pending (s : State) (r : RingId) (w : Word) : (s.takeStatusWord r w).pending = s.pending := by
  unfold State.takeStatusWord; dsimp only; split <;> (try split) <;> simp

/-! ### handBack -/

@[simp] theorem State.handBack_probe (s : State) (r : RingId) : (s.handBack r).probe = s.probe := by
  unfold State.handBack; dsimp only; split <;> split <;> split <;> simp
@[simp] theorem State.handBack_memory (s : State) (r : RingId) : (s.handBack r).memory = s.memory := by
  unfold State.handBack; dsimp only; split <;> split <;> split <;> simp
@[simp] theorem State.handBack_quote (s : State) (r : RingId) : (s.handBack r).quote = s.quote := by
  unfold State.handBack; dsimp only; split <;> split <;> split <;> simp
@[simp] theorem State.handBack_highlight (s : State) (r : RingId) : (s.handBack r).highlight = s.highlight := by
  unfold State.handBack; dsimp only; split <;> split <;> split <;> simp
@[simp] theorem State.handBack_plane (s : State) (r : RingId) : (s.handBack r).plane = s.plane := by
  unfold State.handBack; dsimp only; split <;> split <;> split <;> simp
@[simp] theorem State.handBack_video (s : State) (r : RingId) : (s.handBack r).video = s.video := by
  unfold State.handBack; dsimp only; split <;> split <;> split <;> simp
@[simp] theorem State.handBack_resetHeld (s : State) (r : RingId) : (s.handBack r).resetHeld = s.resetHeld := by
  unfold State.handBack; dsimp only; split <;> split <;> split <;> simp
@[simp] theorem State.handBack_freeCount (s : State) (r : RingId) : (s.handBack r).freeCount = s.freeCount := by
  unfold State.handBack; dsimp only; split <;> split <;> split <;> simp
@[simp] theorem State.handBack_pending (s : State) (r : RingId) : (s.handBack r).pending = s.pending := by
  unfold State.handBack; dsimp only; split <;> split <;> split <;> simp

/-! ### fetchOn -/

@[simp] theorem State.fetchOn_probe (s : State) (r : RingId) : (s.fetchOn r).probe = s.probe := by
  unfold State.fetchOn; dsimp only; split <;> (try split) <;> simp
@[simp] theorem State.fetchOn_quote (s : State) (r : RingId) : (s.fetchOn r).quote = s.quote := by
  unfold State.fetchOn; dsimp only; split <;> (try split) <;> simp
@[simp] theorem State.fetchOn_highlight (s : State) (r : RingId) : (s.fetchOn r).highlight = s.highlight := by
  unfold State.fetchOn; dsimp only; split <;> (try split) <;> simp
@[simp] theorem State.fetchOn_plane (s : State) (r : RingId) : (s.fetchOn r).plane = s.plane := by
  unfold State.fetchOn; dsimp only; split <;> (try split) <;> simp
@[simp] theorem State.fetchOn_video (s : State) (r : RingId) : (s.fetchOn r).video = s.video := by
  unfold State.fetchOn; dsimp only; split <;> (try split) <;> simp
@[simp] theorem State.fetchOn_resetHeld (s : State) (r : RingId) : (s.fetchOn r).resetHeld = s.resetHeld := by
  unfold State.fetchOn; dsimp only; split <;> (try split) <;> simp
@[simp] theorem State.fetchOn_freeCount (s : State) (r : RingId) : (s.fetchOn r).freeCount = s.freeCount := by
  unfold State.fetchOn; dsimp only; split <;> (try split) <;> simp
@[simp] theorem State.fetchOn_pending (s : State) (r : RingId) : (s.fetchOn r).pending = s.pending := by
  unfold State.fetchOn; dsimp only; split <;> (try split) <;> simp

/-! ### lookAgain -/

@[simp] theorem State.lookAgain_ports (s : State) (r : RingId) : (s.lookAgain r).ports = s.ports := by
  unfold State.lookAgain; dsimp only; split <;> simp
@[simp] theorem State.lookAgain_probe (s : State) (r : RingId) : (s.lookAgain r).probe = s.probe := by
  unfold State.lookAgain; dsimp only; split <;> simp
@[simp] theorem State.lookAgain_quote (s : State) (r : RingId) : (s.lookAgain r).quote = s.quote := by
  unfold State.lookAgain; dsimp only; split <;> simp
@[simp] theorem State.lookAgain_field (s : State) (r : RingId) : (s.lookAgain r).field = s.field := by
  unfold State.lookAgain; dsimp only; split <;> simp
@[simp] theorem State.lookAgain_highlight (s : State) (r : RingId) : (s.lookAgain r).highlight = s.highlight := by
  unfold State.lookAgain; dsimp only; split <;> simp
@[simp] theorem State.lookAgain_plane (s : State) (r : RingId) : (s.lookAgain r).plane = s.plane := by
  unfold State.lookAgain; dsimp only; split <;> simp
@[simp] theorem State.lookAgain_video (s : State) (r : RingId) : (s.lookAgain r).video = s.video := by
  unfold State.lookAgain; dsimp only; split <;> simp
@[simp] theorem State.lookAgain_control (s : State) (r : RingId) : (s.lookAgain r).control = s.control := by
  unfold State.lookAgain; dsimp only; split <;> simp
@[simp] theorem State.lookAgain_resetHeld (s : State) (r : RingId) : (s.lookAgain r).resetHeld = s.resetHeld := by
  unfold State.lookAgain; dsimp only; split <;> simp
@[simp] theorem State.lookAgain_freeCount (s : State) (r : RingId) : (s.lookAgain r).freeCount = s.freeCount := by
  unfold State.lookAgain; dsimp only; split <;> simp
@[simp] theorem State.lookAgain_pending (s : State) (r : RingId) : (s.lookAgain r).pending = s.pending := by
  unfold State.lookAgain; dsimp only; split <;> simp

/-! ### silenceFrame -/

@[simp] theorem State.silenceFrame_probe (s : State) (r : RingId) : (s.silenceFrame r).probe = s.probe := by
  unfold State.silenceFrame; dsimp only; split <;> split <;> simp
@[simp] theorem State.silenceFrame_memory (s : State) (r : RingId) : (s.silenceFrame r).memory = s.memory := by
  unfold State.silenceFrame; dsimp only; split <;> split <;> simp
@[simp] theorem State.silenceFrame_quote (s : State) (r : RingId) : (s.silenceFrame r).quote = s.quote := by
  unfold State.silenceFrame; dsimp only; split <;> split <;> simp
@[simp] theorem State.silenceFrame_highlight (s : State) (r : RingId) : (s.silenceFrame r).highlight = s.highlight := by
  unfold State.silenceFrame; dsimp only; split <;> split <;> simp
@[simp] theorem State.silenceFrame_plane (s : State) (r : RingId) : (s.silenceFrame r).plane = s.plane := by
  unfold State.silenceFrame; dsimp only; split <;> split <;> simp
@[simp] theorem State.silenceFrame_video (s : State) (r : RingId) : (s.silenceFrame r).video = s.video := by
  unfold State.silenceFrame; dsimp only; split <;> split <;> simp
@[simp] theorem State.silenceFrame_resetHeld (s : State) (r : RingId) : (s.silenceFrame r).resetHeld = s.resetHeld := by
  unfold State.silenceFrame; dsimp only; split <;> split <;> simp
@[simp] theorem State.silenceFrame_freeCount (s : State) (r : RingId) : (s.silenceFrame r).freeCount = s.freeCount := by
  unfold State.silenceFrame; dsimp only; split <;> split <;> simp
@[simp] theorem State.silenceFrame_pending (s : State) (r : RingId) : (s.silenceFrame r).pending = s.pending := by
  unfold State.silenceFrame; dsimp only; split <;> split <;> simp

/-! ### ringFrame -/

@[simp] theorem State.ringFrame_probe (s : State) (r : RingId) : (s.ringFrame r).probe = s.probe := by
  simp [State.ringFrame]
@[simp] theorem State.ringFrame_quote (s : State) (r : RingId) : (s.ringFrame r).quote = s.quote := by
  simp [State.ringFrame]
@[simp] theorem State.ringFrame_highlight (s : State) (r : RingId) : (s.ringFrame r).highlight = s.highlight := by
  simp [State.ringFrame]
@[simp] theorem State.ringFrame_plane (s : State) (r : RingId) : (s.ringFrame r).plane = s.plane := by
  simp [State.ringFrame]
@[simp] theorem State.ringFrame_video (s : State) (r : RingId) : (s.ringFrame r).video = s.video := by
  simp [State.ringFrame]
@[simp] theorem State.ringFrame_resetHeld (s : State) (r : RingId) : (s.ringFrame r).resetHeld = s.resetHeld := by
  simp [State.ringFrame]
@[simp] theorem State.ringFrame_freeCount (s : State) (r : RingId) : (s.ringFrame r).freeCount = s.freeCount := by
  simp [State.ringFrame]
@[simp] theorem State.ringFrame_pending (s : State) (r : RingId) : (s.ringFrame r).pending = s.pending := by
  simp [State.ringFrame]

/-! ### takeRingOn -/

@[simp] theorem State.takeRingOn_probe (s : State) (r : RingId) : (s.takeRingOn r).probe = s.probe := by
  unfold State.takeRingOn; dsimp only; split <;> (try split) <;> simp
@[simp] theorem State.takeRingOn_quote (s : State) (r : RingId) : (s.takeRingOn r).quote = s.quote := by
  unfold State.takeRingOn; dsimp only; split <;> (try split) <;> simp
@[simp] theorem State.takeRingOn_highlight (s : State) (r : RingId) : (s.takeRingOn r).highlight = s.highlight := by
  unfold State.takeRingOn; dsimp only; split <;> (try split) <;> simp
@[simp] theorem State.takeRingOn_plane (s : State) (r : RingId) : (s.takeRingOn r).plane = s.plane := by
  unfold State.takeRingOn; dsimp only; split <;> (try split) <;> simp
@[simp] theorem State.takeRingOn_video (s : State) (r : RingId) : (s.takeRingOn r).video = s.video := by
  unfold State.takeRingOn; dsimp only; split <;> (try split) <;> simp
@[simp] theorem State.takeRingOn_resetHeld (s : State) (r : RingId) : (s.takeRingOn r).resetHeld = s.resetHeld := by
  unfold State.takeRingOn; dsimp only; split <;> (try split) <;> simp
@[simp] theorem State.takeRingOn_freeCount (s : State) (r : RingId) : (s.takeRingOn r).freeCount = s.freeCount := by
  unfold State.takeRingOn; dsimp only; split <;> (try split) <;> simp
@[simp] theorem State.takeRingOn_pending (s : State) (r : RingId) : (s.takeRingOn r).pending = s.pending := by
  unfold State.takeRingOn; dsimp only; split <;> (try split) <;> simp

/-! ### takeRingOff -/

@[simp] theorem State.takeRingOff_probe (s : State) (r : RingId) : (s.takeRingOff r).probe = s.probe := by
  unfold State.takeRingOff; dsimp only; split <;> (try split) <;> simp
@[simp] theorem State.takeRingOff_memory (s : State) (r : RingId) : (s.takeRingOff r).memory = s.memory := by
  unfold State.takeRingOff; dsimp only; split <;> (try split) <;> simp
@[simp] theorem State.takeRingOff_quote (s : State) (r : RingId) : (s.takeRingOff r).quote = s.quote := by
  unfold State.takeRingOff; dsimp only; split <;> (try split) <;> simp
@[simp] theorem State.takeRingOff_highlight (s : State) (r : RingId) : (s.takeRingOff r).highlight = s.highlight := by
  unfold State.takeRingOff; dsimp only; split <;> (try split) <;> simp
@[simp] theorem State.takeRingOff_plane (s : State) (r : RingId) : (s.takeRingOff r).plane = s.plane := by
  unfold State.takeRingOff; dsimp only; split <;> (try split) <;> simp
@[simp] theorem State.takeRingOff_video (s : State) (r : RingId) : (s.takeRingOff r).video = s.video := by
  unfold State.takeRingOff; dsimp only; split <;> (try split) <;> simp
@[simp] theorem State.takeRingOff_resetHeld (s : State) (r : RingId) : (s.takeRingOff r).resetHeld = s.resetHeld := by
  unfold State.takeRingOff; dsimp only; split <;> (try split) <;> simp
@[simp] theorem State.takeRingOff_freeCount (s : State) (r : RingId) : (s.takeRingOff r).freeCount = s.freeCount := by
  unfold State.takeRingOff; dsimp only; split <;> (try split) <;> simp
@[simp] theorem State.takeRingOff_pending (s : State) (r : RingId) : (s.takeRingOff r).pending = s.pending := by
  unfold State.takeRingOff; dsimp only; split <;> (try split) <;> simp

/-! ### passOn -/

@[simp] theorem State.passOn_ports (s : State) (r : RingId) (d : Descriptor) : (s.passOn r d).ports = s.ports := by
  unfold State.passOn; split <;> simp
@[simp] theorem State.passOn_probe (s : State) (r : RingId) (d : Descriptor) : (s.passOn r d).probe = s.probe := by
  unfold State.passOn; split <;> simp
@[simp] theorem State.passOn_rings (s : State) (r : RingId) (d : Descriptor) : (s.passOn r d).rings = s.rings := by
  unfold State.passOn; split <;> simp
@[simp] theorem State.passOn_memory (s : State) (r : RingId) (d : Descriptor) : (s.passOn r d).memory = s.memory := by
  unfold State.passOn; split <;> simp
@[simp] theorem State.passOn_highlight (s : State) (r : RingId) (d : Descriptor) : (s.passOn r d).highlight = s.highlight := by
  unfold State.passOn; split <;> simp
@[simp] theorem State.passOn_video (s : State) (r : RingId) (d : Descriptor) : (s.passOn r d).video = s.video := by
  unfold State.passOn; split <;> simp
@[simp] theorem State.passOn_control (s : State) (r : RingId) (d : Descriptor) : (s.passOn r d).control = s.control := by
  unfold State.passOn; split <;> simp
@[simp] theorem State.passOn_resetHeld (s : State) (r : RingId) (d : Descriptor) : (s.passOn r d).resetHeld = s.resetHeld := by
  unfold State.passOn; split <;> simp
@[simp] theorem State.passOn_freeCount (s : State) (r : RingId) (d : Descriptor) : (s.passOn r d).freeCount = s.freeCount := by
  unfold State.passOn; split <;> simp
@[simp] theorem State.passOn_pending (s : State) (r : RingId) (d : Descriptor) : (s.passOn r d).pending = s.pending := by
  unfold State.passOn; split <;> simp

/-! ### quoteFinish -/

@[simp] theorem State.quoteFinish_ports (s : State) (l : List RenderRequest) (r : RingId) (st : Status) (w : Word) : (s.quoteFinish l r st w).ports = s.ports := by
  unfold State.quoteFinish; dsimp only; split <;> simp
@[simp] theorem State.quoteFinish_probe (s : State) (l : List RenderRequest) (r : RingId) (st : Status) (w : Word) : (s.quoteFinish l r st w).probe = s.probe := by
  unfold State.quoteFinish; dsimp only; split <;> simp
@[simp] theorem State.quoteFinish_memory (s : State) (l : List RenderRequest) (r : RingId) (st : Status) (w : Word) : (s.quoteFinish l r st w).memory = s.memory := by
  unfold State.quoteFinish; dsimp only; split <;> simp
@[simp] theorem State.quoteFinish_highlight (s : State) (l : List RenderRequest) (r : RingId) (st : Status) (w : Word) : (s.quoteFinish l r st w).highlight = s.highlight := by
  unfold State.quoteFinish; dsimp only; split <;> simp
@[simp] theorem State.quoteFinish_plane (s : State) (l : List RenderRequest) (r : RingId) (st : Status) (w : Word) : (s.quoteFinish l r st w).plane = s.plane := by
  unfold State.quoteFinish; dsimp only; split <;> simp
@[simp] theorem State.quoteFinish_video (s : State) (l : List RenderRequest) (r : RingId) (st : Status) (w : Word) : (s.quoteFinish l r st w).video = s.video := by
  unfold State.quoteFinish; dsimp only; split <;> simp
@[simp] theorem State.quoteFinish_control (s : State) (l : List RenderRequest) (r : RingId) (st : Status) (w : Word) : (s.quoteFinish l r st w).control = s.control := by
  unfold State.quoteFinish; dsimp only; split <;> simp
@[simp] theorem State.quoteFinish_resetHeld (s : State) (l : List RenderRequest) (r : RingId) (st : Status) (w : Word) : (s.quoteFinish l r st w).resetHeld = s.resetHeld := by
  unfold State.quoteFinish; dsimp only; split <;> simp
@[simp] theorem State.quoteFinish_freeCount (s : State) (l : List RenderRequest) (r : RingId) (st : Status) (w : Word) : (s.quoteFinish l r st w).freeCount = s.freeCount := by
  unfold State.quoteFinish; dsimp only; split <;> simp
@[simp] theorem State.quoteFinish_pending (s : State) (l : List RenderRequest) (r : RingId) (st : Status) (w : Word) : (s.quoteFinish l r st w).pending = s.pending := by
  unfold State.quoteFinish; dsimp only; split <;> simp

/-! ### requestStep -/

@[simp] theorem State.requestStep_ports (s : State) : (s.requestStep).ports = s.ports := by
  unfold State.requestStep; split <;> simp
@[simp] theorem State.requestStep_probe (s : State) : (s.requestStep).probe = s.probe := by
  unfold State.requestStep; split <;> simp
@[simp] theorem State.requestStep_rings (s : State) : (s.requestStep).rings = s.rings := by
  unfold State.requestStep; split <;> simp
@[simp] theorem State.requestStep_memory (s : State) : (s.requestStep).memory = s.memory := by
  unfold State.requestStep; split <;> simp
@[simp] theorem State.requestStep_quote (s : State) : (s.requestStep).quote = s.quote := by
  unfold State.requestStep; split <;> simp
@[simp] theorem State.requestStep_highlight (s : State) : (s.requestStep).highlight = s.highlight := by
  unfold State.requestStep; split <;> simp
@[simp] theorem State.requestStep_plane (s : State) : (s.requestStep).plane = s.plane := by
  unfold State.requestStep; split <;> simp
@[simp] theorem State.requestStep_video (s : State) : (s.requestStep).video = s.video := by
  unfold State.requestStep; split <;> simp
@[simp] theorem State.requestStep_control (s : State) : (s.requestStep).control = s.control := by
  unfold State.requestStep; split <;> simp
@[simp] theorem State.requestStep_resetHeld (s : State) : (s.requestStep).resetHeld = s.resetHeld := by
  unfold State.requestStep; split <;> simp
@[simp] theorem State.requestStep_freeCount (s : State) : (s.requestStep).freeCount = s.freeCount := by
  unfold State.requestStep; split <;> simp
@[simp] theorem State.requestStep_pending (s : State) : (s.requestStep).pending = s.pending := by
  unfold State.requestStep; split <;> simp

/-! ### passEnd -/

@[simp] theorem State.passEnd_ports (s : State) : (s.passEnd).ports = s.ports := by
  unfold State.passEnd; dsimp only; split <;> split <;> simp
@[simp] theorem State.passEnd_probe (s : State) : (s.passEnd).probe = s.probe := by
  unfold State.passEnd; dsimp only; split <;> split <;> simp
@[simp] theorem State.passEnd_memory (s : State) : (s.passEnd).memory = s.memory := by
  unfold State.passEnd; dsimp only; split <;> split <;> simp
@[simp] theorem State.passEnd_quote (s : State) : (s.passEnd).quote = s.quote := by
  unfold State.passEnd; dsimp only; split <;> split <;> simp
@[simp] theorem State.passEnd_highlight (s : State) : (s.passEnd).highlight = s.highlight := by
  unfold State.passEnd; dsimp only; split <;> split <;> simp
@[simp] theorem State.passEnd_plane (s : State) : (s.passEnd).plane = s.plane := by
  unfold State.passEnd; dsimp only; split <;> split <;> simp
@[simp] theorem State.passEnd_video (s : State) : (s.passEnd).video = s.video := by
  unfold State.passEnd; dsimp only; split <;> split <;> simp
@[simp] theorem State.passEnd_control (s : State) : (s.passEnd).control = s.control := by
  unfold State.passEnd; dsimp only; split <;> split <;> simp
@[simp] theorem State.passEnd_resetHeld (s : State) : (s.passEnd).resetHeld = s.resetHeld := by
  unfold State.passEnd; dsimp only; split <;> split <;> simp
@[simp] theorem State.passEnd_freeCount (s : State) : (s.passEnd).freeCount = s.freeCount := by
  unfold State.passEnd; dsimp only; split <;> split <;> simp
@[simp] theorem State.passEnd_pending (s : State) : (s.passEnd).pending = s.pending := by
  unfold State.passEnd; dsimp only; split <;> split <;> simp

/-! ### sweepAdvance -/

@[simp] theorem State.sweepAdvance_ports (s : State) (b : Bool) : (s.sweepAdvance b).ports = s.ports := by
  unfold State.sweepAdvance; dsimp only; split <;> (try split) <;> simp
@[simp] theorem State.sweepAdvance_probe (s : State) (b : Bool) : (s.sweepAdvance b).probe = s.probe := by
  unfold State.sweepAdvance; dsimp only; split <;> (try split) <;> simp
@[simp] theorem State.sweepAdvance_memory (s : State) (b : Bool) : (s.sweepAdvance b).memory = s.memory := by
  unfold State.sweepAdvance; dsimp only; split <;> (try split) <;> simp
@[simp] theorem State.sweepAdvance_quote (s : State) (b : Bool) : (s.sweepAdvance b).quote = s.quote := by
  unfold State.sweepAdvance; dsimp only; split <;> (try split) <;> simp
@[simp] theorem State.sweepAdvance_highlight (s : State) (b : Bool) : (s.sweepAdvance b).highlight = s.highlight := by
  unfold State.sweepAdvance; dsimp only; split <;> (try split) <;> simp
@[simp] theorem State.sweepAdvance_plane (s : State) (b : Bool) : (s.sweepAdvance b).plane = s.plane := by
  unfold State.sweepAdvance; dsimp only; split <;> (try split) <;> simp
@[simp] theorem State.sweepAdvance_video (s : State) (b : Bool) : (s.sweepAdvance b).video = s.video := by
  unfold State.sweepAdvance; dsimp only; split <;> (try split) <;> simp
@[simp] theorem State.sweepAdvance_control (s : State) (b : Bool) : (s.sweepAdvance b).control = s.control := by
  unfold State.sweepAdvance; dsimp only; split <;> (try split) <;> simp
@[simp] theorem State.sweepAdvance_resetHeld (s : State) (b : Bool) : (s.sweepAdvance b).resetHeld = s.resetHeld := by
  unfold State.sweepAdvance; dsimp only; split <;> (try split) <;> simp
@[simp] theorem State.sweepAdvance_freeCount (s : State) (b : Bool) : (s.sweepAdvance b).freeCount = s.freeCount := by
  unfold State.sweepAdvance; dsimp only; split <;> (try split) <;> simp
@[simp] theorem State.sweepAdvance_pending (s : State) (b : Bool) : (s.sweepAdvance b).pending = s.pending := by
  unfold State.sweepAdvance; dsimp only; split <;> (try split) <;> simp

/-! ### runAfter -/

@[simp] theorem State.runAfter_ports (s : State) (a : FieldAfter) : (s.runAfter a).ports = s.ports := by
  cases a <;> simp [State.runAfter]
@[simp] theorem State.runAfter_probe (s : State) (a : FieldAfter) : (s.runAfter a).probe = s.probe := by
  cases a <;> simp [State.runAfter]
@[simp] theorem State.runAfter_memory (s : State) (a : FieldAfter) : (s.runAfter a).memory = s.memory := by
  cases a <;> simp [State.runAfter]
@[simp] theorem State.runAfter_quote (s : State) (a : FieldAfter) : (s.runAfter a).quote = s.quote := by
  cases a <;> simp [State.runAfter]
@[simp] theorem State.runAfter_highlight (s : State) (a : FieldAfter) : (s.runAfter a).highlight = s.highlight := by
  cases a <;> simp [State.runAfter]
@[simp] theorem State.runAfter_plane (s : State) (a : FieldAfter) : (s.runAfter a).plane = s.plane := by
  cases a <;> simp [State.runAfter]
@[simp] theorem State.runAfter_video (s : State) (a : FieldAfter) : (s.runAfter a).video = s.video := by
  cases a <;> simp [State.runAfter]
@[simp] theorem State.runAfter_control (s : State) (a : FieldAfter) : (s.runAfter a).control = s.control := by
  cases a <;> simp [State.runAfter]
@[simp] theorem State.runAfter_resetHeld (s : State) (a : FieldAfter) : (s.runAfter a).resetHeld = s.resetHeld := by
  cases a <;> simp [State.runAfter]
@[simp] theorem State.runAfter_freeCount (s : State) (a : FieldAfter) : (s.runAfter a).freeCount = s.freeCount := by
  cases a <;> simp [State.runAfter]
@[simp] theorem State.runAfter_pending (s : State) (a : FieldAfter) : (s.runAfter a).pending = s.pending := by
  cases a <;> simp [State.runAfter]

/-! ### fieldFinish -/

@[simp] theorem State.fieldFinish_ports (s : State) : (s.fieldFinish).ports = s.ports := by
  unfold State.fieldFinish; split <;> (try split) <;> simp
@[simp] theorem State.fieldFinish_probe (s : State) : (s.fieldFinish).probe = s.probe := by
  unfold State.fieldFinish; split <;> (try split) <;> simp
@[simp] theorem State.fieldFinish_memory (s : State) : (s.fieldFinish).memory = s.memory := by
  unfold State.fieldFinish; split <;> (try split) <;> simp
@[simp] theorem State.fieldFinish_quote (s : State) : (s.fieldFinish).quote = s.quote := by
  unfold State.fieldFinish; split <;> (try split) <;> simp
@[simp] theorem State.fieldFinish_highlight (s : State) : (s.fieldFinish).highlight = s.highlight := by
  unfold State.fieldFinish; split <;> (try split) <;> simp
@[simp] theorem State.fieldFinish_plane (s : State) : (s.fieldFinish).plane = s.plane := by
  unfold State.fieldFinish; split <;> (try split) <;> simp
@[simp] theorem State.fieldFinish_video (s : State) : (s.fieldFinish).video = s.video := by
  unfold State.fieldFinish; split <;> (try split) <;> simp
@[simp] theorem State.fieldFinish_control (s : State) : (s.fieldFinish).control = s.control := by
  unfold State.fieldFinish; split <;> (try split) <;> simp
@[simp] theorem State.fieldFinish_resetHeld (s : State) : (s.fieldFinish).resetHeld = s.resetHeld := by
  unfold State.fieldFinish; split <;> (try split) <;> simp
@[simp] theorem State.fieldFinish_freeCount (s : State) : (s.fieldFinish).freeCount = s.freeCount := by
  unfold State.fieldFinish; split <;> (try split) <;> simp
@[simp] theorem State.fieldFinish_pending (s : State) : (s.fieldFinish).pending = s.pending := by
  unfold State.fieldFinish; split <;> (try split) <;> simp

/-! ### beginEvent -/

@[simp] theorem State.beginEvent_ports (s : State) (l : List SpanWrite) (a : FieldAfter) : (s.beginEvent l a).ports = s.ports := by
  simp [State.beginEvent]
@[simp] theorem State.beginEvent_probe (s : State) (l : List SpanWrite) (a : FieldAfter) : (s.beginEvent l a).probe = s.probe := by
  simp [State.beginEvent]
@[simp] theorem State.beginEvent_memory (s : State) (l : List SpanWrite) (a : FieldAfter) : (s.beginEvent l a).memory = s.memory := by
  simp [State.beginEvent]
@[simp] theorem State.beginEvent_quote (s : State) (l : List SpanWrite) (a : FieldAfter) : (s.beginEvent l a).quote = s.quote := by
  simp [State.beginEvent]
@[simp] theorem State.beginEvent_highlight (s : State) (l : List SpanWrite) (a : FieldAfter) : (s.beginEvent l a).highlight = s.highlight := by
  simp [State.beginEvent]
@[simp] theorem State.beginEvent_video (s : State) (l : List SpanWrite) (a : FieldAfter) : (s.beginEvent l a).video = s.video := by
  simp [State.beginEvent]
@[simp] theorem State.beginEvent_control (s : State) (l : List SpanWrite) (a : FieldAfter) : (s.beginEvent l a).control = s.control := by
  simp [State.beginEvent]
@[simp] theorem State.beginEvent_resetHeld (s : State) (l : List SpanWrite) (a : FieldAfter) : (s.beginEvent l a).resetHeld = s.resetHeld := by
  simp [State.beginEvent]
@[simp] theorem State.beginEvent_freeCount (s : State) (l : List SpanWrite) (a : FieldAfter) : (s.beginEvent l a).freeCount = s.freeCount := by
  simp [State.beginEvent]
@[simp] theorem State.beginEvent_pending (s : State) (l : List SpanWrite) (a : FieldAfter) : (s.beginEvent l a).pending = s.pending := by
  simp [State.beginEvent]

/-! ### setTick -/

@[simp] theorem State.setTick_ports (s : State) (f : Nat) (t : Tick) : (s.setTick f t).ports = s.ports := by
  simp [State.setTick]
@[simp] theorem State.setTick_probe (s : State) (f : Nat) (t : Tick) : (s.setTick f t).probe = s.probe := by
  simp [State.setTick]
@[simp] theorem State.setTick_rings (s : State) (f : Nat) (t : Tick) : (s.setTick f t).rings = s.rings := by
  simp [State.setTick]
@[simp] theorem State.setTick_memory (s : State) (f : Nat) (t : Tick) : (s.setTick f t).memory = s.memory := by
  simp [State.setTick]
@[simp] theorem State.setTick_quote (s : State) (f : Nat) (t : Tick) : (s.setTick f t).quote = s.quote := by
  simp [State.setTick]
@[simp] theorem State.setTick_highlight (s : State) (f : Nat) (t : Tick) : (s.setTick f t).highlight = s.highlight := by
  simp [State.setTick]
@[simp] theorem State.setTick_plane (s : State) (f : Nat) (t : Tick) : (s.setTick f t).plane = s.plane := by
  simp [State.setTick]
@[simp] theorem State.setTick_video (s : State) (f : Nat) (t : Tick) : (s.setTick f t).video = s.video := by
  simp [State.setTick]
@[simp] theorem State.setTick_control (s : State) (f : Nat) (t : Tick) : (s.setTick f t).control = s.control := by
  simp [State.setTick]
@[simp] theorem State.setTick_resetHeld (s : State) (f : Nat) (t : Tick) : (s.setTick f t).resetHeld = s.resetHeld := by
  simp [State.setTick]
@[simp] theorem State.setTick_freeCount (s : State) (f : Nat) (t : Tick) : (s.setTick f t).freeCount = s.freeCount := by
  simp [State.setTick]
@[simp] theorem State.setTick_pending (s : State) (f : Nat) (t : Tick) : (s.setTick f t).pending = s.pending := by
  simp [State.setTick]

/-! ### clearTick -/

@[simp] theorem State.clearTick_ports (s : State) (f : Nat) : (s.clearTick f).ports = s.ports := by
  simp [State.clearTick]
@[simp] theorem State.clearTick_probe (s : State) (f : Nat) : (s.clearTick f).probe = s.probe := by
  simp [State.clearTick]
@[simp] theorem State.clearTick_rings (s : State) (f : Nat) : (s.clearTick f).rings = s.rings := by
  simp [State.clearTick]
@[simp] theorem State.clearTick_memory (s : State) (f : Nat) : (s.clearTick f).memory = s.memory := by
  simp [State.clearTick]
@[simp] theorem State.clearTick_quote (s : State) (f : Nat) : (s.clearTick f).quote = s.quote := by
  simp [State.clearTick]
@[simp] theorem State.clearTick_plane (s : State) (f : Nat) : (s.clearTick f).plane = s.plane := by
  simp [State.clearTick]
@[simp] theorem State.clearTick_video (s : State) (f : Nat) : (s.clearTick f).video = s.video := by
  simp [State.clearTick]
@[simp] theorem State.clearTick_control (s : State) (f : Nat) : (s.clearTick f).control = s.control := by
  simp [State.clearTick]
@[simp] theorem State.clearTick_resetHeld (s : State) (f : Nat) : (s.clearTick f).resetHeld = s.resetHeld := by
  simp [State.clearTick]
@[simp] theorem State.clearTick_freeCount (s : State) (f : Nat) : (s.clearTick f).freeCount = s.freeCount := by
  simp [State.clearTick]
@[simp] theorem State.clearTick_pending (s : State) (f : Nat) : (s.clearTick f).pending = s.pending := by
  simp [State.clearTick]

/-! ### countOverflow -/

@[simp] theorem State.countOverflow_probe (s : State) (f : Nat) : (s.countOverflow f).probe = s.probe := by
  unfold State.countOverflow; split <;> simp
@[simp] theorem State.countOverflow_rings (s : State) (f : Nat) : (s.countOverflow f).rings = s.rings := by
  unfold State.countOverflow; split <;> simp
@[simp] theorem State.countOverflow_memory (s : State) (f : Nat) : (s.countOverflow f).memory = s.memory := by
  unfold State.countOverflow; split <;> simp
@[simp] theorem State.countOverflow_quote (s : State) (f : Nat) : (s.countOverflow f).quote = s.quote := by
  unfold State.countOverflow; split <;> simp
@[simp] theorem State.countOverflow_highlight (s : State) (f : Nat) : (s.countOverflow f).highlight = s.highlight := by
  unfold State.countOverflow; split <;> simp
@[simp] theorem State.countOverflow_plane (s : State) (f : Nat) : (s.countOverflow f).plane = s.plane := by
  unfold State.countOverflow; split <;> simp
@[simp] theorem State.countOverflow_video (s : State) (f : Nat) : (s.countOverflow f).video = s.video := by
  unfold State.countOverflow; split <;> simp
@[simp] theorem State.countOverflow_control (s : State) (f : Nat) : (s.countOverflow f).control = s.control := by
  unfold State.countOverflow; split <;> simp
@[simp] theorem State.countOverflow_resetHeld (s : State) (f : Nat) : (s.countOverflow f).resetHeld = s.resetHeld := by
  unfold State.countOverflow; split <;> simp
@[simp] theorem State.countOverflow_freeCount (s : State) (f : Nat) : (s.countOverflow f).freeCount = s.freeCount := by
  unfold State.countOverflow; split <;> simp
@[simp] theorem State.countOverflow_pending (s : State) (f : Nat) : (s.countOverflow f).pending = s.pending := by
  unfold State.countOverflow; split <;> simp

/-! ### render -/

@[simp] theorem State.render_probe (s : State) (f : Nat) (l : List SpanWrite) (a : FieldAfter) : (s.render f l a).probe = s.probe := by
  simp [State.render]
@[simp] theorem State.render_memory (s : State) (f : Nat) (l : List SpanWrite) (a : FieldAfter) : (s.render f l a).memory = s.memory := by
  simp [State.render]
@[simp] theorem State.render_quote (s : State) (f : Nat) (l : List SpanWrite) (a : FieldAfter) : (s.render f l a).quote = s.quote := by
  simp [State.render]
@[simp] theorem State.render_highlight (s : State) (f : Nat) (l : List SpanWrite) (a : FieldAfter) : (s.render f l a).highlight = s.highlight := by
  simp [State.render]
@[simp] theorem State.render_video (s : State) (f : Nat) (l : List SpanWrite) (a : FieldAfter) : (s.render f l a).video = s.video := by
  simp [State.render]
@[simp] theorem State.render_control (s : State) (f : Nat) (l : List SpanWrite) (a : FieldAfter) : (s.render f l a).control = s.control := by
  simp [State.render]
@[simp] theorem State.render_resetHeld (s : State) (f : Nat) (l : List SpanWrite) (a : FieldAfter) : (s.render f l a).resetHeld = s.resetHeld := by
  simp [State.render]
@[simp] theorem State.render_freeCount (s : State) (f : Nat) (l : List SpanWrite) (a : FieldAfter) : (s.render f l a).freeCount = s.freeCount := by
  simp [State.render]
@[simp] theorem State.render_pending (s : State) (f : Nat) (l : List SpanWrite) (a : FieldAfter) : (s.render f l a).pending = s.pending := by
  simp [State.render]

/-! ### clearSpan -/

@[simp] theorem State.clearSpan_ports (s : State) (f : Nat) : (s.clearSpan f).ports = s.ports := by
  simp [State.clearSpan]
@[simp] theorem State.clearSpan_probe (s : State) (f : Nat) : (s.clearSpan f).probe = s.probe := by
  simp [State.clearSpan]
@[simp] theorem State.clearSpan_rings (s : State) (f : Nat) : (s.clearSpan f).rings = s.rings := by
  simp [State.clearSpan]
@[simp] theorem State.clearSpan_memory (s : State) (f : Nat) : (s.clearSpan f).memory = s.memory := by
  simp [State.clearSpan]
@[simp] theorem State.clearSpan_quote (s : State) (f : Nat) : (s.clearSpan f).quote = s.quote := by
  simp [State.clearSpan]
@[simp] theorem State.clearSpan_highlight (s : State) (f : Nat) : (s.clearSpan f).highlight = s.highlight := by
  simp [State.clearSpan]
@[simp] theorem State.clearSpan_plane (s : State) (f : Nat) : (s.clearSpan f).plane = s.plane := by
  simp [State.clearSpan]
@[simp] theorem State.clearSpan_video (s : State) (f : Nat) : (s.clearSpan f).video = s.video := by
  simp [State.clearSpan]
@[simp] theorem State.clearSpan_control (s : State) (f : Nat) : (s.clearSpan f).control = s.control := by
  simp [State.clearSpan]
@[simp] theorem State.clearSpan_resetHeld (s : State) (f : Nat) : (s.clearSpan f).resetHeld = s.resetHeld := by
  simp [State.clearSpan]
@[simp] theorem State.clearSpan_freeCount (s : State) (f : Nat) : (s.clearSpan f).freeCount = s.freeCount := by
  simp [State.clearSpan]
@[simp] theorem State.clearSpan_pending (s : State) (f : Nat) : (s.clearSpan f).pending = s.pending := by
  simp [State.clearSpan]

/-! ### enterSpan -/

@[simp] theorem State.enterSpan_ports (s : State) (f : Nat) : (s.enterSpan f).ports = s.ports := by
  simp [State.enterSpan]
@[simp] theorem State.enterSpan_probe (s : State) (f : Nat) : (s.enterSpan f).probe = s.probe := by
  simp [State.enterSpan]
@[simp] theorem State.enterSpan_rings (s : State) (f : Nat) : (s.enterSpan f).rings = s.rings := by
  simp [State.enterSpan]
@[simp] theorem State.enterSpan_memory (s : State) (f : Nat) : (s.enterSpan f).memory = s.memory := by
  simp [State.enterSpan]
@[simp] theorem State.enterSpan_quote (s : State) (f : Nat) : (s.enterSpan f).quote = s.quote := by
  simp [State.enterSpan]
@[simp] theorem State.enterSpan_highlight (s : State) (f : Nat) : (s.enterSpan f).highlight = s.highlight := by
  simp [State.enterSpan]
@[simp] theorem State.enterSpan_plane (s : State) (f : Nat) : (s.enterSpan f).plane = s.plane := by
  simp [State.enterSpan]
@[simp] theorem State.enterSpan_video (s : State) (f : Nat) : (s.enterSpan f).video = s.video := by
  simp [State.enterSpan]
@[simp] theorem State.enterSpan_control (s : State) (f : Nat) : (s.enterSpan f).control = s.control := by
  simp [State.enterSpan]
@[simp] theorem State.enterSpan_resetHeld (s : State) (f : Nat) : (s.enterSpan f).resetHeld = s.resetHeld := by
  simp [State.enterSpan]
@[simp] theorem State.enterSpan_freeCount (s : State) (f : Nat) : (s.enterSpan f).freeCount = s.freeCount := by
  simp [State.enterSpan]
@[simp] theorem State.enterSpan_pending (s : State) (f : Nat) : (s.enterSpan f).pending = s.pending := by
  simp [State.enterSpan]

/-! ### endCommand -/

@[simp] theorem State.endCommand_ports (s : State) (st : Status) (w : Word) : (s.endCommand st w).ports = s.ports := by
  simp [State.endCommand]
@[simp] theorem State.endCommand_probe (s : State) (st : Status) (w : Word) : (s.endCommand st w).probe = s.probe := by
  simp [State.endCommand]
@[simp] theorem State.endCommand_memory (s : State) (st : Status) (w : Word) : (s.endCommand st w).memory = s.memory := by
  simp [State.endCommand]
@[simp] theorem State.endCommand_quote (s : State) (st : Status) (w : Word) : (s.endCommand st w).quote = s.quote := by
  simp [State.endCommand]
@[simp] theorem State.endCommand_highlight (s : State) (st : Status) (w : Word) : (s.endCommand st w).highlight = s.highlight := by
  simp [State.endCommand]
@[simp] theorem State.endCommand_video (s : State) (st : Status) (w : Word) : (s.endCommand st w).video = s.video := by
  simp [State.endCommand]
@[simp] theorem State.endCommand_control (s : State) (st : Status) (w : Word) : (s.endCommand st w).control = s.control := by
  simp [State.endCommand]
@[simp] theorem State.endCommand_resetHeld (s : State) (st : Status) (w : Word) : (s.endCommand st w).resetHeld = s.resetHeld := by
  simp [State.endCommand]
@[simp] theorem State.endCommand_freeCount (s : State) (st : Status) (w : Word) : (s.endCommand st w).freeCount = s.freeCount := by
  simp [State.endCommand]
@[simp] theorem State.endCommand_pending (s : State) (st : Status) (w : Word) : (s.endCommand st w).pending = s.pending := by
  simp [State.endCommand]

/-! ### determineTick -/

@[simp] theorem State.determineTick_ports (s : State) (f : Nat) (o : Option Int) (n : Int) : (s.determineTick f o n).ports = s.ports := by
  unfold State.determineTick; split <;> (try split) <;> (try split) <;> (try split) <;> (try split) <;> simp
@[simp] theorem State.determineTick_probe (s : State) (f : Nat) (o : Option Int) (n : Int) : (s.determineTick f o n).probe = s.probe := by
  unfold State.determineTick; split <;> (try split) <;> (try split) <;> (try split) <;> (try split) <;> simp
@[simp] theorem State.determineTick_rings (s : State) (f : Nat) (o : Option Int) (n : Int) : (s.determineTick f o n).rings = s.rings := by
  unfold State.determineTick; split <;> (try split) <;> (try split) <;> (try split) <;> (try split) <;> simp
@[simp] theorem State.determineTick_memory (s : State) (f : Nat) (o : Option Int) (n : Int) : (s.determineTick f o n).memory = s.memory := by
  unfold State.determineTick; split <;> (try split) <;> (try split) <;> (try split) <;> (try split) <;> simp
@[simp] theorem State.determineTick_quote (s : State) (f : Nat) (o : Option Int) (n : Int) : (s.determineTick f o n).quote = s.quote := by
  unfold State.determineTick; split <;> (try split) <;> (try split) <;> (try split) <;> (try split) <;> simp
@[simp] theorem State.determineTick_plane (s : State) (f : Nat) (o : Option Int) (n : Int) : (s.determineTick f o n).plane = s.plane := by
  unfold State.determineTick; split <;> (try split) <;> (try split) <;> (try split) <;> (try split) <;> simp
@[simp] theorem State.determineTick_video (s : State) (f : Nat) (o : Option Int) (n : Int) : (s.determineTick f o n).video = s.video := by
  unfold State.determineTick; split <;> (try split) <;> (try split) <;> (try split) <;> (try split) <;> simp
@[simp] theorem State.determineTick_control (s : State) (f : Nat) (o : Option Int) (n : Int) : (s.determineTick f o n).control = s.control := by
  unfold State.determineTick; split <;> (try split) <;> (try split) <;> (try split) <;> (try split) <;> simp
@[simp] theorem State.determineTick_resetHeld (s : State) (f : Nat) (o : Option Int) (n : Int) : (s.determineTick f o n).resetHeld = s.resetHeld := by
  unfold State.determineTick; split <;> (try split) <;> (try split) <;> (try split) <;> (try split) <;> simp
@[simp] theorem State.determineTick_freeCount (s : State) (f : Nat) (o : Option Int) (n : Int) : (s.determineTick f o n).freeCount = s.freeCount := by
  unfold State.determineTick; split <;> (try split) <;> (try split) <;> (try split) <;> (try split) <;> simp
@[simp] theorem State.determineTick_pending (s : State) (f : Nat) (o : Option Int) (n : Int) : (s.determineTick f o n).pending = s.pending := by
  unfold State.determineTick; split <;> (try split) <;> (try split) <;> (try split) <;> (try split) <;> simp

/-! ### trigger -/

@[simp] theorem State.trigger_ports (s : State) : (s.trigger).ports = s.ports := by
  unfold State.trigger; dsimp only; split <;> (try split) <;> simp
@[simp] theorem State.trigger_probe (s : State) : (s.trigger).probe = s.probe := by
  unfold State.trigger; dsimp only; split <;> (try split) <;> simp
@[simp] theorem State.trigger_rings (s : State) : (s.trigger).rings = s.rings := by
  unfold State.trigger; dsimp only; split <;> (try split) <;> simp
@[simp] theorem State.trigger_memory (s : State) : (s.trigger).memory = s.memory := by
  unfold State.trigger; dsimp only; split <;> (try split) <;> simp
@[simp] theorem State.trigger_quote (s : State) : (s.trigger).quote = s.quote := by
  unfold State.trigger; dsimp only; split <;> (try split) <;> simp
@[simp] theorem State.trigger_highlight (s : State) : (s.trigger).highlight = s.highlight := by
  unfold State.trigger; dsimp only; split <;> (try split) <;> simp
@[simp] theorem State.trigger_plane (s : State) : (s.trigger).plane = s.plane := by
  unfold State.trigger; dsimp only; split <;> (try split) <;> simp
@[simp] theorem State.trigger_video (s : State) : (s.trigger).video = s.video := by
  unfold State.trigger; dsimp only; split <;> (try split) <;> simp
@[simp] theorem State.trigger_control (s : State) : (s.trigger).control = s.control := by
  unfold State.trigger; dsimp only; split <;> (try split) <;> simp
@[simp] theorem State.trigger_resetHeld (s : State) : (s.trigger).resetHeld = s.resetHeld := by
  unfold State.trigger; dsimp only; split <;> (try split) <;> simp
@[simp] theorem State.trigger_freeCount (s : State) : (s.trigger).freeCount = s.freeCount := by
  unfold State.trigger; dsimp only; split <;> (try split) <;> simp
@[simp] theorem State.trigger_pending (s : State) : (s.trigger).pending = s.pending := by
  unfold State.trigger; dsimp only; split <;> (try split) <;> simp

/-! ### abandonSweep -/

@[simp] theorem State.abandonSweep_ports (s : State) : (s.abandonSweep).ports = s.ports := by
  unfold State.abandonSweep; dsimp only; split <;> simp
@[simp] theorem State.abandonSweep_probe (s : State) : (s.abandonSweep).probe = s.probe := by
  unfold State.abandonSweep; dsimp only; split <;> simp
@[simp] theorem State.abandonSweep_memory (s : State) : (s.abandonSweep).memory = s.memory := by
  unfold State.abandonSweep; dsimp only; split <;> simp
@[simp] theorem State.abandonSweep_quote (s : State) : (s.abandonSweep).quote = s.quote := by
  unfold State.abandonSweep; dsimp only; split <;> simp
@[simp] theorem State.abandonSweep_highlight (s : State) : (s.abandonSweep).highlight = s.highlight := by
  unfold State.abandonSweep; dsimp only; split <;> simp
@[simp] theorem State.abandonSweep_plane (s : State) : (s.abandonSweep).plane = s.plane := by
  unfold State.abandonSweep; dsimp only; split <;> simp
@[simp] theorem State.abandonSweep_video (s : State) : (s.abandonSweep).video = s.video := by
  unfold State.abandonSweep; dsimp only; split <;> simp
@[simp] theorem State.abandonSweep_control (s : State) : (s.abandonSweep).control = s.control := by
  unfold State.abandonSweep; dsimp only; split <;> simp
@[simp] theorem State.abandonSweep_resetHeld (s : State) : (s.abandonSweep).resetHeld = s.resetHeld := by
  unfold State.abandonSweep; dsimp only; split <;> simp
@[simp] theorem State.abandonSweep_freeCount (s : State) : (s.abandonSweep).freeCount = s.freeCount := by
  unfold State.abandonSweep; dsimp only; split <;> simp
@[simp] theorem State.abandonSweep_pending (s : State) : (s.abandonSweep).pending = s.pending := by
  unfold State.abandonSweep; dsimp only; split <;> simp

/-! ### stopTest -/

@[simp] theorem State.stopTest_probe (s : State) : (s.stopTest).probe = s.probe := by
  unfold State.stopTest; split <;> simp
@[simp] theorem State.stopTest_rings (s : State) : (s.stopTest).rings = s.rings := by
  unfold State.stopTest; split <;> simp
@[simp] theorem State.stopTest_memory (s : State) : (s.stopTest).memory = s.memory := by
  unfold State.stopTest; split <;> simp
@[simp] theorem State.stopTest_quote (s : State) : (s.stopTest).quote = s.quote := by
  unfold State.stopTest; split <;> simp
@[simp] theorem State.stopTest_field (s : State) : (s.stopTest).field = s.field := by
  unfold State.stopTest; split <;> simp
@[simp] theorem State.stopTest_highlight (s : State) : (s.stopTest).highlight = s.highlight := by
  unfold State.stopTest; split <;> simp
@[simp] theorem State.stopTest_plane (s : State) : (s.stopTest).plane = s.plane := by
  unfold State.stopTest; split <;> simp
@[simp] theorem State.stopTest_video (s : State) : (s.stopTest).video = s.video := by
  unfold State.stopTest; split <;> simp
@[simp] theorem State.stopTest_resetHeld (s : State) : (s.stopTest).resetHeld = s.resetHeld := by
  unfold State.stopTest; split <;> simp
@[simp] theorem State.stopTest_freeCount (s : State) : (s.stopTest).freeCount = s.freeCount := by
  unfold State.stopTest; split <;> simp
@[simp] theorem State.stopTest_pending (s : State) : (s.stopTest).pending = s.pending := by
  unfold State.stopTest; split <;> simp

/-! ### failStart -/

@[simp] theorem State.failStart_probe (s : State) (o : StartOutcome) : (s.failStart o).probe = s.probe := by
  simp [State.failStart]
@[simp] theorem State.failStart_rings (s : State) (o : StartOutcome) : (s.failStart o).rings = s.rings := by
  simp [State.failStart]
@[simp] theorem State.failStart_memory (s : State) (o : StartOutcome) : (s.failStart o).memory = s.memory := by
  simp [State.failStart]
@[simp] theorem State.failStart_quote (s : State) (o : StartOutcome) : (s.failStart o).quote = s.quote := by
  simp [State.failStart]
@[simp] theorem State.failStart_field (s : State) (o : StartOutcome) : (s.failStart o).field = s.field := by
  simp [State.failStart]
@[simp] theorem State.failStart_highlight (s : State) (o : StartOutcome) : (s.failStart o).highlight = s.highlight := by
  simp [State.failStart]
@[simp] theorem State.failStart_plane (s : State) (o : StartOutcome) : (s.failStart o).plane = s.plane := by
  simp [State.failStart]
@[simp] theorem State.failStart_resetHeld (s : State) (o : StartOutcome) : (s.failStart o).resetHeld = s.resetHeld := by
  simp [State.failStart]
@[simp] theorem State.failStart_freeCount (s : State) (o : StartOutcome) : (s.failStart o).freeCount = s.freeCount := by
  simp [State.failStart]
@[simp] theorem State.failStart_pending (s : State) (o : StartOutcome) : (s.failStart o).pending = s.pending := by
  simp [State.failStart]

/-! ### offRequest -/

@[simp] theorem State.offRequest_probe (s : State) (r : RingId) : (s.offRequest r).probe = s.probe := by
  unfold State.offRequest; split <;> simp
@[simp] theorem State.offRequest_memory (s : State) (r : RingId) : (s.offRequest r).memory = s.memory := by
  unfold State.offRequest; split <;> simp
@[simp] theorem State.offRequest_quote (s : State) (r : RingId) : (s.offRequest r).quote = s.quote := by
  unfold State.offRequest; split <;> simp
@[simp] theorem State.offRequest_highlight (s : State) (r : RingId) : (s.offRequest r).highlight = s.highlight := by
  unfold State.offRequest; split <;> simp
@[simp] theorem State.offRequest_plane (s : State) (r : RingId) : (s.offRequest r).plane = s.plane := by
  unfold State.offRequest; split <;> simp
@[simp] theorem State.offRequest_video (s : State) (r : RingId) : (s.offRequest r).video = s.video := by
  unfold State.offRequest; split <;> simp
@[simp] theorem State.offRequest_resetHeld (s : State) (r : RingId) : (s.offRequest r).resetHeld = s.resetHeld := by
  unfold State.offRequest; split <;> simp
@[simp] theorem State.offRequest_freeCount (s : State) (r : RingId) : (s.offRequest r).freeCount = s.freeCount := by
  unfold State.offRequest; split <;> simp
@[simp] theorem State.offRequest_pending (s : State) (r : RingId) : (s.offRequest r).pending = s.pending := by
  unfold State.offRequest; split <;> simp

/-! ### startRing -/

@[simp] theorem State.startRing_ports (s : State) (r : RingId) : (s.startRing r).ports = s.ports := by
  unfold State.startRing; split <;> simp
@[simp] theorem State.startRing_probe (s : State) (r : RingId) : (s.startRing r).probe = s.probe := by
  unfold State.startRing; split <;> simp
@[simp] theorem State.startRing_quote (s : State) (r : RingId) : (s.startRing r).quote = s.quote := by
  unfold State.startRing; split <;> simp
@[simp] theorem State.startRing_field (s : State) (r : RingId) : (s.startRing r).field = s.field := by
  unfold State.startRing; split <;> simp
@[simp] theorem State.startRing_highlight (s : State) (r : RingId) : (s.startRing r).highlight = s.highlight := by
  unfold State.startRing; split <;> simp
@[simp] theorem State.startRing_plane (s : State) (r : RingId) : (s.startRing r).plane = s.plane := by
  unfold State.startRing; split <;> simp
@[simp] theorem State.startRing_video (s : State) (r : RingId) : (s.startRing r).video = s.video := by
  unfold State.startRing; split <;> simp
@[simp] theorem State.startRing_control (s : State) (r : RingId) : (s.startRing r).control = s.control := by
  unfold State.startRing; split <;> simp
@[simp] theorem State.startRing_resetHeld (s : State) (r : RingId) : (s.startRing r).resetHeld = s.resetHeld := by
  unfold State.startRing; split <;> simp
@[simp] theorem State.startRing_freeCount (s : State) (r : RingId) : (s.startRing r).freeCount = s.freeCount := by
  unfold State.startRing; split <;> simp
@[simp] theorem State.startRing_pending (s : State) (r : RingId) : (s.startRing r).pending = s.pending := by
  unfold State.startRing; split <;> simp

/-! ### ringSwitch -/

@[simp] theorem State.ringSwitch_probe (s : State) (r : RingId) (on off : Bool) : (s.ringSwitch r on off).probe = s.probe := by
  cases on <;> cases off <;> simp [State.ringSwitch]
@[simp] theorem State.ringSwitch_quote (s : State) (r : RingId) (on off : Bool) : (s.ringSwitch r on off).quote = s.quote := by
  cases on <;> cases off <;> simp [State.ringSwitch]
@[simp] theorem State.ringSwitch_highlight (s : State) (r : RingId) (on off : Bool) : (s.ringSwitch r on off).highlight = s.highlight := by
  cases on <;> cases off <;> simp [State.ringSwitch]
@[simp] theorem State.ringSwitch_plane (s : State) (r : RingId) (on off : Bool) : (s.ringSwitch r on off).plane = s.plane := by
  cases on <;> cases off <;> simp [State.ringSwitch]
@[simp] theorem State.ringSwitch_video (s : State) (r : RingId) (on off : Bool) : (s.ringSwitch r on off).video = s.video := by
  cases on <;> cases off <;> simp [State.ringSwitch]
@[simp] theorem State.ringSwitch_resetHeld (s : State) (r : RingId) (on off : Bool) : (s.ringSwitch r on off).resetHeld = s.resetHeld := by
  cases on <;> cases off <;> simp [State.ringSwitch]
@[simp] theorem State.ringSwitch_freeCount (s : State) (r : RingId) (on off : Bool) : (s.ringSwitch r on off).freeCount = s.freeCount := by
  cases on <;> cases off <;> simp [State.ringSwitch]
@[simp] theorem State.ringSwitch_pending (s : State) (r : RingId) (on off : Bool) : (s.ringSwitch r on off).pending = s.pending := by
  cases on <;> cases off <;> simp [State.ringSwitch]

/-! ### inOff -/

@[simp] theorem State.inOff_ports (s : State) (r : RingId) (f : RingUnit → RingUnit) : (s.inOff r f).ports = s.ports := by
  unfold State.inOff; split <;> simp
@[simp] theorem State.inOff_probe (s : State) (r : RingId) (f : RingUnit → RingUnit) : (s.inOff r f).probe = s.probe := by
  unfold State.inOff; split <;> simp
@[simp] theorem State.inOff_memory (s : State) (r : RingId) (f : RingUnit → RingUnit) : (s.inOff r f).memory = s.memory := by
  unfold State.inOff; split <;> simp
@[simp] theorem State.inOff_quote (s : State) (r : RingId) (f : RingUnit → RingUnit) : (s.inOff r f).quote = s.quote := by
  unfold State.inOff; split <;> simp
@[simp] theorem State.inOff_field (s : State) (r : RingId) (f : RingUnit → RingUnit) : (s.inOff r f).field = s.field := by
  unfold State.inOff; split <;> simp
@[simp] theorem State.inOff_highlight (s : State) (r : RingId) (f : RingUnit → RingUnit) : (s.inOff r f).highlight = s.highlight := by
  unfold State.inOff; split <;> simp
@[simp] theorem State.inOff_plane (s : State) (r : RingId) (f : RingUnit → RingUnit) : (s.inOff r f).plane = s.plane := by
  unfold State.inOff; split <;> simp
@[simp] theorem State.inOff_video (s : State) (r : RingId) (f : RingUnit → RingUnit) : (s.inOff r f).video = s.video := by
  unfold State.inOff; split <;> simp
@[simp] theorem State.inOff_control (s : State) (r : RingId) (f : RingUnit → RingUnit) : (s.inOff r f).control = s.control := by
  unfold State.inOff; split <;> simp
@[simp] theorem State.inOff_resetHeld (s : State) (r : RingId) (f : RingUnit → RingUnit) : (s.inOff r f).resetHeld = s.resetHeld := by
  unfold State.inOff; split <;> simp
@[simp] theorem State.inOff_freeCount (s : State) (r : RingId) (f : RingUnit → RingUnit) : (s.inOff r f).freeCount = s.freeCount := by
  unfold State.inOff; split <;> simp
@[simp] theorem State.inOff_pending (s : State) (r : RingId) (f : RingUnit → RingUnit) : (s.inOff r f).pending = s.pending := by
  unfold State.inOff; split <;> simp

end Sys2Proof.Machine
end

