-- ==== Sys2Proof/Laws/Ops.lean ====
section
/-! SUPPORT. What each shared operation does, once for each: a proof cites the equation here in place of unfolding the
operation. With Laws/Frames.lean these say everything an operation can do. -/

namespace Sys2Proof.Machine

/-! ### The three rings, ports and requesters -/

section PerRingLaws

variable {α : Type}

@[simp] theorem PerRing.get_set_self (x : PerRing α) (r : RingId) (v : α) : (x.set r v).get r = v := by cases r <;> rfl

theorem PerRing.get_set_ne (x : PerRing α) (r q : RingId) (v : α) (h : q ≠ r) : (x.set r v).get q = x.get q := by
  cases r <;> cases q <;> first | rfl | exact absurd rfl h

theorem PerRing.get_set (x : PerRing α) (r q : RingId) (v : α) : (x.set r v).get q = if q = r then v else x.get q := by
  cases r <;> cases q <;> rfl

@[simp] theorem PerRing.set_set (x : PerRing α) (r : RingId) (v w : α) : (x.set r v).set r w = x.set r w := by
  cases r <;> rfl

@[simp] theorem PerRing.set_get (x : PerRing α) (r : RingId) : x.set r (x.get r) = x := by cases r <;> rfl

theorem PerRing.set_comm (x : PerRing α) (r q : RingId) (v w : α) (h : r ≠ q) :
    (x.set r v).set q w = (x.set q w).set r v := by
  cases r <;> cases q <;> first | rfl | exact absurd rfl h

/-- The three values decide. -/
theorem PerRing.eq_of_get (x y : PerRing α) (h : ∀ r, x.get r = y.get r) : x = y := by
  cases x; cases y
  have ha := h .a
  have hb := h .b
  have ht := h .t
  simp only [PerRing.get] at ha hb ht
  simp [ha, hb, ht]

end PerRingLaws

@[simp] theorem Requests.get_set_self (x : Requests) (q : Requester) (v : Option Transaction) :
    (x.set q v).get q = v := by
  cases q with
  | ring r => exact PerRing.get_set_self _ _ _
  | loader => rfl

theorem Requests.get_set_ne (x : Requests) (q p : Requester) (v : Option Transaction) (h : p ≠ q) :
    (x.set q v).get p = x.get p := by
  cases q with
  | loader =>
    cases p with
    | ring r => rfl
    | loader => exact absurd rfl h
  | ring r =>
    cases p with
    | ring r' => exact PerRing.get_set_ne _ _ _ _ fun e => h (by rw [e])
    | loader => rfl

@[simp] theorem Requests.set_set (x : Requests) (q : Requester) (v w : Option Transaction) :
    (x.set q v).set q w = x.set q w := by
  cases q <;> simp [Requests.set]

/-! ### Addresses and words -/

/-- Taking low bits as zero. -/
theorem alignDown_eq (m a : Nat) : alignDown m a = a / m * m := by
  unfold alignDown
  have := Nat.div_add_mod a m
  rw [Nat.mul_comm] at this
  omega

theorem ofBytes_toNat (a b c d : Nat) :
    (ofBytes a b c d).toNat = a % 256 + 256 * (b % 256) + 65536 * (c % 256) + 16777216 * (d % 256) := by
  unfold ofBytes
  rw [BitVec.toNat_ofNat]
  omega

theorem ofHalves_toNat (a b : Nat) : (ofHalves a b).toNat = a % 65536 + 65536 * (b % 65536) := by
  unfold ofHalves
  rw [BitVec.toNat_ofNat]
  omega

/-! ### Ring state -/

/-- A change of a ring's state (R158, R166), all of it. -/
theorem State.changeRing_eq (s : State) (r : RingId) (new : RingState) :
    s.changeRing r new = { s with
      rings := s.rings.set r { s.rings.get r with state := new }
      ports := if isFeed r = true ∧ (s.rings.get r).state ≠ new then
          s.ports.set .t { s.ports.get .t with causes := (s.ports.get .t).causes ++ [.feed] }
        else s.ports
      field := if (s.rings.get r).state ≠ new ∧ ((s.rings.get r).state = .on ∨ new = .on) then
          { s.field with inbox := s.field.inbox ++ [.trigger] }
        else s.field
      control := if new = .off ∨ new = .halted then
          { s.control with ringReports := s.control.ringReports ++ [r] }
        else s.control } := by
  unfold State.changeRing
  by_cases h1 : isFeed r = true <;> by_cases h2 : (s.rings.get r).state = new <;>
    by_cases h3 : (s.rings.get r).state = .on <;> by_cases h4 : new = .on <;>
    by_cases h5 : new = .off <;> by_cases h6 : new = .halted <;>
    simp_all [State.modRing, State.sendCause, State.modPort, State.sendField, State.sendFields]

/-- Entering READY (R150), all of it. -/
theorem State.enterReady_eq (s : State) (r : RingId) :
    s.enterReady r = { s with
      rings := s.rings.set r { s.rings.get r with phase := .status }
      memory :=
        { s.memory with
          sent := s.memory.sent.set (.ring r)
            (some ⟨.statusRead r, (s.rings.get r).base.toNat + 64 * (s.rings.get r).index, 0, [], .requesting⟩) } } := rfl

/-- Looking again (R151), all of it. -/
theorem State.lookAgain_eq (s : State) (r : RingId) :
    s.lookAgain r =
      if (s.rings.get r).phase = .waiting ∧ ((s.rings.get r).state = .on ∨ (s.rings.get r).state = .silent) then
        s.enterReady r
      else s := by
  unfold State.lookAgain
  cases h : (s.rings.get r).state <;> simp [RingState.fetches, h]

/-! ### The trigger of a commit -/

/-- A trigger that joins the requests of the Field Unit leaves those of every other kind in their order. -/
theorem joinTrigger_filter (p : FieldRequest → Bool) (hp : p .trigger = false) :
    ∀ l, (joinTrigger l).filter p = l.filter p
  | [] => by simp [joinTrigger, hp]
  | q :: rest => by
    have ih := joinTrigger_filter p hp rest
    cases q <;> simp [joinTrigger, List.filter_cons, hp, ih]

/-- With no step request held, the trigger joins the end. -/
theorem joinTrigger_append : ∀ l : List FieldRequest, .step ∉ l → joinTrigger l = l ++ [.trigger]
  | [], _ => rfl
  | q :: rest, h => by
    have ih := joinTrigger_append rest fun x => h (List.mem_cons_of_mem _ x)
    cases q <;> first | exact absurd List.mem_cons_self h | simp [joinTrigger, ih]

/-- With a step request held, the trigger stands before the first. -/
theorem joinTrigger_step (before after : List FieldRequest) (h : .step ∉ before) :
    joinTrigger (before ++ .step :: after) = before ++ .trigger :: .step :: after := by
  induction before with
  | nil => rfl
  | cons q rest ih =>
    have := ih fun x => h (List.mem_cons_of_mem _ x)
    cases q <;> first | exact absurd List.mem_cons_self h | simp [joinTrigger, this]

/-! ### The Field Unit's events -/

/-- An event ends at once when no span write is left to send and the Highlight Timer has no request outstanding. -/
theorem State.fieldFinish_done (s : State) (after : FieldAfter) (h : s.field.event = some ⟨[], after⟩)
    (hq : s.highlight.requests = []) :
    s.fieldFinish = { s with field := { s.field with event := none } }.runAfter after := by
  simp [State.fieldFinish, h, hq]

/-- An event goes on while a request to the Highlight Timer is outstanding. -/
theorem State.fieldFinish_waits (s : State) (hq : s.highlight.requests ≠ []) : s.fieldFinish = s := by
  unfold State.fieldFinish
  split
  · rfl
  · simp [hq]

/-- A move is no end of its event (R58). -/
theorem State.fieldFinish_move (s : State) (sp : List SpanWrite) (m : FieldMove)
    (h : s.field.event = some ⟨sp, .moveTo m⟩) : s.fieldFinish = s := by
  obtain ⟨ports, probe, rings, memory, quote, field, highlight, plane, video, control, resetHeld, freeCount, pending⟩ := s
  obtain ⟨records, occupancy, absentGlyph, sweep, inbox, event, command⟩ := field
  simp only at h
  subst h
  unfold State.fieldFinish
  dsimp only
  split
  · rename_i e
    simp [State.runAfter, e.1]
  · rfl

/-- With no event under way there is none to end. -/
theorem State.fieldFinish_none (s : State) (h : s.field.event = none) : s.fieldFinish = s := by
  simp [State.fieldFinish, h]

/-- An event whose span writes all find room, with the Highlight Timer idle, ends at once. -/
theorem State.beginEvent_done (s : State) (spans : List SpanWrite) (after : FieldAfter)
    (hroom : spans.length ≤ 64 - s.heldSpans) (hq : s.highlight.requests = []) (he : s.field.event = none) :
    s.beginEvent spans after = (s.sendPlanes (spans.map .span)).runAfter after := by
  obtain ⟨ports, probe, rings, memory, quote, field, highlight, plane, video, control, resetHeld, freeCount, pending⟩ := s
  obtain ⟨records, occupancy, absentGlyph, sweep, inbox, event, command⟩ := field
  simp only at he hq
  subst he
  simp [State.beginEvent, State.fieldFinish, List.take_of_length_le hroom, List.drop_eq_nil_of_le hroom, hq,
    State.sendPlanes]

/-- An event whose span writes all find room goes on while the Highlight Timer has a request outstanding. -/
theorem State.beginEvent_waits (s : State) (spans : List SpanWrite) (after : FieldAfter)
    (hroom : spans.length ≤ 64 - s.heldSpans) (hq : s.highlight.requests ≠ []) :
    s.beginEvent spans after = { s with
      plane := { s.plane with inbox := s.plane.inbox ++ spans.map .span }
      field := { s.field with event := some ⟨[], after⟩ } } := by
  unfold State.beginEvent
  rw [State.fieldFinish_waits]
  · simp [List.take_of_length_le hroom, List.drop_eq_nil_of_le hroom, State.sendPlanes]
  · exact hq

/-- An event that finds 64 span writes held sends none and keeps them all (R49). -/
theorem State.beginEvent_full (s : State) (spans : List SpanWrite) (after : FieldAfter) (hs : spans ≠ [])
    (h : 64 ≤ s.heldSpans) :
    s.beginEvent spans after = { s with field := { s.field with event := some ⟨spans, after⟩ } } := by
  have h0 : 64 - s.heldSpans = 0 := by omega
  simp [State.beginEvent, h0, State.sendPlanes, State.fieldFinish, hs]

/-- A span write of an event that has more to send. -/
theorem State.sendSpan_more (s : State) (w : SpanWrite) (e : FieldEvent) (h : e.spans ≠ []) :
    s.sendSpan w e = { s with
      plane := { s.plane with inbox := s.plane.inbox ++ [.span w] }
      field := { s.field with event := some e } } := by
  obtain ⟨spans, after⟩ := e
  cases spans with
  | nil => exact absurd rfl h
  | cons v more => simp [State.sendSpan, State.spanSent, State.fieldFinish, State.sendPlanes]

/-- The last span write of an event that is no move, the Highlight Timer with no request outstanding. -/
theorem State.sendSpan_done (s : State) (w : SpanWrite) (after : FieldAfter) (ha : ∀ m, after ≠ .moveTo m)
    (hq : s.highlight.requests = []) :
    s.sendSpan w ⟨[], after⟩ = ({ s with
      plane := { s.plane with inbox := s.plane.inbox ++ [.span w] }
      field := { s.field with event := none } } : State).runAfter after := by
  cases after <;> simp [State.sendSpan, State.spanSent, State.fieldFinish, State.sendPlanes, hq] <;> exact absurd rfl (ha _)

/-- The blanking write of a move: with it sent, the move is made (R58). -/
theorem State.sendSpan_move (s : State) (w : SpanWrite) (m : FieldMove) :
    s.sendSpan w ⟨[], .moveTo m⟩ = ({ s with
      plane := { s.plane with inbox := s.plane.inbox ++ [.span w] }
      field := { s.field with event := none } } : State).makeMove m := rfl

/-- A field command that ends with an outcome and no span write. -/
theorem State.endCommand_eq (s : State) (st : Status) (w : Word) (hq : s.highlight.requests = [])
    (he : s.field.event = none) : s.endCommand st w = s.completeCommand st w := by
  unfold State.endCommand
  rw [State.beginEvent_done s [] _ (by simp) hq he]
  simp [State.runAfter, State.sendPlanes]

/-! ### The Quote Engine's events -/

/-- Renders that all find room go at once, and the outcome with them. -/
theorem State.quoteFinish_done (s : State) (renders : List RenderRequest) (r : RingId) (st : Status) (w : Word)
    (h : renders.length ≤ 64 - s.heldRenders) :
    s.quoteFinish renders r st w = (s.sendFields (renders.map .render)).sendRing r (.outcome st w) := by
  simp [State.quoteFinish, h, List.take_of_length_le h]

/-- Renders that do not all find room wait with the event. -/
theorem State.quoteFinish_waits (s : State) (renders : List RenderRequest) (r : RingId) (st : Status) (w : Word)
    (h : 64 - s.heldRenders < renders.length) :
    s.quoteFinish renders r st w = { s with
      field := { s.field with inbox := s.field.inbox ++ (renders.take (64 - s.heldRenders)).map .render }
      quote := { s.quote with wait := some ⟨renders.drop (64 - s.heldRenders), r, st, w⟩ } } := by
  simp [State.quoteFinish, Nat.not_le.2 h, State.sendFields]

/-! ### The Memory Master -/

/-- Nothing is granted while a transaction is in flight. -/
theorem MemoryMaster.grant_busy (m : MemoryMaster) (tx : Transaction) (h : m.inFlight = some tx) : m.grant = m := by
  simp [MemoryMaster.grant, h]

/-- The grant to a ring (R171). -/
theorem MemoryMaster.grant_ring (m : MemoryMaster) (r : RingId) (h : m.inFlight = none) (hp : m.pick = some r) :
    m.grant = { m with
      inFlight := m.held.rings.get r, held := m.held.set (.ring r) none, pointer := nextRing r } := by
  simp [MemoryMaster.grant, h, hp]

/-- The grant when no ring holds a request (R172). -/
theorem MemoryMaster.grant_loader (m : MemoryMaster) (h : m.inFlight = none) (hp : m.pick = none) :
    m.grant = match m.held.loader with
      | some tx => { m with inFlight := some tx, held := m.held.set .loader none }
      | none => m := by
  cases hl : m.held.loader <;> simp [MemoryMaster.grant, h, hp, hl]

/-- The ring that the round robin picks holds a request. -/
theorem MemoryMaster.pick_holds (m : MemoryMaster) (r : RingId) (h : m.pick = some r) :
    (m.held.rings.get r).isSome = true := by
  unfold MemoryMaster.pick at h
  have := List.find?_some h
  simpa using this

/-! ### The plane -/

/-- A base-layer write changes cells and save area alone (R88). -/
theorem PlaneController.baseWrite_frame (p : PlaneController) (row col : Nat) (v : CellValue) :
    p.baseWrite row col v = { p with cells := (p.baseWrite row col v).cells, save := (p.baseWrite row col v).save } := by
  unfold PlaneController.baseWrite
  split <;> rfl

/-- A span write changes cells and save area alone. -/
theorem PlaneController.spanFrom_frame (row : Nat) : ∀ (vs : List CellValue) (p : PlaneController) (col : Nat),
    p.spanFrom row col vs = { p with cells := (p.spanFrom row col vs).cells, save := (p.spanFrom row col vs).save }
  | [], _, _ => rfl
  | v :: rest, p, col => by
    have h : p.spanCell row col v =
        { p with cells := (p.spanCell row col v).cells, save := (p.spanCell row col v).save } := by
      unfold PlaneController.spanCell
      split
      · exact PlaneController.baseWrite_frame p row col v
      · rfl
    unfold PlaneController.spanFrom
    rw [PlaneController.spanFrom_frame row rest (p.spanCell row col v) (col + 1)]
    rw [h]

/-- Outside LOADING no span write waits. -/
@[simp] theorem State.spansWait_of_ne {s : State} (h : s.control.device ≠ .loading) : s.spansWait = false := by
  simp [State.spansWait, h]

/-- In LOADING whether a span write waits is the free value. -/
theorem State.spansWait_loading {s : State} (h : s.control.device = .loading) :
    s.spansWait = Config.spansWaitInLoading := by simp [State.spansWait, h]

/-- What SPAN_WRITE does with a span write at the front: nothing where it waits, and else the write. -/
theorem execSpanWrite_span {s : State} {w : SpanWrite} {rest : List PlaneRequest} (h : s.plane.inbox = .span w :: rest) :
    execSpanWrite s = .next (if s.spansWait then s else s.takeSpan w) := by
  unfold execSpanWrite; rw [h]; dsimp only; split <;> rfl

/-- What the taking of a span write leaves of the plane: all but its cells, the save area and its requests. -/
theorem State.takeSpan_frame (s : State) (w : SpanWrite) : s.takeSpan w =
    { s with plane := { s.plane with
        inbox := s.plane.inbox.tail, cells := (s.takeSpan w).plane.cells, save := (s.takeSpan w).plane.save } } := by
  unfold State.takeSpan
  dsimp only
  rw [PlaneController.spanFrom_frame w.row w.cells s.dropPlane.plane w.col]
  rfl

/-- A text command writes a cell by changing cells and save area alone. -/
theorem PlaneController.textWrite_frame (p q : PlaneController) (occ : Tab (Option Nat)) (layer : Layer) (n : Nat)
    (v : CellValue) (h : p.textWrite occ layer n v = some q) : q = { p with cells := q.cells, save := q.save } := by
  unfold PlaneController.textWrite at h
  split at h
  · exact absurd h (by simp)
  · split at h
    · split at h
      · exact absurd h (by simp)
      · cases h; exact PlaneController.baseWrite_frame _ _ _ _
    · split at h
      · exact absurd h (by simp)
      · dsimp only at h
        split at h
        · cases h; rfl
        · exact absurd h (by simp)

/-- The walk of a text command changes cells and save area alone. -/
theorem Walk.run_frame (occ : Tab (Option Nat)) (layer : Layer) : ∀ (vs : List CellValue) (n : Nat) (w : Walk),
    (Walk.run occ layer n vs w).plane = { w.plane with
      cells := (Walk.run occ layer n vs w).plane.cells, save := (Walk.run occ layer n vs w).plane.save }
  | [], _, _ => rfl
  | v :: rest, n, w => by
    unfold Walk.run
    split
    · rename_i p hp
      have h := PlaneController.textWrite_frame _ _ _ _ _ _ hp
      have ih := Walk.run_frame occ layer rest (n + 1) ⟨p, w.written + 1, w.skipped⟩
      rw [ih]
      rw [h]
    · exact Walk.run_frame occ layer rest (n + 1) ⟨w.plane, w.written, w.skipped + 1⟩

/-- Each cell of a walk counts once (R95). -/
theorem Walk.run_counts (occ : Tab (Option Nat)) (layer : Layer) : ∀ (vs : List CellValue) (n : Nat) (w : Walk),
    (Walk.run occ layer n vs w).written + (Walk.run occ layer n vs w).skipped = w.written + w.skipped + vs.length
  | [], _, _ => rfl
  | v :: rest, n, w => by
    unfold Walk.run
    split
    · rw [Walk.run_counts occ layer rest]; simp only [List.length_cons]; omega
    · rw [Walk.run_counts occ layer rest]; simp only [List.length_cons]; omega

/-- Writing a cell of the plane keeps the canonical form. -/
theorem PlaneController.putCell_wf (p : PlaneController) (row col : Nat) (v : CellValue)
    (h : Tab.WF cellSpec p.cells) : Tab.WF cellSpec (p.putCell row col v).cells := Tab.set_wf _ _ _ _ h

/-- Writing a save slot keeps the canonical form. -/
theorem PlaneController.putSave_wf (p : PlaneController) (n : Nat) (v : CellValue)
    (h : Tab.WF saveSpec p.save) : Tab.WF saveSpec (p.putSave n v).save := Tab.set_wf _ _ _ _ h

/-- A base-layer write keeps both canonical forms. -/
theorem PlaneController.baseWrite_wf (p : PlaneController) (row col : Nat) (v : CellValue)
    (hc : Tab.WF cellSpec p.cells) (hs : Tab.WF saveSpec p.save) :
    Tab.WF cellSpec (p.baseWrite row col v).cells ∧ Tab.WF saveSpec (p.baseWrite row col v).save := by
  unfold PlaneController.baseWrite
  split
  · exact ⟨hc, PlaneController.putSave_wf _ _ _ hs⟩
  · exact ⟨PlaneController.putCell_wf _ _ _ _ hc, hs⟩

/-- A span write keeps both canonical forms. -/
theorem PlaneController.spanFrom_wf (row : Nat) : ∀ (vs : List CellValue) (p : PlaneController) (col : Nat),
    Tab.WF cellSpec p.cells → Tab.WF saveSpec p.save →
    Tab.WF cellSpec (p.spanFrom row col vs).cells ∧ Tab.WF saveSpec (p.spanFrom row col vs).save
  | [], _, _, hc, hs => ⟨hc, hs⟩
  | v :: rest, p, col, hc, hs => by
    unfold PlaneController.spanFrom
    have h : Tab.WF cellSpec (p.spanCell row col v).cells ∧ Tab.WF saveSpec (p.spanCell row col v).save := by
      unfold PlaneController.spanCell
      split
      · exact PlaneController.baseWrite_wf _ _ _ _ hc hs
      · exact ⟨hc, hs⟩
    exact PlaneController.spanFrom_wf row rest _ _ h.1 h.2

/-- A walk keeps both canonical forms. -/
theorem Walk.run_wf (occ : Tab (Option Nat)) (layer : Layer) : ∀ (vs : List CellValue) (n : Nat) (w : Walk),
    Tab.WF cellSpec w.plane.cells → Tab.WF saveSpec w.plane.save →
    Tab.WF cellSpec (Walk.run occ layer n vs w).plane.cells ∧ Tab.WF saveSpec (Walk.run occ layer n vs w).plane.save
  | [], _, _, hc, hs => ⟨hc, hs⟩
  | v :: rest, n, w, hc, hs => by
    unfold Walk.run
    split
    · rename_i p hp
      have h : Tab.WF cellSpec p.cells ∧ Tab.WF saveSpec p.save := by
        unfold PlaneController.textWrite at hp
        split at hp
        · exact absurd hp (by simp)
        · split at hp
          · split at hp
            · exact absurd hp (by simp)
            · cases hp; exact PlaneController.baseWrite_wf _ _ _ _ hc hs
          · split at hp
            · exact absurd hp (by simp)
            · dsimp only at hp
              split at hp
              · cases hp; exact ⟨PlaneController.putCell_wf _ _ _ _ hc, hs⟩
              · exact absurd hp (by simp)
      exact Walk.run_wf occ layer rest _ _ h.1 h.2
    · exact Walk.run_wf occ layer rest _ _ hc hs

/-! ### Reset -/

/-- Every store of the machine right after reset is empty, and so canonical. -/
theorem reset_tables_empty : State.reset.quote.slots = [] ∧ State.reset.quote.heads = [] ∧
    State.reset.field.records = [] ∧ State.reset.field.occupancy = [] ∧ State.reset.plane.cells = [] ∧
    State.reset.plane.save = [] ∧ State.reset.video.glyphs = [] := ⟨rfl, rfl, rfl, rfl, rfl, rfl, rfl⟩

end Sys2Proof.Machine
end

