-- ==== Sys2Proof/Laws/OneEach.lean ====
section
/-! SUPPORT. How the shared operations move the descriptors that the rings wait for: what each leaves of the counts of
`State.OneEach`. -/

namespace Sys2Proof.Machine

/-- Between two states the Memory Master, the device state and the rings' states and phases are the same, and `k r`
descriptors of ring `r` came to their owners. -/
structure State.Tok (s t : State) (k : RingId → Int) : Prop where
  memory : t.memory = s.memory
  device : t.control.device = s.control.device
  phase : ∀ r, (t.rings.get r).phase = (s.rings.get r).phase
  state : ∀ r, (t.rings.get r).state = (s.rings.get r).state
  ends : ∀ r, (t.rings.get r).input.countP (fun i => !i.isOutcome) = (s.rings.get r).input.countP (fun i => !i.isOutcome)
  works : ∀ r, (t.worksOf r : Int) = s.worksOf r + k r

/-- One descriptor of ring `r`. -/
def oneOf (r : RingId) : RingId → Int := fun q => if q = r then 1 else 0

/-- The keep lemma: what conserves the descriptors keeps `OneEach`. -/
theorem State.Tok.keeps {s t : State} {k : RingId → Int} (h : s.Tok t k) (hk : ∀ r, k r = 0) (o : s.OneEach) : t.OneEach where
  bus r := by
    have := o.bus r
    simpa only [State.transactionsOf, h.memory, h.ends r, h.phase r] using this
  work r := by
    have a := o.work r
    have b := h.works r
    rw [hk r, h.phase r] at *
    rw [← a]; omega
  still r hr := by rw [h.phase r]; rw [h.state r] at hr; exact o.still r hr
  device hd r := by rw [h.phase r]; rw [h.device] at hd; exact o.device hd r
  requests q tx hq := by rw [h.memory] at hq; exact o.requests q tx hq

theorem State.Tok.refl (s : State) : s.Tok s 0 := ⟨rfl, rfl, fun _ => rfl, fun _ => rfl, fun _ => rfl, fun _ => by simp⟩

theorem State.Tok.trans {s t u : State} {j k : RingId → Int} (h : s.Tok t j) (g : t.Tok u k) : s.Tok u (j + k) where
  memory := g.memory.trans h.memory
  device := g.device.trans h.device
  phase r := (g.phase r).trans (h.phase r)
  state r := (g.state r).trans (h.state r)
  ends r := (g.ends r).trans (h.ends r)
  works r := by rw [g.works r, h.works r, Pi.add_apply]; ring

/-- The same with the count written otherwise. -/
theorem State.Tok.cast {s t : State} {j k : RingId → Int} (e : ∀ r, j r = k r) (h : s.Tok t j) : s.Tok t k :=
  ⟨h.memory, h.device, h.phase, h.state, h.ends, fun r => by rw [h.works r, e r]⟩

/-- A change outside the rings, the Memory Master and the device state. -/
theorem State.Tok.of_units {s t : State} {k : RingId → Int} (hm : t.memory = s.memory)
    (hd : t.control.device = s.control.device) (hr : t.rings = s.rings)
    (hk : ∀ r, (t.quote.worksFor r : Int) + (match r with
        | .t => ((t.field.works + t.plane.works : Nat) : Int)
        | .a | .b => 0) =
      s.quote.worksFor r + (match r with
        | .t => ((s.field.works + s.plane.works : Nat) : Int)
        | .a | .b => 0) + k r) : s.Tok t k :=
  ⟨hm, hd, fun r => by rw [hr], fun r => by rw [hr], fun r => by rw [hr], fun r => by
    have := hk r
    cases r <;> simp only [State.worksOf, hr] at * <;> push_cast at * <;> omega⟩

/-- A change of the Field Unit and of units that hold no descriptor. -/
theorem State.Tok.of_field {s t : State} {n : Int} (hm : t.memory = s.memory)
    (hd : t.control.device = s.control.device) (hr : t.rings = s.rings) (hq : t.quote = s.quote)
    (hp : t.plane.works = s.plane.works) (hf : (t.field.works : Int) = s.field.works + n) :
    s.Tok t (fun r => if r = .t then n else 0) :=
  State.Tok.of_units hm hd hr fun r => by
    cases r <;> simp [hq, hp, hf] <;> omega

/-- An outcome returned to a ring. -/
theorem State.tok_outcome (s : State) (r : RingId) (st : Status) (w : Word) :
    s.Tok (s.sendRing r (.outcome st w)) (oneOf r) := by
  refine ⟨by simp, by simp, fun q => ?_, fun q => ?_, fun q => ?_, fun q => ?_⟩
  · simp [PerRing.get_set]; split <;> simp_all
  · simp [PerRing.get_set]; split <;> simp_all
  · simp [PerRing.get_set]; split <;> simp_all [RingInput.isOutcome]
  · cases r <;> cases q <;> simp [State.worksOf, oneOf, PerRing.get_set, PerRing.get, PerRing.set, RingInput.isOutcome] <;> omega

/-! ### The Field Unit -/

theorem State.tok_sendFields (s : State) (qs : List FieldRequest) (h : qs.countP FieldRequest.isCommand = 0) :
    s.Tok (s.sendFields qs) 0 :=
  .cast (fun r => by simp) (State.Tok.of_field (n := 0) rfl rfl rfl rfl rfl (by simp [FieldUnit.works, h]))

theorem State.tok_setSweep (s : State) (w : Sweep) (h : w.repaint = s.field.sweep.repaint) : s.Tok (s.setSweep w) 0 :=
  .cast (fun r => by simp) (State.Tok.of_field (n := 0) rfl rfl rfl rfl rfl (by simp [FieldUnit.works, State.setSweep, h]))

theorem State.tok_requestStep (s : State) : s.Tok s.requestStep 0 := by
  unfold State.requestStep
  split
  · exact State.Tok.refl s
  · exact .cast (fun r => by simp) ((s.tok_setSweep _ (by rfl)).trans (State.tok_sendFields _ [.step] (by rfl)))

theorem State.tok_setRepaint (s : State) (w : Sweep) : s.Tok (s.setSweep w) (fun r => if r = .t then
    (w.repaint.waits.toNat : Int) - s.field.sweep.repaint.waits.toNat else 0) :=
  State.Tok.of_field rfl rfl rfl rfl rfl (by simp [FieldUnit.works, State.setSweep])

theorem State.tok_passEnd (s : State) : s.Tok s.passEnd 0 := by
  unfold State.passEnd
  cases hr : s.field.sweep.repaint <;> simp only [hr] <;> split
  · exact .cast (fun r => by simp [hr, RepaintWait.waits]) ((s.tok_setRepaint _).trans (State.tok_requestStep _))
  · exact .cast (fun r => by simp [hr, RepaintWait.waits]) (s.tok_setRepaint _)
  · exact .cast (fun r => by cases r <;> simp [hr, oneOf, State.sendRing, RepaintWait.waits]) (((s.tok_outcome .t _ _).trans (State.tok_setRepaint _ _)).trans (State.tok_requestStep _))
  · exact .cast (fun r => by cases r <;> simp [hr, oneOf, State.sendRing, RepaintWait.waits]) ((s.tok_outcome .t _ _).trans (State.tok_setRepaint _ _))
  · exact .cast (fun r => by simp [hr, RepaintWait.waits]) ((s.tok_setRepaint _).trans (State.tok_requestStep _))
  · exact .cast (fun r => by simp [hr, RepaintWait.waits]) (s.tok_setRepaint _)

theorem State.tok_sweepAdvance (s : State) (b : Bool) : s.Tok (s.sweepAdvance b) 0 := by
  unfold State.sweepAdvance
  dsimp only
  split
  · split
    · exact .cast (fun r => by simp) ((s.tok_setSweep _ (by rfl)).trans ((State.tok_setSweep _ _ (by rfl)).trans (State.tok_requestStep _)))
    · exact .cast (fun r => by simp) ((s.tok_setSweep _ (by rfl)).trans (State.tok_passEnd _))
  · exact State.Tok.refl s

/-- What the end of an event returns to Ring T. -/
def FieldAfter.toT (a : FieldAfter) : RingId → Int := fun r => if r = .t then a.completes.toNat else 0

theorem State.tok_setRecord (s : State) (f : Nat) (v : FieldRec) : s.Tok (s.setRecord f v) 0 :=
  .cast (fun r => by simp) (State.Tok.of_field (n := 0) rfl rfl rfl rfl rfl (by simp [FieldUnit.works]))

theorem State.tok_runAfter (s : State) (a : FieldAfter) (ha : ∀ m, a ≠ .moveTo m) : s.Tok (s.runAfter a) a.toT := by
  cases a with
  | nothing => exact .cast (fun r => by simp [FieldAfter.toT, FieldAfter.completes]) (State.Tok.refl s)
  | complete st w =>
    exact .cast (fun r => by simp [FieldAfter.toT, FieldAfter.completes, oneOf]) (s.tok_outcome .t st w)
  | freeAndComplete f w =>
    exact .cast (fun r => by simp [FieldAfter.toT, FieldAfter.completes, oneOf]) ((s.tok_setRecord f FieldRec.cleared).trans (State.tok_outcome _ .t .done w))
  | sweepAdvance b =>
    exact .cast (fun r => by simp [FieldAfter.toT, FieldAfter.completes]) (s.tok_sweepAdvance b)
  | moveTo m => exact absurd rfl (ha m)

/-- The descriptor that an event under way completes. -/
def FieldEvent.toT : Option FieldEvent → RingId → Int
  | none => 0
  | some e => e.after.toT

theorem State.tok_setEvent (s : State) (e : Option FieldEvent) :
    s.Tok { s with field := { s.field with event := e } } (FieldEvent.toT e - FieldEvent.toT s.field.event) :=
  .cast (fun r => by cases r <;> cases e <;> cases s.field.event <;> simp [FieldEvent.toT, FieldAfter.toT]) (State.Tok.of_field rfl rfl rfl rfl rfl
    (n := FieldEvent.toT e .t - FieldEvent.toT s.field.event .t)
    (by cases e <;> cases h : s.field.event <;> simp [FieldUnit.works, FieldEvent.toT, FieldAfter.toT, h] <;> omega))

theorem State.tok_fieldFinish (s : State) : s.Tok s.fieldFinish 0 := by
  unfold State.fieldFinish
  split
  · exact State.Tok.refl s
  · rename_i e he
    split
    · by_cases hm : ∃ m, e.after = .moveTo m
      · obtain ⟨m, hm⟩ := hm
        rename_i hs
        have := State.fieldFinish_move s e.spans m (by rw [he, ← hm])
        unfold State.fieldFinish at this
        rw [he] at this
        dsimp only at this
        rw [if_pos hs] at this
        rw [this]
        exact State.Tok.refl s
      · exact .cast (fun r => by simp [FieldEvent.toT, he]) ((s.tok_setEvent none).trans
          (State.tok_runAfter _ _ fun m x => hm ⟨m, x⟩))
    · exact State.Tok.refl s

theorem State.tok_sendSpans (s : State) (ws : List SpanWrite) : s.Tok (s.sendPlanes (ws.map .span)) 0 :=
  State.Tok.of_units rfl rfl rfl fun r => by
    have h : (ws.map PlaneRequest.span).countP PlaneRequest.isCommand = 0 := by
      simp [List.countP_eq_zero, PlaneRequest.isCommand]
    cases r <;> simp [PlaneController.works, h]

theorem State.tok_beginEvent (s : State) (spans : List SpanWrite) (a : FieldAfter) (he : s.field.event = none) :
    s.Tok (s.beginEvent spans a) a.toT := by
  unfold State.beginEvent
  exact .cast (fun r => by simp [he, FieldEvent.toT]) (((s.tok_sendSpans _).trans (State.tok_setEvent _ _)).trans (State.tok_fieldFinish _))

theorem State.tok_sendHighlight (s : State) (q : HighlightRequest) : s.Tok (s.sendHighlight q) 0 :=
  .cast (fun r => by simp) (State.Tok.of_field (n := 0) rfl rfl rfl rfl rfl (by simp))

theorem State.tok_sendCause (s : State) (p : Port) (c : Cause) : s.Tok (s.sendCause p c) 0 :=
  .cast (fun r => by simp) (State.Tok.of_field (n := 0) rfl rfl rfl rfl rfl (by simp))

theorem State.tok_clearTick (s : State) (f : Nat) : s.Tok (s.clearTick f) 0 :=
  .cast (fun r => by simp) ((s.tok_setRecord f _).trans (State.tok_sendHighlight _ _))

theorem State.tok_countOverflow (s : State) (f : Nat) : s.Tok (s.countOverflow f) 0 := by
  unfold State.countOverflow
  split
  · exact .cast (fun r => by simp) ((s.tok_setRecord f _).trans (State.tok_sendCause _ _ _))
  · exact State.Tok.refl s

theorem State.tok_determineTick (s : State) (f : Nat) (old : Option Int) (new : Int) :
    s.Tok (s.determineTick f old new) 0 := by
  have two : ∀ t k, s.Tok ((s.setTick f t).sendHighlight (.arm f k)) 0 := fun t k =>
    .cast (fun r => by simp) ((s.tok_setRecord f _).trans (State.tok_sendHighlight _ _))
  unfold State.determineTick
  split
  · split
    · split
      · exact s.tok_clearTick f
      · split
        · exact two _ _
        · split
          · exact two _ _
          · exact State.Tok.refl s
    · exact s.tok_clearTick f
  · exact State.Tok.refl s

theorem State.tok_render (s : State) (f : Nat) (earlier : List SpanWrite) (a : FieldAfter) (he : s.field.event = none) :
    s.Tok (s.render f earlier a) a.toT := by
  unfold State.render
  exact .cast (fun r => by simp) ((s.tok_countOverflow f).trans (State.tok_beginEvent _ _ a (by
    unfold State.countOverflow; split <;> simp [he])))

theorem State.tok_dropField (s : State) (q : FieldRequest) (rest : List FieldRequest) (h : s.field.inbox = q :: rest) :
    s.Tok s.dropField (fun r => if r = .t then -(q.isCommand.toNat : Int) else 0) :=
  State.Tok.of_field rfl rfl rfl rfl rfl (by
    cases hq : q.isCommand <;> simp [FieldUnit.works, State.dropField, h, hq] <;> omega)

/-! ### The commands of the Field Unit -/

/-- What the front request of the Field Unit says of its state. -/
theorem State.fieldFront_some {s : State} {q : FieldRequest} (h : s.fieldFront = some q) :
    s.field.event = none ∧ ∃ rest, s.field.inbox = q :: rest := by
  unfold State.fieldFront at h
  cases he : s.field.event with
  | none =>
    rw [he] at h
    cases hi : s.field.inbox with
    | nil => simp [hi] at h
    | cons x rest => simp [hi] at h; exact ⟨rfl, rest, by rw [h]⟩
  | some e => simp [he] at h

/-- A request that is no command is dropped. -/
theorem State.tok_dropQuiet {s : State} {q : FieldRequest} (h : s.fieldFront = some q) (hq : q.isCommand = false) :
    s.Tok s.dropField 0 := by
  obtain ⟨_, rest, hi⟩ := State.fieldFront_some h
  exact .cast (fun r => by simp [hq]) (s.tok_dropField q rest hi)

/-- A command is dropped. -/
theorem State.tok_dropCommandRequest {s : State} {q : FieldRequest} (h : s.fieldFront = some q)
    (hq : q.isCommand = true) : s.Tok s.dropField (-oneOf .t) := by
  obtain ⟨_, rest, hi⟩ := State.fieldFront_some h
  exact .cast (fun r => by simp [hq, oneOf]; split <;> rfl) (s.tok_dropField q rest hi)

theorem State.dropField_event (s : State) : s.dropField.field.event = s.field.event := rfl

theorem FieldAfter.toT_complete (st : Status) (w : Word) : (FieldAfter.complete st w).toT = oneOf .t := by
  funext r; simp [FieldAfter.toT, FieldAfter.completes, oneOf]

theorem FieldAfter.toT_nothing : FieldAfter.nothing.toT = 0 := by
  funext r; simp [FieldAfter.toT, FieldAfter.completes]

theorem FieldAfter.toT_sweep (b : Bool) : (FieldAfter.sweepAdvance b).toT = 0 := by
  funext r; simp [FieldAfter.toT, FieldAfter.completes]

theorem State.tok_endCommand (s : State) (st : Status) (w : Word) (he : s.field.event = none) :
    s.Tok (s.endCommand st w) (oneOf .t) := by
  rw [← FieldAfter.toT_complete st w]
  exact s.tok_beginEvent _ _ he

theorem State.tok_quiet_render {s : State} {f : Nat} (he : s.field.event = none) :
    s.Tok (s.render f [] .nothing) 0 := by
  rw [← FieldAfter.toT_nothing]
  exact s.tok_render f [] .nothing he

theorem State.tok_done_render {s : State} {f : Nat} {earlier : List SpanWrite} {st : Status} {w : Word}
    (he : s.field.event = none) : s.Tok (s.render f earlier (.complete st w)) (oneOf .t) := by
  rw [← FieldAfter.toT_complete st w]
  exact s.tok_render f earlier _ he

theorem State.tok_step_render {s : State} {f : Nat} {b : Bool} (he : s.field.event = none) :
    s.Tok (s.render f [] (.sweepAdvance b)) 0 := by
  rw [← FieldAfter.toT_sweep b]
  exact s.tok_render f [] _ he

theorem State.tok_trigger (s : State) : s.Tok s.trigger 0 := by
  unfold State.trigger
  dsimp only
  split
  · split
    · exact State.tok_setSweep _ _ (by rfl)
    · exact .cast (by simp) ((State.tok_setSweep _ _ (by rfl)).trans (State.tok_requestStep _))
  · exact .refl _

theorem State.clearTick_event (s : State) (f : Nat) : (s.clearTick f).field.event = s.field.event := rfl

theorem State.determineTick_event (s : State) (f : Nat) (old : Option Int) (new : Int) :
    (s.determineTick f old new).field.event = s.field.event := by
  unfold State.determineTick
  split
  · split
    · split
      · rfl
      · split
        · rfl
        · split <;> rfl
    · rfl
  · rfl

theorem tok_execPlainRender {s t : State} (h : execPlainRender s = .next t) : s.Tok t 0 := by
  unfold execPlainRender at h
  split at h
  · rename_i hf
    have d := State.tok_dropQuiet hf rfl
    have he : s.dropField.field.event = none := (State.fieldFront_some hf).1
    dsimp only at h
    split at h <;> cases h
    · exact .cast (by simp) (d.trans (State.tok_quiet_render he))
    · exact d
  · cases h; exact .refl s

theorem tok_execTickRender {s t : State} (h : execTickRender s = .next t) : s.Tok t 0 := by
  unfold execTickRender at h
  split at h
  · rename_i hf
    have d := State.tok_dropQuiet hf rfl
    have he : s.dropField.field.event = none := (State.fieldFront_some hf).1
    dsimp only at h
    split at h <;> cases h
    · exact .cast (by simp) (d.trans ((State.tok_determineTick _ _ _ _).trans
        (State.tok_quiet_render (by rw [State.determineTick_event]; exact he))))
    · exact d
  · cases h; exact .refl s

theorem tok_execResetRender {s t : State} (h : execResetRender s = .next t) : s.Tok t 0 := by
  unfold execResetRender at h
  split at h
  · rename_i hf
    have d := State.tok_dropQuiet hf rfl
    have he : s.dropField.field.event = none := (State.fieldFront_some hf).1
    dsimp only at h
    split at h <;> cases h
    · exact .cast (by simp) (d.trans ((State.tok_clearTick _ _).trans (State.tok_quiet_render he)))
    · exact d
  · cases h; exact .refl s

theorem tok_execExpiry {s t : State} (h : execExpiry s = .next t) : s.Tok t 0 := by
  unfold execExpiry at h
  split at h
  · rename_i f hf
    have d := State.tok_dropQuiet hf rfl
    have he : s.dropField.field.event = none := (State.fieldFront_some hf).1
    cases h
    refine .cast (j := 0 + 0) (by simp) (d.trans ?_)
    unfold State.takeExpiry
    split
    · split
      · exact State.tok_quiet_render he
      · split
        · exact .cast (by simp) ((State.tok_clearTick _ _).trans (State.tok_quiet_render he))
        · exact .refl _
    · exact .refl _
  · cases h; exact .refl s

theorem tok_execSweepTrigger {s t : State} (h : execSweepTrigger s = .next t) : s.Tok t 0 := by
  unfold execSweepTrigger at h
  split at h
  · rename_i hf
    have d := State.tok_dropQuiet hf rfl
    cases h
    exact .cast (by simp) (d.trans (State.tok_trigger _))
  · cases h; exact .refl s

theorem tok_execSweepStep {s t : State} (h : execSweepStep s = .next t) : s.Tok t 0 := by
  unfold execSweepStep at h
  split at h
  · rename_i hf
    have d := State.tok_dropQuiet hf rfl
    have he : s.dropField.field.event = none := (State.fieldFront_some hf).1
    cases h
    refine .cast (j := 0 + 0) (by simp) (d.trans ?_)
    unfold State.takeStep
    dsimp only
    split
    · split
      · exact .cast (by simp) ((State.tok_setSweep s.dropField { s.dropField.field.sweep with stepOut := false }
          (by rfl)).trans (State.tok_step_render (by exact he)))
      · exact .cast (by simp) ((State.tok_setSweep s.dropField { s.dropField.field.sweep with stepOut := false }
          (by rfl)).trans (State.tok_sweepAdvance _ _))
    · exact State.tok_setSweep _ _ (by rfl)
  · cases h; exact .refl s

theorem State.tok_markSpan (s : State) (row col width : Nat) (v : Option Nat) : s.Tok (s.markSpan row col width v) 0 :=
  .cast (fun r => by simp) (State.Tok.of_field (n := 0) rfl rfl rfl rfl rfl (by simp [FieldUnit.works, State.markSpan]))

theorem FieldAfter.toT_moveTo (m : FieldMove) : (FieldAfter.moveTo m).toT = oneOf .t := by
  funext r; simp [FieldAfter.toT, FieldAfter.completes, oneOf]

/-- A move that is made completes its command. -/
theorem State.tok_makeMove (s : State) (m : FieldMove) (he : s.field.event = none) :
    s.Tok (s.makeMove m) (oneOf .t) := by
  unfold State.makeMove
  exact .cast (by simp) ((s.tok_setRecord _ _).trans ((State.tok_markSpan _ _ _ _ _).trans (State.tok_done_render he)))

theorem State.tok_spanSent (s : State) : s.Tok s.spanSent 0 := by
  unfold State.spanSent
  split
  · rename_i m he
    exact .cast (fun r => by simp [he, FieldEvent.toT, FieldAfter.toT_moveTo]) ((s.tok_setEvent none).trans
      (State.tok_makeMove _ m rfl))
  · exact s.tok_fieldFinish

theorem State.tok_sendSpan (s : State) (w : SpanWrite) (e : FieldEvent) :
    s.Tok (s.sendSpan w e) (e.after.toT - FieldEvent.toT s.field.event) := by
  unfold State.sendSpan
  exact .cast (fun r => by simp [FieldEvent.toT]) (((s.tok_sendSpans [w]).trans (State.tok_setEvent _ _)).trans
    (State.tok_spanSent _))

theorem tok_execSpanQueueRoom {s t : State} (h : execSpanQueueRoom s = .next t) : s.Tok t 0 := by
  unfold execSpanQueueRoom at h
  split at h
  · cases h; exact .refl s
  · rename_i e he
    split at h
    · cases h; exact .refl s
    · rename_i w rest hw
      split at h <;> cases h
      · exact .cast (fun r => by simp [he, FieldEvent.toT]) (s.tok_sendSpan w _)
      · exact .refl s

/-- A field command whose taking ends with an outcome. -/
theorem State.tok_command {s t : State} {q : FieldRequest} (h : s.fieldFront = some q) (hq : q.isCommand = true)
    (ht : s.dropField.Tok t (oneOf .t)) : s.Tok t 0 :=
  .cast (by simp) ((State.tok_dropCommandRequest h hq).trans ht)

theorem tok_execMoveField {s t : State} (h : execMoveField s = .next t) : s.Tok t 0 := by
  unfold execMoveField at h
  split at h
  · rename_i d hf
    have he : s.dropField.field.event = none := (State.fieldFront_some hf).1
    cases h
    refine State.tok_command hf rfl ?_
    unfold State.takeMove
    dsimp only
    split
    · exact State.tok_endCommand _ _ _ he
    split
    · exact State.tok_endCommand _ _ _ he
    split
    · exact State.tok_endCommand _ _ _ he
    split
    · exact State.tok_endCommand _ _ _ he
    · unfold State.moveField
      dsimp only
      have he' : s.field.event = none := he
      split
      · split
        · exact .cast (fun r => by simp [he', FieldEvent.toT, FieldAfter.toT_moveTo]) ((State.tok_markSpan _ _ _ _ _).trans
            (State.tok_sendSpan _ _ _))
        · exact .cast (fun r => by simp [he', FieldEvent.toT, FieldAfter.toT_moveTo]) ((State.tok_markSpan _ _ _ _ _).trans
            (State.tok_setEvent _ _))
      · exact State.tok_makeMove _ _ he
  · cases h; exact .refl s

theorem tok_execStyleField {s t : State} (h : execStyleField s = .next t) : s.Tok t 0 := by
  unfold execStyleField at h
  split at h
  · rename_i d hf
    have he : s.dropField.field.event = none := (State.fieldFront_some hf).1
    cases h
    refine State.tok_command hf rfl ?_
    unfold State.takeStyle
    dsimp only
    split
    · exact State.tok_endCommand _ _ _ he
    split
    · exact State.tok_endCommand _ _ _ he
    split
    · exact State.tok_endCommand _ _ _ he
    · unfold State.restyle
      dsimp only
      split <;> split
      · exact .cast (by simp)
          ((State.tok_setRecord _ _ _).trans ((State.tok_clearTick _ _).trans (State.tok_done_render he)))
      · exact .cast (by simp) ((State.tok_setRecord _ _ _).trans ((State.tok_clearTick _ _).trans
          (State.tok_endCommand _ _ _ he)))
      · exact .cast (by simp) ((State.tok_setRecord _ _ _).trans (State.tok_done_render he))
      · exact .cast (by simp) ((State.tok_setRecord _ _ _).trans (State.tok_endCommand _ _ _ he))
  · cases h; exact .refl s

theorem tok_execSetPen {s t : State} (h : execSetPen s = .next t) : s.Tok t 0 := by
  unfold execSetPen at h
  split at h
  · rename_i d hf
    have he : s.dropField.field.event = none := (State.fieldFront_some hf).1
    cases h
    refine State.tok_command hf rfl ?_
    unfold State.takeSetPen
    dsimp only
    split
    · split
      · exact State.tok_endCommand _ _ _ he
      · refine .cast (j := 0 + oneOf .t) (by simp) (State.Tok.trans ?_ (State.tok_endCommand _ _ _ he))
        exact .cast (fun r => by simp) (State.Tok.of_field (n := 0) rfl rfl rfl rfl rfl (by simp))
    · exact State.tok_endCommand _ _ _ he
  · cases h; exact .refl s

/-- The Field Unit remembers a BIND_FIELD or UNBIND_FIELD. -/
theorem State.tok_setCommand (s : State) (c : Option Descriptor) :
    s.Tok { s with field := { s.field with command := c } }
      (fun r => if r = .t then (c.isSome.toNat : Int) - s.field.command.isSome.toNat else 0) :=
  State.Tok.of_field rfl rfl rfl rfl rfl (by simp [FieldUnit.works]; omega)

theorem State.tok_sendBinding (s : State) (q : QuoteRequest) (hq : q.isBinding = true) : s.Tok (s.sendQuote q) 0 := by
  refine State.Tok.of_units rfl rfl rfl fun r => ?_
  have h : q.worksFor r = false := by cases q <;> simp_all [QuoteRequest.isBinding, QuoteRequest.worksFor]
  cases r <;> simp [QuoteEngine.worksFor, h]

theorem tok_execBindField {s t : State} (hc : ∀ q, s.fieldFront = some q → q.isCommand = true → s.field.command = none)
    (h : execBindField s = .next t) : s.Tok t 0 := by
  unfold execBindField at h
  split at h
  · rename_i d hf
    have he : s.dropField.field.event = none := (State.fieldFront_some hf).1
    cases h
    refine State.tok_command hf rfl ?_
    unfold State.takeBind
    dsimp only
    split
    · exact State.tok_endCommand _ _ _ he
    split
    · exact State.tok_endCommand _ _ _ he
    split
    · refine .cast (fun r => ?_) ((State.tok_setCommand _ _).trans (State.tok_sendBinding _ _ rfl))
      have : s.field.command = none := hc _ hf rfl
      simp [State.dropField, this, oneOf]
    · exact State.tok_endCommand _ _ _ he
  · cases h; exact .refl s

theorem tok_execUnbindField {s t : State} (hc : ∀ q, s.fieldFront = some q → q.isCommand = true → s.field.command = none)
    (h : execUnbindField s = .next t) : s.Tok t 0 := by
  unfold execUnbindField at h
  split at h
  · rename_i d hf
    have he : s.dropField.field.event = none := (State.fieldFront_some hf).1
    cases h
    refine State.tok_command hf rfl ?_
    unfold State.takeUnbind
    dsimp only
    split
    · exact State.tok_endCommand _ _ _ he
    split
    · exact State.tok_endCommand _ _ _ he
    · refine .cast (fun r => ?_) ((State.tok_setCommand _ _).trans (State.tok_sendBinding _ _ rfl))
      have : s.field.command = none := hc _ hf rfl
      simp [State.dropField, this, oneOf]
  · cases h; exact .refl s

theorem tok_execRepaint {s t : State}
    (hc : ∀ q, s.fieldFront = some q → q.isCommand = true → s.field.sweep.repaint = .none)
    (h : execRepaint s = .next t) : s.Tok t 0 := by
  unfold execRepaint at h
  split at h
  · rename_i hf
    cases h
    refine State.tok_command hf rfl ?_
    have hn : s.dropField.field.sweep.repaint = .none := hc _ hf rfl
    unfold State.takeRepaint
    dsimp only
    split
    · have tr := s.dropField.tok_trigger
      have rp : s.dropField.trigger.field.sweep.repaint = .none := by
        unfold State.trigger State.requestStep
        dsimp only
        split <;> (try split) <;> (try split) <;> exact hn
      refine .cast (fun r => ?_) (tr.trans (State.tok_setRepaint _ _))
      have w : ∀ b : Bool, (if b = true then RepaintWait.nextPass else .thisPass false).waits = true := by decide
      rw [Pi.add_apply, rp]
      simp only [w]
      cases r <;> simp [oneOf, RepaintWait.waits]
    · exact State.tok_outcome _ _ _ _
  · cases h; exact .refl s

theorem State.tok_dropCommand {s : State} {d : Descriptor} (h : s.field.command = some d) :
    s.Tok s.dropCommand (-oneOf .t) :=
  .cast (fun r => by simp [h, oneOf]; split <;> rfl) (s.tok_setCommand none)

/-- The BIND_FIELD or UNBIND_FIELD in progress ends with an outcome. -/
theorem State.tok_inProgress {s t : State} {d : Descriptor} {q : FieldRequest} (h : s.fieldFront = some q)
    (hq : q.isCommand = false) (hc : s.field.command = some d) (ht : s.dropField.dropCommand.Tok t (oneOf .t)) :
    s.Tok t 0 :=
  .cast (by simp) ((State.tok_dropQuiet h hq).trans ((State.tok_dropCommand (s := s.dropField) hc).trans ht))

theorem tok_execLookupResult {s t : State} (h : execLookupResult s = .next t) : s.Tok t 0 := by
  unfold execLookupResult at h
  split at h
  · rename_i l d hf hc
    have he : s.dropField.field.event = none := (State.fieldFront_some hf).1
    cases h
    unfold State.takeLookupResult
    dsimp only
    split
    · exact State.tok_inProgress hf rfl hc (State.tok_endCommand _ _ _ he)
    · exact State.tok_inProgress hf rfl hc (State.tok_endCommand _ _ _ he)
    · split
      · exact State.tok_inProgress hf rfl hc (State.tok_endCommand _ _ _ he)
      · split
        · exact State.tok_inProgress hf rfl hc (State.tok_endCommand _ _ _ he)
        · exact .cast (by simp) ((State.tok_dropQuiet hf rfl).trans (State.tok_sendBinding _ _ rfl))
  · cases h; exact .refl s

theorem tok_execAppendCompletion {s t : State}
    (hb : ∀ f i d, .appendDone f i ∈ s.field.inbox → s.field.command = some d → d.bindForm.isSome = true)
    (h : execAppendCompletion s = .next t) : s.Tok t 0 := by
  unfold execAppendCompletion at h
  split at h
  · rename_i f i d hf hc
    have he : s.dropField.field.event = none := (State.fieldFront_some hf).1
    obtain ⟨_, rest, hi⟩ := State.fieldFront_some hf
    cases h
    unfold State.takeAppendDone
    have := hb f i d (by rw [hi]; simp) hc
    split
    · simp_all
    · refine State.tok_inProgress hf rfl hc ?_
      exact .cast (by simp) ((State.tok_setRecord _ _ _).trans ((State.tok_markSpan _ _ _ _ _).trans
        (State.tok_done_render he)))
  · cases h; exact .refl s

theorem tok_execRemovalCompletion {s t : State} (h : execRemovalCompletion s = .next t) : s.Tok t 0 := by
  unfold execRemovalCompletion at h
  split at h
  · rename_i f d hf hc
    have he : s.dropField.field.event = none := (State.fieldFront_some hf).1
    cases h
    refine State.tok_inProgress hf rfl hc ?_
    unfold State.takeRemovalDone
    dsimp only
    have e : ∀ (u : State) sp w, u.field.event = none →
        u.Tok ((u.sendHighlight (.remove f)).beginEvent sp (.freeAndComplete f w)) (oneOf .t) := fun u sp w hu =>
      .cast (fun r => by simp [FieldAfter.toT, FieldAfter.completes, oneOf])
        ((u.tok_sendHighlight _).trans (State.tok_beginEvent _ _ _ hu))
    split
    · exact .cast (by simp) ((State.tok_markSpan _ _ _ _ _).trans (e _ _ _ he))
    · exact e _ _ _ he
  · cases h; exact .refl s

/-! ### The Quote Engine -/

/-- What the front request of the Quote Engine says of its state. -/
theorem State.quoteFront_some {s : State} {q : QuoteRequest} (h : s.quoteFront = some q) :
    s.quote.wait = none ∧ ∃ rest, s.quote.inbox = q :: rest := by
  unfold State.quoteFront at h
  cases he : s.quote.wait with
  | none =>
    rw [he] at h
    cases hi : s.quote.inbox with
    | nil => simp [hi] at h
    | cons x rest => simp [hi] at h; exact ⟨rfl, rest, by rw [h]⟩
  | some e => simp [he] at h

/-- A change of the Quote Engine alone. -/
theorem State.Tok.of_quote {s t : State} {k : RingId → Int} (hm : t.memory = s.memory)
    (hd : t.control.device = s.control.device) (hr : t.rings = s.rings) (hf : t.field = s.field)
    (hp : t.plane = s.plane) (hq : ∀ r, (t.quote.worksFor r : Int) = s.quote.worksFor r + k r) : s.Tok t k :=
  .of_units hm hd hr fun r => by rw [hq r, hf, hp]; cases r <;> simp <;> ring

theorem State.tok_dropQuote {s : State} {q : QuoteRequest} (h : s.quoteFront = some q) :
    s.Tok s.dropQuote (fun r => -(q.worksFor r).toNat) := by
  obtain ⟨_, rest, hi⟩ := State.quoteFront_some h
  exact .of_quote rfl rfl rfl rfl rfl fun r => by
    cases hq : q.worksFor r <;> simp [QuoteEngine.worksFor, State.dropQuote, hi, hq] <;> omega

theorem State.tok_setSlot (s : State) (i : Nat) (v : Slot) : s.Tok (s.setSlot i v) 0 :=
  .of_quote rfl rfl rfl rfl rfl fun r => by simp [QuoteEngine.worksFor]

/-- A change of the tables alone. -/
theorem State.tok_tables (s : State) (q : QuoteEngine) (hi : q.inbox = s.quote.inbox) (hw : q.wait = s.quote.wait) :
    s.Tok { s with quote := q } 0 :=
  .of_quote rfl rfl rfl rfl rfl fun r => by simp [QuoteEngine.worksFor, hi, hw]

theorem countP_renders (rs : List RenderRequest) : (rs.map FieldRequest.render).countP FieldRequest.isCommand = 0 := by
  simp [List.countP_eq_zero, FieldRequest.isCommand]

theorem State.tok_quoteFinish (s : State) (rs : List RenderRequest) (r : RingId) (st : Status) (w : Word)
    (hw : s.quote.wait = none) : s.Tok (s.quoteFinish rs r st w) (oneOf r) := by
  unfold State.quoteFinish
  dsimp only
  split
  · exact .cast (by simp) ((s.tok_sendFields _ (countP_renders _)).trans (State.tok_outcome _ _ _ _))
  · refine .cast (j := 0 + oneOf r) (by simp) ((s.tok_sendFields _ (countP_renders _)).trans
      (.of_quote rfl rfl rfl rfl rfl fun q => ?_))
    simp only [QuoteEngine.worksFor, State.sendFields_quote, hw, oneOf]
    by_cases h : r = q <;> simp [h, eq_comm]

/-- A request of ring `r` whose taking ends with an outcome. -/
theorem State.tok_quote {s t : State} {q : QuoteRequest} {r : RingId} (h : s.quoteFront = some q)
    (hq : ∀ p, q.worksFor p = decide (p = r)) (ht : s.dropQuote.Tok t (oneOf r)) : s.Tok t 0 :=
  .cast (fun p => by by_cases e : p = r <;> simp [hq, oneOf, e]) ((State.tok_dropQuote h).trans ht)

theorem QuoteEngine.link_queue (q : QuoteEngine) (b i : Nat) :
    (q.link b i).inbox = q.inbox ∧ (q.link b i).wait = q.wait := by
  unfold QuoteEngine.link; split <;> exact ⟨rfl, rfl⟩

theorem QuoteEngine.unlink_queue (q : QuoteEngine) (b i pos : Nat) :
    (q.unlink b i pos).inbox = q.inbox ∧ (q.unlink b i pos).wait = q.wait := by
  unfold QuoteEngine.unlink; dsimp only
  split
  · exact ⟨rfl, rfl⟩
  · split <;> exact ⟨rfl, rfl⟩

theorem State.tok_occupy (s : State) (i : Nat) (key : Word) (m : PerRing Bool) : s.Tok (s.occupy i key m) 0 :=
  s.tok_tables _ (QuoteEngine.link_queue _ _ _).1 (QuoteEngine.link_queue _ _ _).2

theorem State.tok_freeSlot (s : State) (i : Nat) (key : Word) (pos : Nat) : s.Tok (s.freeSlot i key pos) 0 :=
  s.tok_tables _ (QuoteEngine.unlink_queue _ _ _ _).1 (QuoteEngine.unlink_queue _ _ _ _).2

theorem State.tok_complete {s : State} {st : Status} {w : Word} : s.Tok (s.completeCommand st w) (oneOf .t) :=
  s.tok_outcome .t st w

theorem tok_execDefineInstrument {s t : State} (h : execDefineInstrument s = .next t) : s.Tok t 0 := by
  unfold execDefineInstrument at h
  split at h
  · rename_i d hf
    cases h
    refine State.tok_quote (r := .t) hf (fun p => by cases p <;> rfl) ?_
    unfold State.takeDefine
    dsimp only
    split
    · exact State.tok_complete
    split
    · exact State.tok_complete
    split
    · exact State.tok_complete
    · exact .cast (by simp) ((State.tok_occupy _ _ _ _).trans State.tok_complete)
  · cases h; exact .refl s

theorem tok_execRemoveInstrument {s t : State} (h : execRemoveInstrument s = .next t) : s.Tok t 0 := by
  unfold execRemoveInstrument at h
  split at h
  · rename_i d hf
    cases h
    refine State.tok_quote (r := .t) hf (fun p => by cases p <;> rfl) ?_
    unfold State.takeRemove
    dsimp only
    split
    · exact State.tok_complete
    split
    · exact State.tok_complete
    · exact .cast (by simp) ((State.tok_freeSlot _ _ _ _).trans State.tok_complete)
  · cases h; exact .refl s

theorem State.dropQuote_wait {s : State} {q : QuoteRequest} (h : s.quoteFront = some q) : s.dropQuote.quote.wait = none :=
  (State.quoteFront_some h).1

theorem tok_execSetSources {s t : State} (h : execSetSources s = .next t) : s.Tok t 0 := by
  unfold execSetSources at h
  split at h
  · rename_i d hf
    cases h
    refine State.tok_quote (r := .t) hf (fun p => by cases p <;> rfl) ?_
    have hw := State.dropQuote_wait hf
    unfold State.takeSetSources
    dsimp only
    split
    · exact State.tok_complete
    split
    · exact State.tok_complete
    · exact .cast (by simp) ((State.tok_setSlot _ _ _).trans
        (State.tok_quoteFinish _ _ _ _ _ (by exact hw)))
  · cases h; exact .refl s

theorem State.tok_acceptApply (s : State) (r : RingId) (i : Nat) (v : Slot) (rs : List RenderRequest) (st : Status)
    (hw : s.quote.wait = none) : s.Tok (s.acceptApply r i v rs st) (oneOf r) :=
  .cast (by simp) ((s.tok_setSlot i v).trans (State.tok_quoteFinish _ _ _ _ _ hw))

theorem tok_execUpdate {s t : State} (h : execUpdate s = .next t) : s.Tok t 0 := by
  unfold execUpdate at h
  split at h
  · rename_i r d hf
    split at h <;> cases h
    · refine State.tok_quote (r := r) hf (fun p => by simp [QuoteRequest.worksFor, eq_comm]) ?_
      unfold State.takeUpdate
      split
      · exact State.tok_outcome _ _ _ _
      split
      · exact State.tok_outcome _ _ _ _
      · exact State.tok_acceptApply _ _ _ _ _ _ (State.dropQuote_wait hf)
    · exact .refl s
  · cases h; exact .refl s

theorem tok_execSnapshot {s t : State} (h : execSnapshot s = .next t) : s.Tok t 0 := by
  unfold execSnapshot at h
  split at h
  · rename_i r d hf
    split at h <;> cases h
    · refine State.tok_quote (r := r) hf (fun p => by simp [QuoteRequest.worksFor, eq_comm]) ?_
      unfold State.takeSnapshot
      split
      · exact State.tok_outcome _ _ _ _
      split
      · exact State.tok_outcome _ _ _ _
      · exact State.tok_acceptApply _ _ _ _ _ _ (State.dropQuote_wait hf)
    · exact .refl s
  · cases h; exact .refl s

theorem tok_execCondition {s t : State} (h : execCondition s = .next t) : s.Tok t 0 := by
  unfold execCondition at h
  split at h
  · rename_i r d hf
    split at h <;> cases h
    · refine State.tok_quote (r := r) hf (fun p => by simp [QuoteRequest.worksFor, eq_comm]) ?_
      unfold State.takeCondition
      split
      · exact State.tok_outcome _ _ _ _
      split
      · exact State.tok_outcome _ _ _ _
      · exact State.tok_acceptApply _ _ _ _ _ _ (State.dropQuote_wait hf)
    · exact .refl s
  · cases h; exact .refl s

theorem State.tok_dropBinding {s : State} {q : QuoteRequest} (h : s.quoteFront = some q) (hq : q.isBinding = true) :
    s.Tok s.dropQuote 0 :=
  .cast (fun r => by cases q <;> simp_all [QuoteRequest.isBinding, QuoteRequest.worksFor]) (State.tok_dropQuote h)

theorem tok_execBindingLookup {s t : State} (h : execBindingLookup s = .next t) : s.Tok t 0 := by
  unfold execBindingLookup at h
  split at h
  · rename_i key hf
    cases h
    exact .cast (by simp) ((State.tok_dropBinding hf rfl).trans (State.tok_sendFields _ [_] rfl))
  · cases h; exact .refl s

theorem tok_execAppend {s t : State} (h : execAppend s = .next t) : s.Tok t 0 := by
  unfold execAppend at h
  split at h
  · rename_i f i hf
    cases h
    exact .cast (by simp) ((State.tok_dropBinding hf rfl).trans ((State.tok_setSlot _ _ _).trans
      (State.tok_sendFields _ [_] rfl)))
  · cases h; exact .refl s

theorem tok_execRemoval {s t : State} (h : execRemoval s = .next t) : s.Tok t 0 := by
  unfold execRemoval at h
  split at h
  · rename_i f hf
    cases h
    exact .cast (by simp) ((State.tok_dropBinding hf rfl).trans ((State.tok_tables _ (s.dropQuote.quote.unbind f) rfl rfl).trans
      (State.tok_sendFields _ [_] rfl)))
  · cases h; exact .refl s

theorem tok_execRenderQueueRoom {s t : State} (h : execRenderQueueRoom s = .next t) : s.Tok t 0 := by
  unfold execRenderQueueRoom at h
  split at h
  · cases h; exact .refl s
  · rename_i w hw
    split at h
    · dsimp only at h
      have a := s.tok_sendFields ((w.renders.take 1).map .render) (countP_renders _)
      split at h <;> cases h
      · refine .cast (j := 0 + ((-oneOf w.ring) + oneOf w.ring)) (by simp) (a.trans (State.Tok.trans ?_ (State.tok_outcome _ _ _ _)))
        refine .of_quote rfl rfl rfl rfl rfl fun q => ?_
        simp only [QuoteEngine.worksFor, State.sendFields_quote, hw, oneOf, Pi.neg_apply]
        by_cases h : q = w.ring <;> simp [h, eq_comm (a := w.ring)]
      · refine .cast (j := 0 + 0) (by simp) (a.trans ?_)
        refine .of_quote rfl rfl rfl rfl rfl fun q => ?_
        simp only [QuoteEngine.worksFor, State.sendFields_quote, hw]
        simp
    · cases h; exact .refl s

/-! ### The Highlight Timer -/

theorem State.tok_highlightTaken (s : State) (h : HighlightTimer) : s.Tok (s.highlightTaken h) 0 := by
  unfold State.highlightTaken
  have a : s.Tok { s with highlight := { h with requests := s.highlight.requests.tail } } 0 :=
    .cast (fun r => by simp) (State.Tok.of_field (n := 0) rfl rfl rfl rfl rfl (by simp))
  exact .cast (by simp) (a.trans (State.tok_fieldFinish _))

theorem tok_execArmRequest {s t : State} (h : execArmRequest s = .next t) : s.Tok t 0 := by
  unfold execArmRequest at h
  split at h <;> cases h
  · exact s.tok_highlightTaken _
  · exact .refl s

theorem tok_execRemoveRequest {s t : State} (h : execRemoveRequest s = .next t) : s.Tok t 0 := by
  unfold execRemoveRequest at h
  split at h <;> cases h
  · exact s.tok_highlightTaken _
  · exact .refl s

theorem tok_execHighlightExpiry {s t : State} (h : execHighlightExpiry s = .next t) : s.Tok t 0 := by
  unfold execHighlightExpiry at h
  split at h <;> cases h
  · exact .refl s
  · unfold State.highlightFrame
    dsimp only
    split
    · exact .cast (fun r => by simp) (State.Tok.of_field (n := 0) rfl rfl rfl rfl rfl
        (by
          have : ∀ l : List Nat, (l.map FieldRequest.expiry).countP FieldRequest.isCommand = 0 := by
            simp [List.countP_eq_zero, FieldRequest.isCommand]
          simp [FieldUnit.works, this]))
    · exact .cast (fun r => by simp) (State.Tok.of_field (n := 0) rfl rfl rfl rfl rfl (by simp))

/-! ### The Plane Controller -/

@[simp] theorem OverlayState.underWay_opened : OverlayState.opened.underWay = false := rfl
@[simp] theorem OverlayState.underWay_opening (k : Nat) : (OverlayState.opening k).underWay = true := rfl
@[simp] theorem OverlayState.underWay_closing (k : Nat) : (OverlayState.closing k).underWay = true := rfl

/-- A change of the Plane Controller alone. -/
theorem State.Tok.of_plane {s t : State} {n : Int} (hm : t.memory = s.memory)
    (hd : t.control.device = s.control.device) (hr : t.rings = s.rings) (hf : t.field.works = s.field.works)
    (hq : t.quote = s.quote) (hp : (t.plane.works : Int) = s.plane.works + n) :
    s.Tok t (fun r => if r = .t then n else 0) :=
  .of_units hm hd hr fun r => by
    rw [hq, hf]; cases r <;> simp <;> omega

/-- The Plane Controller's count is that of its requests and its stack. -/
theorem PlaneController.works_congr {p q : PlaneController} (hi : p.inbox = q.inbox) (hs : p.stack = q.stack) :
    p.works = q.works := by
  unfold PlaneController.works; rw [hi, hs]

theorem State.tok_dropPlane {s : State} {q : PlaneRequest} {rest : List PlaneRequest} (h : s.plane.inbox = q :: rest) :
    s.Tok s.dropPlane (fun r => if r = .t then -(q.isCommand.toNat : Int) else 0) :=
  .of_plane rfl rfl rfl rfl rfl (by
    cases hq : q.isCommand <;> simp [PlaneController.works, State.dropPlane, h, hq] <;> omega)

theorem State.tok_setPlane (s : State) (p : PlaneController) (hp : p.works = s.plane.works) :
    s.Tok { s with plane := p } 0 :=
  .cast (fun r => by simp) (State.Tok.of_plane (n := 0) rfl rfl rfl rfl rfl (by simp [hp]))

/-- A command whose taking ends with an outcome. -/
theorem State.tok_planeCommand {s t : State} {q : PlaneRequest} {rest : List PlaneRequest}
    (h : s.plane.inbox = q :: rest) (hq : q.isCommand = true) (ht : s.dropPlane.Tok t (oneOf .t)) : s.Tok t 0 :=
  .cast (fun r => by by_cases e : r = .t <;> simp [hq, oneOf, e]) ((State.tok_dropPlane h).trans ht)

theorem tok_execSpanWrite {s t : State} (h : execSpanWrite s = .next t) : s.Tok t 0 := by
  unfold execSpanWrite at h
  split at h
  · rename_i w rest hi
    split at h
    · cases h; exact .refl s
    · cases h
      have f := PlaneController.spanFrom_frame w.row w.cells s.dropPlane.plane w.col
      exact .cast (fun r => by simp [PlaneRequest.isCommand]) ((State.tok_dropPlane hi).trans (State.tok_setPlane _ _
        (PlaneController.works_congr (by rw [f]) (by rw [f]))))
  · cases h; exact .refl s

theorem State.tok_takeText (s : State) (d : Descriptor) (vals : Option (List CellValue)) :
    s.Tok (s.takeText d vals) (oneOf .t) := by
  unfold State.takeText
  split
  · split
    · exact State.tok_complete
    split
    · exact State.tok_complete
    · rename_i layer vs _ _ _
      have f := Walk.run_frame s.field.occupancy layer vs (d.textRow * s.plane.columns + d.textCol) ⟨s.plane, 0, 0⟩
      exact .cast (by simp) ((s.tok_setPlane _ (PlaneController.works_congr (by rw [f]) (by rw [f]))).trans State.tok_complete)
  · exact State.tok_complete

theorem tok_execWriteCells {s t : State} (h : execWriteCells s = .next t) : s.Tok t 0 := by
  unfold execWriteCells at h
  split at h <;> cases h
  · rename_i hi; exact State.tok_planeCommand hi rfl (State.tok_takeText _ _ _)
  · exact .refl s

theorem tok_execFillCells {s t : State} (h : execFillCells s = .next t) : s.Tok t 0 := by
  unfold execFillCells at h
  split at h <;> cases h
  · rename_i hi; exact State.tok_planeCommand hi rfl (State.tok_takeText _ _ _)
  · exact .refl s

theorem tok_execSetCursor {s t : State} (h : execSetCursor s = .next t) : s.Tok t 0 := by
  unfold execSetCursor at h
  split at h <;> cases h
  · rename_i hi
    refine State.tok_planeCommand hi rfl ?_
    unfold State.takeSetCursor
    dsimp only
    split
    · exact State.tok_complete
    split
    · exact State.tok_complete
    · refine .cast (j := 0 + oneOf .t) (by simp) (State.Tok.trans ?_ State.tok_complete)
      exact .cast (fun r => by simp) (State.Tok.of_field (n := 0) rfl rfl rfl rfl rfl (by simp))
  · exact .refl s

theorem tok_execOpenOverlay {s t : State}
    (hb : ∀ q rest, s.plane.inbox = q :: rest → q.isCommand = true → (s.plane.stack.any fun o => o.state.underWay) = false)
    (h : execOpenOverlay s = .next t) : s.Tok t 0 := by
  unfold execOpenOverlay at h
  split at h <;> cases h
  · rename_i d rest hi
    refine State.tok_planeCommand hi rfl ?_
    have nb := hb _ _ hi rfl
    unfold State.takeOpen
    dsimp only
    split
    · exact State.tok_complete
    · exact .cast (fun r => by by_cases e : r = .t <;> simp [oneOf, e]) (State.Tok.of_plane (n := 1) rfl rfl rfl rfl rfl (by
        have e : (s.dropPlane.plane.stack.any fun o => o.state.underWay) = false := nb
        show (((s.dropPlane.plane.inbox ++ [PlaneRequest.row]).countP PlaneRequest.isCommand +
          ((s.dropPlane.plane.stack ++ [_]).any fun o => o.state.underWay).toNat : Nat) : Int) = _
        unfold PlaneController.works
        rw [List.any_append, e]
        simp [PlaneRequest.isCommand, PlaneController.newOverlay]))
  · exact .refl s

/-- A stack with a top is what lies below it and the top. -/
theorem PlaneController.stack_split {p : PlaneController} {o : Overlay} (h : p.topOverlay = some o) :
    p.stack = p.stack.dropLast ++ [o] := (List.dropLast_append_getLast? o h).symm

theorem tok_execCloseOverlay {s t : State}
    (hb : ∀ q rest, s.plane.inbox = q :: rest → q.isCommand = true → (s.plane.stack.any fun o => o.state.underWay) = false)
    (h : execCloseOverlay s = .next t) : s.Tok t 0 := by
  unfold execCloseOverlay at h
  split at h <;> cases h
  · rename_i rest hi
    refine State.tok_planeCommand hi rfl ?_
    have nb := hb _ _ hi rfl
    unfold State.takeClose
    split
    · exact State.tok_complete
    · rename_i o ho
      exact .cast (fun r => by by_cases e : r = .t <;> simp [oneOf, e]) (State.Tok.of_plane (n := 1) rfl rfl rfl rfl rfl (by
        have e : (s.dropPlane.plane.stack.any fun o => o.state.underWay) = false := nb
        have e' : (s.dropPlane.plane.stack.dropLast.any fun o => o.state.underWay) = false := by
          simp only [List.any_eq_false] at e ⊢
          exact fun x hx => e x (List.mem_of_mem_dropLast hx)
        simp only [PlaneController.works, State.sendPlanes_plane, PlaneController.setTop, List.any_append, e, e']
        simp [PlaneRequest.isCommand]))
  · exact .refl s

theorem foldl_save_frame (o : Overlay) (row : Nat) : ∀ (cols : List Nat) (p : PlaneController),
    (cols.foldl (o.saveCell row) p).stack = p.stack ∧ (cols.foldl (o.saveCell row) p).inbox = p.inbox
  | [], _ => ⟨rfl, rfl⟩
  | c :: cols, p => foldl_save_frame o row cols (o.saveCell row p c)

theorem foldl_restore_frame (o : Overlay) (row : Nat) : ∀ (cols : List Nat) (p : PlaneController),
    (cols.foldl (o.restoreCell row) p).stack = p.stack ∧ (cols.foldl (o.restoreCell row) p).inbox = p.inbox
  | [], _ => ⟨rfl, rfl⟩
  | c :: cols, p => foldl_restore_frame o row cols (o.restoreCell row p c)

/-- The end of an overlay operation returns an outcome; the report to the Control Unit is no descriptor. -/
theorem State.tok_endOverlay (s : State) : s.Tok s.endOverlay (oneOf .t) := by
  unfold State.endOverlay
  refine .cast (j := 0 + oneOf .t) (by simp) (State.Tok.trans ?_ State.tok_complete)
  exact .cast (fun r => by simp) (State.Tok.of_field (n := 0) rfl rfl rfl rfl rfl (by simp))

/-- With the records below the top OPEN, an operation is under way exactly on the top. -/
theorem underWay_split {l : List Overlay} (h : ∀ o ∈ l, o.state = .opened) (o : Overlay) :
    ((l ++ [o]).any fun o => o.state.underWay) = o.state.underWay := by
  have : (l.any fun o => o.state.underWay) = false := by
    simp only [List.any_eq_false]; intro o ho; simp [h o ho]
  simp [this]

theorem tok_execOpeningRow {s t : State} (ho : ∀ o ∈ s.plane.stack.dropLast, o.state = .opened)
    (h : execOpeningRow s = .next t) : s.Tok t 0 := by
  unfold execOpeningRow at h
  split at h
  · rename_i rest o hi htop
    have d := State.tok_dropPlane hi
    have sp := PlaneController.stack_split htop
    split at h <;> cases h
    · rename_i k hk
      refine .cast (j := 0 + 0) (by simp) (State.Tok.trans (.cast (fun r => by simp [PlaneRequest.isCommand]) d) ?_)
      unfold State.openingRow
      dsimp only
      have f := foldl_save_frame o (o.top + k) o.columnList s.dropPlane.plane
      have b : s.dropPlane.plane.works = s.dropPlane.plane.inbox.countP PlaneRequest.isCommand + 1 := by
        unfold PlaneController.works
        have e : s.dropPlane.plane.stack = s.plane.stack := rfl
        rw [e, sp, underWay_split ho, hk]; rfl
      split
      · exact .cast (fun r => by simp) (State.Tok.of_plane (n := 0) rfl rfl rfl rfl rfl (by
          rw [b]
          simp only [PlaneController.works, State.sendPlanes_plane, PlaneController.setTop, f.1, f.2]
          rw [underWay_split (by exact ho)]
          simp [PlaneRequest.isCommand]))
      · refine .cast (fun r => ?_) (State.Tok.trans (State.Tok.of_plane (n := -1)
          (t := { s.dropPlane with plane := PlaneController.setTop _ _ }) rfl rfl rfl rfl rfl ?_) (State.tok_endOverlay _))
        · by_cases e : r = .t <;> simp [oneOf, e]
        · rw [b]
          simp only [PlaneController.works, PlaneController.setTop, f.1, f.2]
          rw [underWay_split (by exact ho)]
          simp
    · exact .refl s
    · exact .refl s
  · cases h; exact .refl s

theorem tok_execClosingRow {s t : State} (ho : ∀ o ∈ s.plane.stack.dropLast, o.state = .opened)
    (h : execClosingRow s = .next t) : s.Tok t 0 := by
  unfold execClosingRow at h
  split at h
  · rename_i rest o hi htop
    have d := State.tok_dropPlane hi
    have sp := PlaneController.stack_split htop
    split at h <;> cases h
    · rename_i k hk
      refine .cast (j := 0 + 0) (by simp) (State.Tok.trans (.cast (fun r => by simp [PlaneRequest.isCommand]) d) ?_)
      unfold State.closingRow
      dsimp only
      have f := foldl_restore_frame o (o.top + k) o.columnList s.dropPlane.plane
      have b : s.dropPlane.plane.works = s.dropPlane.plane.inbox.countP PlaneRequest.isCommand + 1 := by
        unfold PlaneController.works
        have e : s.dropPlane.plane.stack = s.plane.stack := rfl
        rw [e, sp, underWay_split ho, hk]; rfl
      split
      · exact .cast (fun r => by simp) (State.Tok.of_plane (n := 0) rfl rfl rfl rfl rfl (by
          rw [b]
          simp only [PlaneController.works, State.sendPlanes_plane, PlaneController.setTop, f.1, f.2]
          rw [underWay_split (by exact ho)]
          simp [PlaneRequest.isCommand]))
      · have nb : (s.plane.stack.dropLast.any fun o => o.state.underWay) = false := by
          simp only [List.any_eq_false]; intro o' ho'; simp [ho o' ho']
        refine .cast (fun r => ?_) (State.Tok.trans (State.Tok.of_plane (n := -1)
          (t := { s.dropPlane with plane := { (_ : PlaneController) with stack := _ } }) rfl rfl rfl rfl rfl ?_) (State.tok_endOverlay _))
        · by_cases e : r = .t <;> simp [oneOf, e]
        · rw [b]
          simp only [PlaneController.works, f.1, f.2]
          have e : (s.dropPlane.plane.stack.dropLast.any fun o => o.state.underWay) = false := nb
          rw [e]; simp
    · exact .refl s
    · exact .refl s
  · cases h; exact .refl s

end Sys2Proof.Machine
end

