-- ==== Sys2Proof/Laws/OneEachRings.lean ====
section
/-! SUPPORT. The commands of the Ring Units, the Memory Master, the ports and the Control Unit keep `State.OneEach`. -/

namespace Sys2Proof.Machine

/-- Between two states the device state is the same, each ring `r` gained `b r` transactions and `w r` descriptors at
their owners, and requests are held under the names of their requesters if they were. -/
structure State.Flow (s t : State) (b w : RingId → Int) : Prop where
  device : t.control.device = s.control.device
  bus : ∀ r, (t.transactionsOf r : Int) = s.transactionsOf r + b r
  works : ∀ r, (t.worksOf r : Int) = s.worksOf r + w r
  requests : (∀ q tx, s.memory.sent.get q = some tx ∨ s.memory.held.get q = some tx → tx.kind.requester = q) →
    ∀ q tx, t.memory.sent.get q = some tx ∨ t.memory.held.get q = some tx → tx.kind.requester = q

theorem State.Flow.refl (s : State) : s.Flow s 0 0 := ⟨rfl, fun _ => by simp, fun _ => by simp, fun h => h⟩

theorem State.Flow.trans {s t u : State} {b w b' w' : RingId → Int} (h : s.Flow t b w) (g : t.Flow u b' w') :
    s.Flow u (b + b') (w + w') :=
  ⟨g.device.trans h.device, fun r => by rw [g.bus, h.bus, Pi.add_apply]; ring,
    fun r => by rw [g.works, h.works, Pi.add_apply]; ring, fun x => g.requests (h.requests x)⟩

theorem State.Flow.cast {s t : State} {b w b' w' : RingId → Int} (eb : ∀ r, b r = b' r) (ew : ∀ r, w r = w' r)
    (h : s.Flow t b w) : s.Flow t b' w' :=
  ⟨h.device, fun r => by rw [h.bus, eb], fun r => by rw [h.works, ew], h.requests⟩

theorem State.Tok.flow {s t : State} {k : RingId → Int} (h : s.Tok t k) : s.Flow t 0 k where
  device := h.device
  bus r := by simp [State.transactionsOf, h.memory, h.ends r]
  works := h.works
  requests x := by rw [h.memory]; exact x

/-- `n` at ring `r`, and 0 at the others. -/
def atRing (r : RingId) (n : Int) : RingId → Int := fun q => if q = r then n else 0

/-- A change of ring `r` alone keeps `OneEach` when its counts follow its phase. -/
theorem State.OneEach.ring {s t : State} {r : RingId} {β ω : Int} (o : s.OneEach)
    (f : s.Flow t (atRing r β) (atRing r ω))
    (others : ∀ q, q ≠ r → (t.rings.get q).phase = (s.rings.get q).phase ∧ (t.rings.get q).state = (s.rings.get q).state)
    (hb : ((s.rings.get r).phase.awaitsBus.toNat : Int) + β = (t.rings.get r).phase.awaitsBus.toNat)
    (hw : ((decide ((s.rings.get r).phase = .owner)).toNat : Int) + ω = (decide ((t.rings.get r).phase = .owner)).toNat)
    (still : (t.rings.get r).state = .off ∨ (t.rings.get r).state = .halted → (t.rings.get r).phase = .idle)
    (dev : s.control.device = .stopped ∨ s.control.device = .loading → (t.rings.get r).phase = .idle) : t.OneEach where
  bus q := by
    have a := f.bus q; have b := o.bus q
    by_cases h : q = r
    · subst h; simp only [atRing, if_true] at a; omega
    · rw [(others q h).1, ← b]; simp only [atRing, h, if_false] at a; omega
  work q := by
    have a := f.works q; have b := o.work q
    by_cases h : q = r
    · subst h; simp only [atRing, if_true] at a; omega
    · rw [(others q h).1, ← b]; simp only [atRing, h, if_false] at a; omega
  still q hq := by
    by_cases h : q = r
    · subst h; exact still hq
    · rw [(others q h).1]; rw [(others q h).2] at hq; exact o.still q hq
  device hd q := by
    rw [f.device] at hd
    by_cases h : q = r
    · subst h; exact dev hd
    · rw [(others q h).1]; exact o.device hd q
  requests := f.requests o.requests

/-! ### The primitives -/

theorem State.flow_modRing (s : State) (r : RingId) (f : RingUnit → RingUnit)
    (h : (f (s.rings.get r)).input = (s.rings.get r).input) : s.Flow (s.modRing r f) 0 0 where
  device := rfl
  bus q := by
    by_cases e : q = r
    · subst e; simp [State.transactionsOf, h]
    · simp [State.transactionsOf, PerRing.get_set_ne _ _ _ _ e]
  works q := by
    by_cases e : q = r
    · subst e; simp [State.worksOf, h]
    · simp [State.worksOf, PerRing.get_set_ne _ _ _ _ e]
  requests x := x

theorem State.flow_dropInput (s : State) (r : RingId) (i : RingInput) (rest : List RingInput)
    (h : (s.rings.get r).input = i :: rest) :
    s.Flow (s.dropInput r) (atRing r (-(!i.isOutcome).toNat)) (atRing r (-i.isOutcome.toNat)) where
  device := rfl
  bus q := by
    by_cases e : q = r
    · subst e
      cases hi : i.isOutcome <;> simp [State.transactionsOf, State.dropInput, h, hi, atRing] <;> omega
    · simp [State.transactionsOf, State.dropInput, PerRing.get_set_ne _ _ _ _ e, atRing, e]
  works q := by
    by_cases e : q = r
    · subst e
      cases hi : i.isOutcome <;> cases q <;> simp [State.worksOf, State.dropInput, h, hi, atRing] <;> omega
    · simp [State.worksOf, State.dropInput, PerRing.get_set_ne _ _ _ _ e, atRing, e]
  requests x := x

theorem Requests.get_ring (x : Requests) (r : RingId) : x.get (.ring r) = x.rings.get r := rfl

theorem State.flow_sendMemory (s : State) (r : RingId) (tx : Transaction) (hk : tx.kind.requester = .ring r)
    (h : s.memory.sent.rings.get r = none) : s.Flow (s.sendMemory (.ring r) tx) (oneOf r) 0 where
  device := rfl
  bus q := by
    by_cases e : q = r
    · subst e; simp [State.transactionsOf, Requests.set, h, oneOf, MemoryMaster.serves]; omega
    · simp [State.transactionsOf, Requests.set, PerRing.get_set_ne _ _ _ _ e, oneOf, e, MemoryMaster.serves]
  works q := by cases q <;> simp [State.worksOf]
  requests x q u hu := by
    by_cases e : q = .ring r
    · subst e
      simp only [State.sendMemory_memory, Requests.get_set_self] at hu
      rcases hu with hu | hu
      · cases hu; exact hk
      · exact x _ _ (.inr hu)
    · simp only [State.sendMemory_memory, Requests.get_set_ne _ _ _ _ e] at hu
      exact x q u hu

/-- A ring without a transaction has sent no request. -/
theorem State.sent_none {s : State} {r : RingId} (h : s.transactionsOf r = 0) : s.memory.sent.rings.get r = none := by
  unfold State.transactionsOf at h
  cases e : s.memory.sent.rings.get r with
  | none => rfl
  | some x => rw [e] at h; simp at h

theorem State.changeRing_rings (s : State) (r : RingId) (n : RingState) :
    (s.changeRing r n).rings = s.rings.set r { s.rings.get r with state := n } := by rw [State.changeRing_eq]

theorem State.changeRing_device (s : State) (r : RingId) (n : RingState) :
    (s.changeRing r n).control.device = s.control.device := by rw [State.changeRing_eq]; dsimp only; split <;> rfl

theorem State.changeRing_works (s : State) (r : RingId) (n : RingState) :
    (s.changeRing r n).field.works = s.field.works := by
  rw [State.changeRing_eq]; dsimp only; split
  · simp [FieldUnit.works, FieldRequest.isCommand]
  · rfl

theorem State.flow_changeRing (s : State) (r : RingId) (n : RingState) : s.Flow (s.changeRing r n) 0 0 where
  device := s.changeRing_device r n
  bus q := by
    by_cases e : q = r
    · subst e; simp [State.transactionsOf, State.changeRing_rings]
    · simp [State.transactionsOf, State.changeRing_rings, PerRing.get_set_ne _ _ _ _ e]
  works q := by
    by_cases e : q = r
    · subst e; simp [State.worksOf, State.changeRing_rings, State.changeRing_works]
    · simp [State.worksOf, State.changeRing_rings, State.changeRing_works, PerRing.get_set_ne _ _ _ _ e]
  requests x := by simpa using x

theorem State.flow_setPhase (s : State) (r : RingId) (p : FetchPhase) : s.Flow (s.setPhase r p) 0 0 :=
  s.flow_modRing r _ rfl

theorem State.flow_enterReady (s : State) (r : RingId) (h : s.memory.sent.rings.get r = none) :
    s.Flow (s.enterReady r) (oneOf r) 0 :=
  .cast (by simp) (by simp) ((s.flow_modRing r (fun u => { u with phase := .status }) rfl).trans
    (State.flow_sendMemory _ _ _ rfl h))

/-! ### The Ring Units -/

/-- Two states with the same rings but for ring `r`. -/
def State.OnlyRing (r : RingId) (s t : State) : Prop := ∀ q, q ≠ r → t.rings.get q = s.rings.get q

theorem State.OnlyRing.trans {r : RingId} {s t u : State} (h : State.OnlyRing r s t) (g : State.OnlyRing r t u) :
    State.OnlyRing r s u := fun q e => (g q e).trans (h q e)

theorem State.OnlyRing.of_set {r : RingId} {s t : State} {u : RingUnit} (h : t.rings = s.rings.set r u) :
    State.OnlyRing r s t := fun q e => by rw [h, PerRing.get_set_ne _ _ _ _ e]

theorem State.OnlyRing.of_eq {r : RingId} {s t : State} (h : t.rings = s.rings) : State.OnlyRing r s t := fun q _ => by rw [h]

theorem State.OnlyRing.others {r : RingId} {s t : State} (h : State.OnlyRing r s t) : ∀ q, q ≠ r →
    (t.rings.get q).phase = (s.rings.get q).phase ∧ (t.rings.get q).state = (s.rings.get q).state :=
  fun q e => by rw [h q e]; exact ⟨rfl, rfl⟩

theorem oneOf_atRing (r : RingId) : oneOf r = atRing r 1 := rfl

theorem atRing_add (r q : RingId) (m n : Int) : atRing r m q + atRing r n q = atRing r (m + n) q := by
  unfold atRing; split <;> simp

theorem atRing_zero (r q : RingId) : atRing r 0 q = 0 := by unfold atRing; split <;> rfl

theorem State.OneEach.phase_bus {s : State} (o : s.OneEach) {r : RingId} (h : s.transactionsOf r ≠ 0) :
    (s.rings.get r).phase.awaitsBus = true ∧ s.transactionsOf r = 1 := by
  have := o.bus r
  cases e : (s.rings.get r).phase.awaitsBus <;> rw [e] at this <;> simp_all

/-- A ring that takes the end of a transaction was waiting for it. -/
theorem State.OneEach.ended {s : State} (o : s.OneEach) {r : RingId} {i : RingInput} {rest : List RingInput}
    (h : (s.rings.get r).input = i :: rest) (hi : i.isOutcome = false) :
    (s.rings.get r).phase.awaitsBus = true ∧ (s.dropInput r).transactionsOf r = 0 := by
  have a : s.transactionsOf r ≠ 0 := by unfold State.transactionsOf; rw [h]; simp [hi]
  have b := o.phase_bus a
  refine ⟨b.1, ?_⟩
  have f := (s.flow_dropInput r i rest h).bus r
  rw [hi, b.2] at f
  simp [atRing] at f
  exact f

/-- A ring that takes an outcome was waiting for its owner. -/
theorem State.OneEach.answered {s : State} (o : s.OneEach) {r : RingId} {i : RingInput} {rest : List RingInput}
    (h : (s.rings.get r).input = i :: rest) (hi : i.isOutcome = true) :
    (s.rings.get r).phase = .owner ∧ (s.dropInput r).transactionsOf r = 0 := by
  have a : s.worksOf r ≠ 0 := by unfold State.worksOf; rw [h]; simp [hi]
  have b := o.work r
  have c : (s.rings.get r).phase = .owner := by
    by_contra e
    simp only [e, decide_false, Bool.toNat_false] at b
    exact a b
  refine ⟨c, ?_⟩
  have f := (s.flow_dropInput r i rest h).bus r
  have d := o.bus r
  rw [c] at d
  rw [hi, d] at f
  simp [atRing, FetchPhase.awaitsBus] at f
  exact f

theorem State.OneEach.not_still {s : State} (o : s.OneEach) {r : RingId} (h : (s.rings.get r).phase ≠ .idle) :
    ¬(s.control.device = .stopped ∨ s.control.device = .loading) := fun d => h (o.device d r)

theorem awaitsBus_ne {p : FetchPhase} (h : p.awaitsBus = true) : p ≠ .idle ∧ p ≠ .owner := by
  cases p <;> simp_all [FetchPhase.awaitsBus]

theorem State.dropInput_phase (s : State) (r q : RingId) :
    ((s.dropInput r).rings.get q).phase = (s.rings.get q).phase ∧
      ((s.dropInput r).rings.get q).state = (s.rings.get q).state := by
  by_cases e : q = r
  · subst e; simp [State.dropInput]
  · simp [State.dropInput, PerRing.get_set_ne _ _ _ _ e]

theorem State.OnlyRing.dropInput (s : State) (r : RingId) : State.OnlyRing r s (s.dropInput r) := .of_set rfl

/-- What a ring does with the end of a transaction keeps `OneEach`: `v` is the state without that end. -/
theorem State.OneEach.afterEnd {s t : State} {r : RingId} {i : RingInput} {rest : List RingInput} {β ω : Int} (o : s.OneEach)
    (h : (s.rings.get r).input = i :: rest) (hi : i.isOutcome = false)
    (f : (s.dropInput r).Flow t (atRing r β) (atRing r ω)) (only : State.OnlyRing r (s.dropInput r) t)
    (hb : β = (t.rings.get r).phase.awaitsBus.toNat) (hw : ω = (decide ((t.rings.get r).phase = .owner)).toNat)
    (still : (t.rings.get r).state = .off ∨ (t.rings.get r).state = .halted → (t.rings.get r).phase = .idle) :
    t.OneEach := by
  have e := o.ended h hi
  have d := s.flow_dropInput r i rest h
  rw [hi] at d
  refine o.ring (r := r) (β := -1 + β) (ω := ω) ?_ ((State.OnlyRing.dropInput s r).trans only).others ?_ ?_ still
    (fun x => absurd x (o.not_still (awaitsBus_ne e.1).1))
  · exact .cast (fun q => by simp [atRing_add]) (fun q => by simp [atRing_add]) (d.trans f)
  · rw [e.1, ← hb]; simp
  · rw [← hw]; simp [(awaitsBus_ne e.1).2]

theorem takeStatusWord_oneEach {s : State} {r : RingId} {w : Word} {rest : List RingInput} (o : s.OneEach)
    (h : (s.rings.get r).input = .statusEnd w :: rest) : ((s.dropInput r).takeStatusWord r w).OneEach := by
  have e := o.ended h rfl
  have hs := State.sent_none e.2
  have nst : (s.rings.get r).state ≠ .off ∧ (s.rings.get r).state ≠ .halted :=
    ⟨fun x => (awaitsBus_ne e.1).1 (o.still r (.inl x)), fun x => (awaitsBus_ne e.1).1 (o.still r (.inr x))⟩
  unfold State.takeStatusWord
  dsimp only
  split
  · refine o.afterEnd (β := 0) (ω := 0) h rfl ?_ ?_ ?_ ?_ ?_
    · exact .cast (fun q => by simp [atRing_zero]) (fun q => by simp [atRing_zero])
        ((State.flow_setPhase _ _ _).trans (State.flow_changeRing _ _ _))
    · exact .trans (.of_set rfl) (.of_set (State.changeRing_rings _ _ _))
    · simp [State.changeRing_rings, State.setPhase, FetchPhase.awaitsBus]
    · simp [State.changeRing_rings, State.setPhase]
    · simp [State.changeRing_rings, State.setPhase]
  · split
    · refine o.afterEnd (β := 1) (ω := 0) h rfl ?_ ?_ ?_ ?_ ?_
      · exact .cast (fun q => by simp [oneOf_atRing]) (fun q => by simp [atRing_zero])
          ((State.flow_modRing _ _ _ rfl).trans (State.flow_sendMemory _ _ _ rfl hs))
      · exact .of_set rfl
      · simp [FetchPhase.awaitsBus]
      · simp
      · intro x
        simp [State.dropInput, nst.1, nst.2] at x
    · refine o.afterEnd (β := 0) (ω := 0) h rfl ?_ ?_ ?_ ?_ ?_
      · exact .cast (fun q => by simp [atRing_zero]) (fun q => by simp [atRing_zero]) (State.flow_setPhase _ _ _)
      · exact .of_set rfl
      · simp [State.setPhase, FetchPhase.awaitsBus]
      · simp [State.setPhase]
      · intro x
        simp [State.dropInput, State.setPhase, nst.1, nst.2] at x

theorem State.outcomeAttention_tok (s : State) (r : RingId) (st : Status) : s.Tok (s.outcomeAttention r st) 0 := by
  have c : ∀ (u : State) p c, s.Tok u 0 → s.Tok (u.sendCause p c) 0 := fun u p c h =>
    .cast (by simp) (h.trans (u.tok_sendCause p c))
  unfold State.outcomeAttention
  dsimp only
  split <;> split <;> (try split) <;> first
    | exact .refl s
    | exact c _ _ _ (.refl s)
    | exact c _ _ _ (c _ _ _ (.refl s))
    | exact c _ _ _ (c _ _ _ (c _ _ _ (.refl s)))

theorem RingUnit.setCounter_keeps (u : RingUnit) (c : Counter) (v : Half) :
    (u.setCounter c v).input = u.input ∧ (u.setCounter c v).state = u.state ∧ (u.setCounter c v).phase = u.phase := by
  cases c <;> exact ⟨rfl, rfl, rfl⟩

theorem State.flow_takeOutcome (s : State) (r : RingId) (st : Status) (w : Word)
    (h : s.memory.sent.rings.get r = none) : s.Flow (s.takeOutcome r st w) (oneOf r) 0 := by
  unfold State.takeOutcome
  dsimp only
  refine .cast (b := 0 + (0 + oneOf r)) (w := 0 + (0 + 0)) (by simp) (by simp)
    ((s.flow_modRing r _ ?_).trans ((State.outcomeAttention_tok _ r st).flow.trans (State.flow_sendMemory _ _ _ rfl ?_)))
  · exact (RingUnit.setCounter_keeps _ _ _).1
  · simpa using h

theorem State.takeOutcome_ring (s : State) (r : RingId) (st : Status) (w : Word) :
    State.OnlyRing r s (s.takeOutcome r st w) ∧ ((s.takeOutcome r st w).rings.get r).phase = .handBack ∧
      ((s.takeOutcome r st w).rings.get r).state = (s.rings.get r).state := by
  refine ⟨.of_set (by simp [State.takeOutcome]; rfl), by simp [State.takeOutcome], ?_⟩
  simp [State.takeOutcome, RingUnit.count, (RingUnit.setCounter_keeps _ _ _).2.1]

theorem State.tok_sendPlaneCommand (s : State) (q : PlaneRequest) (hq : q.isCommand = true) :
    s.Tok (s.sendPlanes [q]) (oneOf .t) :=
  .cast (fun r => by simp [oneOf]) (State.Tok.of_plane (n := 1) rfl rfl rfl rfl rfl
    (by simp [PlaneController.works, hq]; omega))

theorem State.tok_sendFieldCommand (s : State) (q : FieldRequest) (hq : q.isCommand = true) :
    s.Tok (s.sendField q) (oneOf .t) :=
  .cast (fun r => by simp [oneOf]) (State.Tok.of_field (n := 1) rfl rfl rfl rfl rfl
    (by simp [FieldUnit.works, State.sendField, hq]; omega))

theorem State.tok_sendQuoteCommand (s : State) (q : QuoteRequest) (r : RingId) (hq : ∀ p, q.worksFor p = decide (p = r)) :
    s.Tok (s.sendQuote q) (oneOf r) :=
  .of_quote rfl rfl rfl rfl rfl fun p => by
    by_cases e : p = r <;> simp [QuoteEngine.worksFor, hq, oneOf, e]; omega

/-- A descriptor goes to its owner: on Ring T, or a quote kind. -/
theorem State.tok_passOn (s : State) (r : RingId) (d : Descriptor) (h : r = .t ∨ d.kind < 16) :
    s.Tok (s.passOn r d) (oneOf r) := by
  have tq : ∀ q : QuoteRequest, (∀ p, q.worksFor p = decide (p = .t)) → r = .t → s.Tok (s.sendQuote q) (oneOf r) :=
    fun q hq e => e ▸ s.tok_sendQuoteCommand q .t hq
  have tf : ∀ q : FieldRequest, q.isCommand = true → r = .t → s.Tok (s.sendField q) (oneOf r) :=
    fun q hq e => e ▸ s.tok_sendFieldCommand q hq
  have tp : ∀ q : PlaneRequest, q.isCommand = true → r = .t → s.Tok (s.sendPlanes [q]) (oneOf r) :=
    fun q hq e => e ▸ s.tok_sendPlaneCommand q hq
  have isT : 16 ≤ d.kind → r = .t := fun k => h.resolve_right (by omega)
  unfold State.passOn
  split
  · rename_i k; exact tq _ (fun p => by cases p <;> rfl) (isT (by omega))
  · rename_i k; exact tq _ (fun p => by cases p <;> rfl) (isT (by omega))
  · rename_i k; exact tq _ (fun p => by cases p <;> rfl) (isT (by omega))
  all_goals first
    | (rename_i k; exact tf _ rfl (isT (by omega)))
    | (rename_i k; exact tp _ rfl (isT (by omega)))
    | exact s.tok_sendQuoteCommand _ r (fun p => by simp [QuoteRequest.worksFor, eq_comm])

theorem takeBody_oneEach {s : State} {r : RingId} {ws : List Word} {rest : List RingInput} (o : s.OneEach)
    (h : (s.rings.get r).input = .bodyEnd ws :: rest) : ((s.dropInput r).takeBody r ws).OneEach := by
  have e := o.ended h rfl
  have hs := State.sent_none e.2
  have nst : (s.rings.get r).state ≠ .off ∧ (s.rings.get r).state ≠ .halted :=
    ⟨fun x => (awaitsBus_ne e.1).1 (o.still r (.inl x)), fun x => (awaitsBus_ne e.1).1 (o.still r (.inr x))⟩
  unfold State.takeBody
  dsimp only
  have m := fun f hf => State.flow_modRing (s.dropInput r) r f hf
  have out : ∀ (g : InFlight) (st : Status),
      (((s.dropInput r).modRing r fun u => { u with inFlight := g }).takeOutcome r st 0).OneEach := by
    intro g st
    have k := State.takeOutcome_ring ((s.dropInput r).modRing r fun u => { u with inFlight := g }) r st 0
    refine o.afterEnd (β := 1) (ω := 0) h rfl ?_ (State.OnlyRing.trans (.of_set rfl) k.1) ?_ ?_ ?_
    · exact .cast (fun q => by simp [oneOf_atRing]) (fun q => by simp [atRing_zero])
        ((m _ rfl).trans (State.flow_takeOutcome _ r st 0 hs))
    · rw [k.2.1]; rfl
    · rw [k.2.1]; rfl
    · rw [k.2.2]; intro x; simp [State.dropInput, nst.1, nst.2] at x
  split
  · exact out _ _
  · split
    · exact out _ _
    · rename_i hk hw
      refine o.afterEnd (β := 0) (ω := 1) h rfl ?_ ?_ ?_ ?_ ?_
      · refine .cast (fun q => ?_) (fun q => ?_) ((m _ rfl).trans ((State.flow_setPhase _ r .owner).trans
          (State.tok_passOn _ r _ ?_).flow))
        · simp [atRing_zero]
        · simp [oneOf_atRing]
        · by_cases hr : isFeed r = true
          · right
            simp only [hr, and_true, not_le] at hw
            exact hw
          · left; cases r <;> simp_all [isFeed]
      · exact .trans (.trans (.of_set rfl) (.of_set rfl)) (.of_eq (State.passOn_rings _ _ _))
      · rw [State.passOn_rings]; simp [State.setPhase, FetchPhase.awaitsBus]
      · rw [State.passOn_rings]; simp [State.setPhase]
      · rw [State.passOn_rings]; intro x; simp [State.setPhase, State.dropInput, nst.1, nst.2] at x

theorem outcomeTaken_oneEach {s : State} {r : RingId} {st : Status} {w : Word} {rest : List RingInput} (o : s.OneEach)
    (h : (s.rings.get r).input = .outcome st w :: rest) : ((s.dropInput r).takeOutcome r st w).OneEach := by
  have e := o.answered h rfl
  have hs := State.sent_none e.2
  have k := State.takeOutcome_ring (s.dropInput r) r st w
  have d := s.flow_dropInput r _ rest h
  refine o.ring (r := r) (β := 1) (ω := -1) ?_ (State.OnlyRing.trans (.of_set rfl) k.1).others ?_ ?_ ?_ ?_
  · exact .cast (fun q => by simp [RingInput.isOutcome, oneOf_atRing, atRing_add]) (fun q => by
      simp [RingInput.isOutcome]) (d.trans (State.flow_takeOutcome _ r st w hs))
  · rw [k.2.1, e.1]; rfl
  · rw [k.2.1, e.1]; rfl
  · rw [k.2.2, (s.dropInput_phase r r).2]
    exact fun x => absurd (o.still r x) (by rw [e.1]; simp)
  · exact fun x => absurd x (o.not_still (by rw [e.1]; simp))

/-- What leaves the counts, the phases and the other rings as they are. -/
structure State.Quiet (r : RingId) (s t : State) : Prop where
  flow : s.Flow t 0 0
  only : State.OnlyRing r s t
  phase : (t.rings.get r).phase = (s.rings.get r).phase
  sent : t.memory = s.memory

theorem State.Quiet.refl (r : RingId) (s : State) : State.Quiet r s s := ⟨.refl s, fun _ _ => rfl, rfl, rfl⟩

theorem State.Quiet.trans {r : RingId} {s t u : State} (h : State.Quiet r s t) (g : State.Quiet r t u) :
    State.Quiet r s u :=
  ⟨.cast (by simp) (by simp) (h.flow.trans g.flow), h.only.trans g.only, g.phase.trans h.phase, g.sent.trans h.sent⟩

theorem State.quiet_modRing (s : State) (r : RingId) (f : RingUnit → RingUnit)
    (h : (f (s.rings.get r)).input = (s.rings.get r).input) (hp : (f (s.rings.get r)).phase = (s.rings.get r).phase) :
    State.Quiet r s (s.modRing r f) := ⟨s.flow_modRing r f h, .of_set rfl, by simp [hp], rfl⟩

theorem State.quiet_sendCause (s : State) (r : RingId) (p : Port) (c : Cause) : State.Quiet r s (s.sendCause p c) :=
  ⟨(s.tok_sendCause p c).flow, .of_eq rfl, rfl, rfl⟩

theorem State.quiet_changeRing (s : State) (r : RingId) (n : RingState) : State.Quiet r s (s.changeRing r n) :=
  ⟨s.flow_changeRing r n, .of_set (s.changeRing_rings r n), by rw [State.changeRing_rings]; simp, by simp⟩

theorem State.Quiet.ite {r : RingId} {s u v : State} {p : Prop} [Decidable p] (h : State.Quiet r s u)
    (g : State.Quiet r u v) : State.Quiet r s (if p then v else u) := by
  split
  · exact h.trans g
  · exact h

theorem State.quiet_handBack (s : State) (r : RingId) : State.Quiet r s (s.handBack r) := by
  unfold State.handBack
  dsimp only
  have a := s.quiet_modRing r (fun u => { u with inFlight := .none }) rfl rfl
  refine State.Quiet.trans ?_ (State.quiet_modRing _ r _ rfl rfl)
  exact .ite (.ite (.ite a (State.quiet_sendCause _ r r .done)) (State.quiet_modRing _ r _ rfl rfl))
    (State.quiet_changeRing _ r .on)

theorem State.handBack_still (s : State) (r : RingId)
    (h : (s.rings.get r).state ≠ .off ∧ (s.rings.get r).state ≠ .halted) :
    ((s.handBack r).rings.get r).state ≠ .off ∧ ((s.handBack r).rings.get r).state ≠ .halted := by
  unfold State.handBack
  dsimp only
  have key : ∀ (u : State), (u.rings.get r).state ≠ .off ∧ (u.rings.get r).state ≠ .halted → ∀ (p : Prop) [Decidable p],
      (((if p then u.changeRing r .on else u).rings.get r).state ≠ .off ∧
        ((if p then u.changeRing r .on else u).rings.get r).state ≠ .halted) := by
    intro u hu p _
    split
    · rw [State.changeRing_rings]; simp
    · exact hu
  have c : ∀ (u v : State), (u.rings.get r).state ≠ .off ∧ (u.rings.get r).state ≠ .halted →
      (v.rings.get r).state = (u.rings.get r).state → ∀ (p : Prop) [Decidable p],
      (((if p then v else u).rings.get r).state ≠ .off ∧ ((if p then v else u).rings.get r).state ≠ .halted) := by
    intro u v hu hv p _
    split
    · rw [hv]; exact hu
    · exact hu
  simp only [State.modRing_rings, PerRing.get_set_self]
  apply key
  apply c
  · apply c
    · simpa using h
    · rfl
  · simp

theorem State.fetchOn_oneEach {s v : State} {r : RingId} {i : RingInput} {rest : List RingInput} (o : s.OneEach)
    (h : (s.rings.get r).input = i :: rest) (hi : i.isOutcome = false) (q : State.Quiet r (s.dropInput r) v)
    (st : (v.rings.get r).state ≠ .off ∧ (v.rings.get r).state ≠ .halted) : (v.fetchOn r).OneEach := by
  have e := o.ended h hi
  have hs : v.memory.sent.rings.get r = none := by rw [q.sent]; exact State.sent_none e.2
  unfold State.fetchOn
  dsimp only
  split
  · refine o.afterEnd (β := 1) (ω := 0) h hi ?_ (q.only.trans (.of_set rfl)) ?_ ?_ ?_
    · exact .cast (fun q => by simp [oneOf_atRing]) (fun q => by simp [atRing_zero])
        (q.flow.trans (State.flow_enterReady _ r hs))
    · simp [State.enterReady, FetchPhase.awaitsBus]
    · simp [State.enterReady]
    · intro x; simp [State.enterReady, st.1, st.2] at x
  · split
    · refine o.afterEnd (β := 0) (ω := 0) h hi ?_
        (q.only.trans (.trans (.of_set rfl) (.of_set (State.changeRing_rings _ _ _)))) ?_ ?_ ?_
      · exact .cast (fun q => by simp [atRing_zero]) (fun q => by simp [atRing_zero])
          (q.flow.trans ((State.flow_setPhase _ r .idle).trans (State.flow_changeRing _ r _)))
      · simp [State.changeRing_rings, State.setPhase, FetchPhase.awaitsBus]
      · simp [State.changeRing_rings, State.setPhase]
      · simp [State.changeRing_rings, State.setPhase]
    · refine o.afterEnd (β := 0) (ω := 0) h hi ?_ (q.only.trans (.of_set rfl)) ?_ ?_ ?_
      · exact .cast (fun q => by simp [atRing_zero]) (fun q => by simp [atRing_zero])
          (q.flow.trans (State.flow_setPhase _ r .idle))
      · simp [State.setPhase, FetchPhase.awaitsBus]
      · simp [State.setPhase]
      · simp [State.setPhase]

theorem State.OneEach.live {s : State} (o : s.OneEach) {r : RingId} (h : (s.rings.get r).phase ≠ .idle) :
    (s.rings.get r).state ≠ .off ∧ (s.rings.get r).state ≠ .halted :=
  ⟨fun x => h (o.still r (.inl x)), fun x => h (o.still r (.inr x))⟩

theorem execWriteBackEnd_oneEach {s t : State} {r : RingId} (o : s.OneEach) (h : execWriteBackEnd r s = .next t) :
    t.OneEach := by
  unfold execWriteBackEnd at h
  split at h <;> cases h
  · rename_i rest hi
    have e := o.ended hi rfl
    refine State.fetchOn_oneEach o hi rfl (State.quiet_handBack _ r) ?_
    refine State.handBack_still _ r ?_
    rw [(s.dropInput_phase r r).2]
    exact o.live (awaitsBus_ne e.1).1
  · exact o

theorem execStatusReadEnd_oneEach {s t : State} {r : RingId} (o : s.OneEach) (h : execStatusReadEnd r s = .next t) :
    t.OneEach := by
  unfold execStatusReadEnd at h
  split at h <;> cases h
  · rename_i hi; exact takeStatusWord_oneEach o hi
  · exact o

theorem execBodyReadEnd_oneEach {s t : State} {r : RingId} (o : s.OneEach) (h : execBodyReadEnd r s = .next t) :
    t.OneEach := by
  unfold execBodyReadEnd at h
  split at h <;> cases h
  · rename_i hi; exact takeBody_oneEach o hi
  · exact o

theorem execOutcomeTaken_oneEach {s t : State} {r : RingId} (o : s.OneEach) (h : execOutcomeTaken r s = .next t) :
    t.OneEach := by
  unfold execOutcomeTaken at h
  split at h <;> cases h
  · rename_i hi; exact outcomeTaken_oneEach o hi
  · exact o

theorem haltRing_oneEach {s : State} {r : RingId} {why : HaltReason} {rest : List RingInput} (o : s.OneEach)
    (h : (s.rings.get r).input = .fault :: rest) : ((s.dropInput r).haltRing r why).OneEach := by
  unfold State.haltRing
  dsimp only
  refine o.afterEnd (β := 0) (ω := 0) h rfl ?_
    (.trans (.of_set rfl) (.trans (.of_set (State.changeRing_rings _ _ _)) (.of_eq rfl))) ?_ ?_ ?_
  · exact .cast (fun q => by simp [atRing_zero]) (fun q => by simp [atRing_zero])
      ((State.flow_modRing _ r _ rfl).trans ((State.flow_changeRing _ r _).trans (State.tok_sendCause _ r .halt).flow))
  · simp [State.changeRing_rings, FetchPhase.awaitsBus]
  · simp [State.changeRing_rings]
  · simp [State.changeRing_rings]

theorem execRingFetchFault_oneEach {s t : State} {r : RingId} (o : s.OneEach) (h : execRingFetchFault r s = .next t) :
    t.OneEach := by
  unfold execRingFetchFault at h
  split at h <;> cases h
  · rename_i hi _; exact haltRing_oneEach o hi
  · rename_i hi _; exact haltRing_oneEach o hi
  · exact o

theorem execWritebackFault_oneEach {s t : State} {r : RingId} (o : s.OneEach) (h : execWritebackFault r s = .next t) :
    t.OneEach := by
  unfold execWritebackFault at h
  split at h <;> cases h
  · rename_i hi _; exact haltRing_oneEach o hi
  · exact o

/-- A quiet change that keeps the state too, or leads to one that is neither OFF nor HALTED. -/
theorem State.Quiet.oneEach {s t : State} {r : RingId} (o : s.OneEach) (q : State.Quiet r s t)
    (st : (t.rings.get r).state = (s.rings.get r).state ∨
      ((t.rings.get r).state ≠ .off ∧ (t.rings.get r).state ≠ .halted)) : t.OneEach := by
  refine o.ring (r := r) (β := 0) (ω := 0) ?_ q.only.others ?_ ?_ ?_ ?_
  · exact .cast (fun q => by simp [atRing_zero]) (fun q => by simp [atRing_zero]) q.flow
  · rw [q.phase]; simp
  · rw [q.phase]; simp
  · rw [q.phase]
    rcases st with st | st
    · rw [st]; exact o.still r
    · intro x; rcases x with x | x
      · exact absurd x st.1
      · exact absurd x st.2
  · rw [q.phase]; exact fun x => o.device x r

/-- A ring in IDLE or WAITING has no transaction and no descriptor. -/
theorem State.OneEach.none_out {s : State} (o : s.OneEach) {r : RingId}
    (h : (s.rings.get r).phase.awaitsBus = false) : s.transactionsOf r = 0 := by
  rw [o.bus r, h]; rfl

theorem lookAgain_oneEach {s : State} (o : s.OneEach) (r : RingId) : (s.lookAgain r).OneEach := by
  unfold State.lookAgain
  dsimp only
  split
  · rename_i h
    have z := o.none_out (r := r) (by rw [h.1]; rfl)
    refine o.ring (r := r) (β := 1) (ω := 0) ?_ (State.OnlyRing.of_set rfl).others ?_ ?_ ?_ ?_
    · exact .cast (fun q => by simp [oneOf_atRing]) (fun q => by simp [atRing_zero])
        (State.flow_enterReady _ r (State.sent_none z))
    · rw [h.1]; simp [State.enterReady, FetchPhase.awaitsBus]
    · rw [h.1]; simp [State.enterReady]
    · have l := o.live (r := r) (by rw [h.1]; simp)
      intro x; simp [State.enterReady, l.1, l.2] at x
    · exact fun x => absurd x (o.not_still (by rw [h.1]; simp))
  · exact o

theorem takeRingOn_oneEach {s : State} (o : s.OneEach) (r : RingId) : (s.takeRingOn r).OneEach := by
  unfold State.takeRingOn
  split
  · rename_i h
    have p := o.still r (.inl h.1)
    have z := o.none_out (r := r) (by rw [p]; rfl)
    dsimp only
    have f := (s.flow_modRing r (fun u => { u with index := 0, silenceCounter := 0, haltReason := .none, phase := .idle })
      rfl).trans (State.flow_changeRing _ r .on)
    split
    · refine o.ring (r := r) (β := 1) (ω := 0) ?_
        (State.OnlyRing.trans (.of_set rfl) (.trans (.of_set (State.changeRing_rings _ _ _)) (.of_set rfl))).others ?_ ?_ ?_ ?_
      · exact .cast (fun q => by simp [oneOf_atRing]) (fun q => by simp [atRing_zero])
          (f.trans (State.flow_enterReady _ r (by simpa using State.sent_none z)))
      · rw [p]; simp [State.enterReady, FetchPhase.awaitsBus]
      · rw [p]; simp [State.enterReady]
      · simp [State.enterReady, State.changeRing_rings]
      · rename_i run
        intro x
        simp [State.running, State.changeRing_device] at run
        rw [run] at x; simp at x
    · refine o.ring (r := r) (β := 0) (ω := 0) ?_
        (State.OnlyRing.trans (.of_set rfl) (.of_set (State.changeRing_rings _ _ _))).others ?_ ?_ ?_ ?_
      · exact .cast (fun q => by simp [atRing_zero]) (fun q => by simp [atRing_zero]) f
      · rw [p]; simp [State.changeRing_rings, FetchPhase.awaitsBus]
      · rw [p]; simp [State.changeRing_rings]
      · simp [State.changeRing_rings]
      · simp [State.changeRing_rings]
  · exact o

theorem takeRingOff_oneEach {s : State} (o : s.OneEach) (r : RingId) : (s.takeRingOff r).OneEach := by
  have halt : (s.rings.get r).phase.awaitsBus = false → (s.rings.get r).phase ≠ .owner →
      ((s.setPhase r .idle).changeRing r .off).OneEach := fun a b => by
    refine o.ring (r := r) (β := 0) (ω := 0) ?_
      (State.OnlyRing.trans (.of_set rfl) (.of_set (State.changeRing_rings _ _ _))).others ?_ ?_ ?_ ?_
    · exact .cast (fun q => by simp [atRing_zero]) (fun q => by simp [atRing_zero])
        ((State.flow_setPhase _ r _).trans (State.flow_changeRing _ r _))
    · rw [a]; simp [State.changeRing_rings, State.setPhase, FetchPhase.awaitsBus]
    · simp [State.changeRing_rings, State.setPhase, b]
    · simp [State.changeRing_rings, State.setPhase]
    · simp [State.changeRing_rings, State.setPhase]
  have stop : (s.changeRing r .stopping).OneEach :=
    (s.quiet_changeRing r .stopping).oneEach o (.inr (by rw [State.changeRing_rings]; simp))
  unfold State.takeRingOff
  dsimp only
  split
  · exact o
  · exact o
  · rename_i h
    have p := o.still r (.inr h)
    refine o.ring (r := r) (β := 0) (ω := 0) ?_ (State.OnlyRing.of_set (State.changeRing_rings _ _ _)).others ?_ ?_ ?_ ?_
    · exact .cast (fun q => by simp [atRing_zero]) (fun q => by simp [atRing_zero]) (State.flow_changeRing _ r _)
    · simp [State.changeRing_rings]
    · simp [State.changeRing_rings]
    · simp [State.changeRing_rings, p]
    · simp [State.changeRing_rings, p]
  · split <;> rename_i h
    · exact halt (by rw [h]; rfl) (by rw [h]; simp)
    · exact halt (by rw [h]; rfl) (by rw [h]; simp)
    all_goals exact stop
  · split <;> rename_i h
    · exact halt (by rw [h]; rfl) (by rw [h]; simp)
    · exact halt (by rw [h]; rfl) (by rw [h]; simp)
    all_goals exact stop

theorem silenceFrame_oneEach {s : State} (o : s.OneEach) (r : RingId) : (s.silenceFrame r).OneEach := by
  unfold State.silenceFrame
  dsimp only
  have a : (if s.countsSilence r = true then s.modRing r fun u => { u with silenceCounter := u.silenceNext } else s).OneEach := by
    split
    · exact (s.quiet_modRing r (fun u => { u with silenceCounter := u.silenceNext }) rfl rfl).oneEach o (.inl (by simp))
    · exact o
  split
  · refine ((State.quiet_changeRing _ r .silent).trans (State.quiet_sendCause _ r r .silent)).oneEach a (.inr ?_)
    simp [State.changeRing_rings]
  · exact a

theorem ringFrame_oneEach {s : State} (o : s.OneEach) (r : RingId) : (s.ringFrame r).OneEach :=
  lookAgain_oneEach (silenceFrame_oneEach ((s.quiet_modRing r (fun u => { u with frames := u.frames.tail }) rfl rfl).oneEach o
    (.inl (by simp))) r) r

/-! ### The Memory Master -/

/-- Every request that the Memory Master holds is one of its holder. -/
def MemoryMaster.Named (m : MemoryMaster) : Prop := ∀ q tx, m.held.get q = some tx → tx.kind.requester = q

theorem MemoryMaster.grant_sent (m : MemoryMaster) : m.grant.sent = m.sent := by
  unfold MemoryMaster.grant
  split
  · rfl
  · split
    · rfl
    · split <;> rfl

theorem MemoryMaster.grant_named (m : MemoryMaster) (h : m.Named) : m.grant.Named := by
  have drop : ∀ q, ∀ p tx, (m.held.set q none).get p = some tx → tx.kind.requester = p := fun q p tx hp => by
    by_cases e : p = q
    · subst e; simp at hp
    · rw [Requests.get_set_ne _ _ _ _ e] at hp; exact h p tx hp
  unfold MemoryMaster.grant
  split
  · exact h
  · split
    · exact drop _
    · split
      · exact drop _
      · exact h

/-- A grant moves a request from the held ones to the bus, and loses none. -/
theorem MemoryMaster.grant_counts (m : MemoryMaster) (h : m.Named) (r : RingId) :
    (m.grant.held.rings.get r).isSome.toNat + (m.grant.serves r).toNat =
      (m.held.rings.get r).isSome.toNat + (m.serves r).toNat := by
  unfold MemoryMaster.grant
  split
  · rfl
  · rename_i hn
    have z : m.serves r = false := by unfold MemoryMaster.serves; rw [hn]
    split
    · rename_i p hp
      have hs := MemoryMaster.pick_holds m p hp
      obtain ⟨tx, htx⟩ := Option.isSome_iff_exists.mp hs
      have k := h (.ring p) tx htx
      rw [z]
      by_cases e : r = p
      · subst e; simp [Requests.set, MemoryMaster.serves, htx, k]
      · have e' : ¬p = r := fun x => e x.symm
        simp [Requests.set, MemoryMaster.serves, htx, k, PerRing.get_set_ne _ _ _ _ e, e']
    · split
      · rename_i tx htx
        have k := h .loader tx htx
        simp [Requests.set, MemoryMaster.serves, hn, k]
      · rfl

/-- The Memory Master changes, and the rings' transactions are counted as before. -/
theorem State.OneEach.memory {s : State} (o : s.OneEach) (m : MemoryMaster)
    (hb : ∀ r, (m.sent.rings.get r).isSome.toNat + (m.held.rings.get r).isSome.toNat + (m.serves r).toNat =
      (s.memory.sent.rings.get r).isSome.toNat + (s.memory.held.rings.get r).isSome.toNat + (s.memory.serves r).toNat)
    (hr : ∀ q tx, m.sent.get q = some tx ∨ m.held.get q = some tx → tx.kind.requester = q) :
    { s with memory := m }.OneEach where
  bus r := by have := o.bus r; have := hb r; simp only [State.transactionsOf] at *; omega
  work := o.work
  still := o.still
  device := o.device
  requests := hr

theorem execMemoryRequest_oneEach {s t : State} {q : Requester} (o : s.OneEach) (h : execMemoryRequest q s = .next t) :
    t.OneEach := by
  unfold execMemoryRequest at h
  split at h <;> cases h
  · exact o
  · rename_i tx htx
    have k := o.requests q tx (.inl htx)
    have nm : MemoryMaster.Named { s.memory with
        sent := s.memory.sent.set q none, held := s.memory.held.set q (some tx) } := fun p u hp => by
      by_cases e : p = q
      · subst e; simp at hp; rw [← hp]; exact k
      · simp only [Requests.get_set_ne _ _ _ _ e] at hp; exact o.requests p u (.inr hp)
    refine o.memory _ (fun r => ?_) (fun p u hp => ?_)
    · rw [MemoryMaster.grant_sent]
      have g := MemoryMaster.grant_counts _ nm r
      cases q with
      | loader => simp only [Requests.set] at g ⊢; simp only [MemoryMaster.serves] at *; omega
      | ring p =>
        by_cases e : r = p
        · subst e
          have b := o.bus r
          have a : s.memory.sent.rings.get r = some tx := htx
          unfold State.transactionsOf at b
          rw [a] at b
          have c : (s.rings.get r).phase.awaitsBus.toNat ≤ 1 := by cases (s.rings.get r).phase.awaitsBus <;> simp
          simp only [Requests.set, PerRing.get_set_self, Option.isSome_none, Bool.toNat_false, Option.isSome_some,
            Bool.toNat_true, MemoryMaster.serves] at g b ⊢
          rw [a]
          simp only [Option.isSome_some, Bool.toNat_true]
          omega
        · simp only [Requests.set, PerRing.get_set_ne _ _ _ _ e, MemoryMaster.serves] at g ⊢
          omega
    · rw [MemoryMaster.grant_sent] at hp
      rcases hp with hp | hp
      · by_cases e : p = q
        · subst e; simp at hp
        · simp only [Requests.get_set_ne _ _ _ _ e] at hp; exact o.requests p u (.inl hp)
      · exact MemoryMaster.grant_named _ nm p u hp

theorem execBusGrant_oneEach {s t : State} (o : s.OneEach) (h : execBusGrant s = .next t) : t.OneEach := by
  unfold execBusGrant at h
  split at h <;> cases h
  · exact o
  · rename_i tx htx
    exact o.memory _ (fun r => by simp [MemoryMaster.serves, htx]) o.requests

/-- The ring that gets the end of a transaction, if any. -/
theorem State.endTransaction_oneEach {s v : State} {tx : Transaction} (o : s.OneEach) (htx : s.memory.inFlight = some tx)
    (hm : v.memory = s.memory) (hd : v.control.device = s.control.device)
    (hp : ∀ r, (v.rings.get r).phase = (s.rings.get r).phase ∧ (v.rings.get r).state = (s.rings.get r).state)
    (hw : ∀ r, v.worksOf r = s.worksOf r)
    (hi : ∀ r, (v.rings.get r).input.countP (fun i => !i.isOutcome) =
      (s.rings.get r).input.countP (fun i => !i.isOutcome) + (decide (tx.kind.requester = .ring r)).toNat) :
    v.endTransaction.OneEach where
  bus r := by
    have b := o.bus r
    have nm : MemoryMaster.Named { s.memory with inFlight := none } := fun q u hq => o.requests q u (.inr hq)
    have g := MemoryMaster.grant_counts _ nm r
    have e := hi r
    simp only [State.transactionsOf, State.endTransaction, hm, MemoryMaster.grant_sent, (hp r).1] at b ⊢
    have z : s.memory.serves r = decide (tx.kind.requester = .ring r) := by unfold MemoryMaster.serves; rw [htx]
    have z' : MemoryMaster.serves { s.memory with inFlight := none } r = false := rfl
    rw [z'] at g
    rw [z] at b
    simp only [Bool.toNat_false] at g
    omega
  work r := by
    have := o.work r
    have w : v.endTransaction.worksOf r = v.worksOf r := by cases r <;> rfl
    rw [w, hw r, this]
    have : (v.endTransaction.rings.get r).phase = (s.rings.get r).phase := (hp r).1
    rw [this]
  still r hr := by
    have a : (v.endTransaction.rings.get r).phase = (s.rings.get r).phase := (hp r).1
    have b : (v.endTransaction.rings.get r).state = (s.rings.get r).state := (hp r).2
    rw [a]; rw [b] at hr; exact o.still r hr
  device hx r := by
    have a : (v.endTransaction.rings.get r).phase = (s.rings.get r).phase := (hp r).1
    have b : v.endTransaction.control.device = s.control.device := hd
    rw [a]; rw [b] at hx; exact o.device hx r
  requests q u hq := by
    have nm : MemoryMaster.Named { s.memory with inFlight := none } := fun q u hq => o.requests q u (.inr hq)
    simp only [State.endTransaction, hm, MemoryMaster.grant_sent] at hq
    rcases hq with hq | hq
    · exact o.requests q u (.inl hq)
    · exact MemoryMaster.grant_named _ nm q u hq

theorem sendRing_end {s : State} {p : RingId} {i : RingInput} (hi : i.isOutcome = false) :
    (∀ r, ((s.sendRing p i).rings.get r).phase = (s.rings.get r).phase ∧
      ((s.sendRing p i).rings.get r).state = (s.rings.get r).state) ∧
    (∀ r, (s.sendRing p i).worksOf r = s.worksOf r) ∧
    ∀ r, ((s.sendRing p i).rings.get r).input.countP (fun i => !i.isOutcome) =
      (s.rings.get r).input.countP (fun i => !i.isOutcome) + (decide (Requester.ring p = .ring r)).toNat := by
  refine ⟨fun r => ?_, fun r => ?_, fun r => ?_⟩
  · by_cases e : r = p
    · subst e; simp
    · simp [PerRing.get_set_ne _ _ _ _ e]
  · by_cases e : r = p
    · subst e; simp [State.worksOf, hi]
    · simp [State.worksOf, PerRing.get_set_ne _ _ _ _ e]
  · by_cases e : r = p
    · subst e; simp [hi]
    · have e' : ¬p = r := fun x => e x.symm
      simp [PerRing.get_set_ne _ _ _ _ e, e']

theorem returnCompletion_oneEach {s : State} {tx : Transaction} {k : TxKind} {ws : List Word} (o : s.OneEach)
    (htx : s.memory.inFlight = some tx) (hk : tx.kind = k) :
    (s.returnCompletion k ws).endTransaction.OneEach := by
  have ring : ∀ p i, RingInput.isOutcome i = false → tx.kind.requester = .ring p →
      (s.sendRing p i).endTransaction.OneEach := fun p i hi hq => by
    have a := sendRing_end (s := s) (p := p) hi
    exact State.endTransaction_oneEach o htx rfl rfl a.1 a.2.1 (by rw [hq]; exact a.2.2)
  have load : ∀ c : ControlUnit, c.device = s.control.device → tx.kind.requester = .loader →
      { s with control := c }.endTransaction.OneEach := fun c hc hq =>
    State.endTransaction_oneEach o htx rfl hc (fun r => ⟨rfl, rfl⟩) (fun r => by cases r <;> rfl) (fun r => by simp [hq])
  subst hk
  cases e : tx.kind <;> simp only [State.returnCompletion]
  · exact ring _ _ rfl (by rw [e]; rfl)
  · exact ring _ _ rfl (by rw [e]; rfl)
  · exact ring _ _ rfl (by rw [e]; rfl)
  · exact load _ rfl (by rw [e]; rfl)
  · exact load _ rfl (by rw [e]; rfl)

theorem execTransferAcknowledge_oneEach {s t : State} {w : Word} (o : s.OneEach)
    (h : execTransferAcknowledge w s = .next t) : t.OneEach := by
  unfold execTransferAcknowledge at h
  split at h
  · cases h; exact o
  · rename_i tx htx
    split at h <;> cases h
    · exact o
    · unfold State.answerWord
      split
      · exact o.memory _ (fun r => by simp only [MemoryMaster.serves, htx]; rfl) o.requests
      · exact returnCompletion_oneEach o htx rfl

theorem execResponseLimitExpiry_oneEach {s t : State} (o : s.OneEach) (h : execResponseLimitExpiry s = .next t) :
    t.OneEach := by
  unfold execResponseLimitExpiry at h
  split at h
  · cases h; exact o
  · rename_i tx htx
    split at h <;> cases h
    · exact o
    · unfold State.returnFault
      split
      · rename_i p hq
        have a := sendRing_end (s := s) (p := p) (i := .fault) rfl
        exact State.endTransaction_oneEach o htx rfl rfl a.1 a.2.1 (by rw [hq]; exact a.2.2)
      · rename_i hq
        exact State.endTransaction_oneEach o htx rfl rfl (fun r => ⟨rfl, rfl⟩) (fun r => by cases r <;> rfl)
          (fun r => by simp [hq])

/-! ### The Setup Loader, the Control Unit and the ports -/

/-- What changes nothing that `OneEach` speaks of. -/
theorem State.OneEach.same {s t : State} (o : s.OneEach) (hm : t.memory = s.memory) (hr : t.rings = s.rings)
    (hq : t.quote = s.quote) (hf : t.field.works = s.field.works) (hp : t.plane.works = s.plane.works)
    (hd : t.control.device = s.control.device ∨ (t.control.device ≠ .stopped ∧ t.control.device ≠ .loading) ∨
      ∀ r, (s.rings.get r).phase = .idle) : t.OneEach where
  bus r := by have := o.bus r; simpa only [State.transactionsOf, hm, hr] using this
  work r := by
    have := o.work r
    have e : t.worksOf r = s.worksOf r := by cases r <;> simp only [State.worksOf, hr, hq, hf, hp]
    rw [e, hr]; exact this
  still r h := by rw [hr] at *; exact o.still r h
  device h r := by
    rw [hr]
    rcases hd with hd | hd | hd
    · rw [hd] at h; exact o.device h r
    · exact absurd h (by simp [hd.1, hd.2])
    · exact hd r
  requests q tx h := by rw [hm] at h; exact o.requests q tx h

/-- The Setup Loader asks for a transaction. -/
theorem State.OneEach.loaderAsks {s : State} (o : s.OneEach) (tx : Transaction) (hk : tx.kind.requester = .loader) :
    (s.sendMemory .loader tx).OneEach := by
  refine o.memory _ (fun r => rfl) (fun q u hq => ?_)
  by_cases e : q = .loader
  · subst e
    simp only [Requests.get_set_self] at hq
    rcases hq with hq | hq
    · cases hq; exact hk
    · exact o.requests _ _ (.inr hq)
  · simp only [Requests.get_set_ne _ _ _ _ e] at hq; exact o.requests q u hq

theorem takeStart_oneEach {s : State} (o : s.OneEach) (hd : s.control.device = .stopped) : s.takeStart.OneEach := by
  unfold State.takeStart
  refine State.OneEach.loaderAsks ?_ _ ?_
  · exact o.same rfl rfl rfl rfl rfl (.inr (.inr (o.device (.inl hd))))
  · rfl

theorem sendCause_oneEach {s : State} (o : s.OneEach) (p : Port) (c : Cause) : (s.sendCause p c).OneEach :=
  (s.tok_sendCause p c).keeps (by simp) o

theorem endStart_oneEach {s : State} {d : DeviceState} {x : StartOutcome} (o : s.OneEach)
    (hd : (d ≠ .stopped ∧ d ≠ .loading) ∨ ∀ r, (s.rings.get r).phase = .idle) : (s.endStart d x).OneEach := by
  unfold State.endStart
  refine sendCause_oneEach ?_ _ _
  exact o.same rfl rfl rfl rfl rfl (.inr hd)

theorem MemoryMaster.dropLoader_sent (m : MemoryMaster) : m.dropLoader.sent = m.sent.set .loader none := by
  unfold MemoryMaster.dropLoader
  dsimp only
  split
  · rfl
  · split
    · rw [MemoryMaster.grant_sent]
    · rfl

theorem dropLoader_oneEach {s : State} (o : s.OneEach) : { s with memory := s.memory.dropLoader }.OneEach := by
  have drop : ∀ (x : Requests) (q : Requester) (u : Transaction), (x.set .loader none).get q = some u → x.get q = some u :=
    fun x q u hq => by cases q with
      | loader => simp at hq
      | ring r => exact hq
  unfold MemoryMaster.dropLoader
  dsimp only
  split
  · rename_i hn
    exact o.memory _ (fun r => by simp [Requests.set, MemoryMaster.serves, hn]) (fun q u hq => o.requests q u
      (hq.imp (drop _ q u) (drop _ q u)))
  · rename_i tx htx
    split
    · rename_i hl
      have nm : MemoryMaster.Named ⟨none, s.memory.held.set .loader none, s.memory.sent.set .loader none,
          s.memory.pointer⟩ := fun q u hq => o.requests q u (.inr (drop _ q u hq))
      refine o.memory _ (fun r => ?_) (fun q u hq => ?_)
      · rw [MemoryMaster.grant_sent]
        have g := MemoryMaster.grant_counts _ nm r
        simp only [Requests.set, MemoryMaster.serves, htx, hl] at g ⊢
        simp at g ⊢
        omega
      · rw [MemoryMaster.grant_sent] at hq
        rcases hq with hq | hq
        · exact o.requests q u (.inl (drop _ q u hq))
        · exact MemoryMaster.grant_named _ nm q u hq
    · exact o.memory _ (fun r => by simp [Requests.set, MemoryMaster.serves, htx]) (fun q u hq => o.requests q u
        (hq.imp (drop _ q u) (drop _ q u)))

theorem stopLoading_oneEach {s : State} (o : s.OneEach) (hd : s.control.device = .loading) : s.stopLoading.OneEach := by
  unfold State.stopLoading
  have a := dropLoader_oneEach o
  have b : { s with memory := s.memory.dropLoader, control := { s.control with ignored := false } }.OneEach :=
    a.same rfl rfl rfl rfl rfl (.inl rfl)
  exact sendCause_oneEach (endStart_oneEach b (.inr (o.device (.inr hd)))) _ _

theorem offRequest_oneEach {s : State} (o : s.OneEach) (r : RingId) : (s.offRequest r).OneEach := by
  unfold State.offRequest
  split
  · exact takeRingOff_oneEach o r
  · exact o

theorem State.tok_abandonSweep (s : State) : s.Tok s.abandonSweep 0 := by
  unfold State.abandonSweep
  dsimp only
  cases e : s.field.sweep.repaint <;> simp only []
  · exact .cast (fun r => by simp [e, RepaintWait.waits]) (State.tok_setRepaint _ _)
  · exact .cast (fun r => by simp [e, RepaintWait.waits, oneOf]; split <;> simp) ((s.tok_outcome .t _ _).trans (State.tok_setRepaint _ _))
  · exact .cast (fun r => by simp [e, RepaintWait.waits, oneOf]; split <;> simp) ((s.tok_outcome .t _ _).trans (State.tok_setRepaint _ _))

theorem stopped_idle {s : State} (o : s.OneEach) (h : s.ringsStopped = true) : ∀ r, (s.rings.get r).phase = .idle := by
  have st : ∀ r, (s.rings.get r).state.stopped = true := fun r => by
    simp only [State.ringsStopped, Bool.and_eq_true] at h
    cases r
    · exact h.1.1
    · exact h.1.2
    · exact h.2
  intro r
  refine o.still r ?_
  have := st r
  cases e : (s.rings.get r).state <;> simp_all [RingState.stopped]

theorem stopTest_oneEach {s : State} (o : s.OneEach) : s.stopTest.OneEach := by
  unfold State.stopTest
  split
  · rename_i h
    have id := stopped_idle o h.2.1
    refine sendCause_oneEach (sendCause_oneEach (sendCause_oneEach ?_ _ _) _ _) _ _
    exact o.same rfl rfl rfl rfl rfl (.inr (.inr id))
  · exact o

theorem stopRunning_oneEach {s : State} (o : s.OneEach) : s.stopRunning.OneEach := by
  unfold State.stopRunning
  dsimp only
  refine stopTest_oneEach (offRequest_oneEach (offRequest_oneEach (offRequest_oneEach ?_ _) _) _)
  refine (State.tok_fieldFinish _).keeps (by simp) ((State.tok_abandonSweep _).keeps (by simp) ?_)
  exact o.same rfl rfl rfl rfl rfl (.inr (.inl (by simp [State.clearHighlights])))

theorem deviceControlWrite_oneEach {s : State} (o : s.OneEach) (v : Half) : (s.deviceControlWrite v).OneEach := by
  have ig : s.ignoreCommand.OneEach := o.same rfl rfl rfl rfl rfl (.inl rfl)
  unfold State.deviceControlWrite
  split
  · exact o
  · rename_i h; exact takeStart_oneEach o h
  · rename_i h; exact stopLoading_oneEach o h
  · exact stopRunning_oneEach o
  · exact ig

/-- A BOUND of the commit: every unit of a ring but its queues and counts is replaced, and a ring in ON asks for its
status read. -/
theorem startRing_oneEach {s : State} (o : s.OneEach) (r : RingId) (hd : s.control.device = .running)
    (hp : (s.rings.get r).phase = .idle) : (s.startRing r).OneEach := by
  unfold State.startRing
  split
  · rename_i on
    have z := o.none_out (r := r) (by rw [hp]; rfl)
    refine o.ring (r := r) (β := 1) (ω := 0) ?_ (State.OnlyRing.of_set rfl).others ?_ ?_ ?_ ?_
    · exact .cast (fun q => by simp [oneOf_atRing]) (fun q => by simp [atRing_zero])
        (State.flow_enterReady _ r (State.sent_none z))
    · rw [hp]; simp [State.enterReady, FetchPhase.awaitsBus]
    · rw [hp]; simp [State.enterReady]
    · simp [State.enterReady, on]
    · simp [hd]
  · exact o

theorem commitRings_keeps (x : PerRing RingUnit) (ws : List Word) (r : RingId) :
    ((commitRings x ws).get r).phase = (x.get r).phase ∧ ((commitRings x ws).get r).input = (x.get r).input := by
  cases r <;> exact ⟨rfl, rfl⟩

theorem commitShares_oneEach {s : State} (o : s.OneEach) (hi : ∀ r, (s.rings.get r).phase = .idle) (ws : List Word) :
    (s.commitShares ws).OneEach where
  bus r := by
    have := o.bus r
    have k := commitRings_keeps s.rings ws r
    simpa only [State.transactionsOf, State.commitShares, k.1, k.2] using this
  work r := by
    have := o.work r
    have k := commitRings_keeps s.rings ws r
    cases r <;> simpa only [State.worksOf, State.commitShares, k.1, k.2, FieldUnit.works] using this
  still r _ := by
    have k := commitRings_keeps s.rings ws r
    simp only [State.commitShares, k.1]; exact hi r
  device _ r := by
    have k := commitRings_keeps s.rings ws r
    simp only [State.commitShares, k.1]; exact hi r
  requests := o.requests

theorem regeometry_oneEach {s : State} (o : s.OneEach) (hi : ∀ r, (s.rings.get r).phase = .idle) (g : Geometry) :
    (s.regeometry g).OneEach := by
  have w := o.work .t
  rw [hi .t] at w
  simp only [State.worksOf, decide_false, Bool.toNat_false, reduceCtorEq] at w
  refine o.same rfl rfl rfl rfl ?_ (.inl rfl)
  have a : s.plane.works = 0 := by omega
  have b : s.plane.inbox.countP PlaneRequest.isCommand = 0 := by unfold PlaneController.works at a; omega
  rw [a]
  simp [State.regeometry, PlaneController.regeometry, PlaneController.works, b]

theorem State.tok_commitTrigger (s : State) : s.Tok s.commitTrigger 0 :=
  .cast (fun r => by simp) (State.Tok.of_field (n := 0) rfl rfl rfl rfl rfl (by
    have h : (joinTrigger s.field.inbox).countP FieldRequest.isCommand = s.field.inbox.countP FieldRequest.isCommand := by
      rw [List.countP_eq_length_filter, List.countP_eq_length_filter, joinTrigger_filter _ rfl]
    simp [FieldUnit.works, h]))

theorem commit_oneEach {s : State} (o : s.OneEach) (hi : ∀ r, (s.rings.get r).phase = .idle) (ws : List Word) :
    (s.commit ws).OneEach := by
  have geo : ∀ u : State, u.OneEach → (∀ r, (u.rings.get r).phase = .idle) → 
      ((((((u.commitShares ws).endStart .running .done).sendCause .a .device).sendCause .b .device).commitTrigger).startRing
        .a |>.startRing .b |>.startRing .t).OneEach := by
    intro u ou hu
    have c := commitShares_oneEach ou hu ws
    have cp : ∀ r, ((u.commitShares ws).rings.get r).phase = .idle := fun r => by
      simp only [State.commitShares, (commitRings_keeps u.rings ws r).1]; exact hu r
    have d : ((((u.commitShares ws).endStart .running .done).sendCause .a .device).sendCause .b .device
        |>.commitTrigger).OneEach := by
      refine (State.tok_commitTrigger _).keeps (by simp) ?_
      exact sendCause_oneEach (sendCause_oneEach (endStart_oneEach c (.inl (by simp))) _ _) _ _
    have one : ∀ (v : State) (q r : RingId), q ≠ r → ((v.startRing q).rings.get r) = v.rings.get r := fun v q r e => by
      unfold State.startRing
      split
      · simp [State.enterReady, PerRing.get_set_ne _ _ _ _ (Ne.symm e)]
      · rfl
    have run : ∀ (v : State) (q : RingId), (v.startRing q).control = v.control := fun v q => by
      unfold State.startRing; split <;> rfl
    refine startRing_oneEach (startRing_oneEach (startRing_oneEach d .a ?_ ?_) .b ?_ ?_) .t ?_ ?_
    · rfl
    · exact cp .a
    · rw [run]; rfl
    · rw [one _ _ _ (by simp)]; exact cp .b
    · rw [run, run]; rfl
    · rw [one _ _ _ (by simp), one _ _ _ (by simp)]; exact cp .t
  unfold State.commit
  dsimp only
  split
  · exact geo _ (regeometry_oneEach o hi _) hi
  · exact geo _ o hi

theorem readGlyph_oneEach {s : State} (o : s.OneEach) (g : Nat) : (s.readGlyph g).OneEach := by
  unfold State.readGlyph
  refine State.OneEach.loaderAsks ?_ _ ?_
  · exact o.same rfl rfl rfl rfl rfl (.inl rfl)
  · rfl

theorem execSetupReadEnd_oneEach {s t : State} (o : s.OneEach)
    (hl : s.control.stage ≠ .idle → s.control.device = .loading) (h : execSetupReadEnd s = .next t) : t.OneEach := by
  unfold execSetupReadEnd at h
  split at h <;> cases h
  · rename_i ws _ hs
    have d := hl (by rw [hs]; simp)
    have id := o.device (.inr d)
    have a : { s with control := { s.control with loaderInput := none } }.OneEach := o.same rfl rfl rfl rfl rfl (.inl rfl)
    unfold State.takeSetup
    dsimp only
    split
    · exact endStart_oneEach a (.inr id)
    · split
      · refine readGlyph_oneEach ?_ 0
        exact o.same rfl rfl rfl rfl rfl (.inl rfl)
      · exact commit_oneEach a id ws
  · exact o

theorem execGlyphWrite_oneEach {s t : State} (o : s.OneEach)
    (hl : s.video.glyphWrite ≠ none → s.control.device = .loading) (h : execGlyphWrite s = .next t) : t.OneEach := by
  unfold execGlyphWrite at h
  split at h
  · cases h; exact o
  · rename_i w hw
    have id := o.device (.inr (hl (by rw [hw]; simp)))
    have a : (s.storeGlyph w).OneEach := o.same rfl rfl rfl rfl rfl (.inl rfl)
    dsimp only at h
    split at h <;> cases h
    · exact readGlyph_oneEach a _
    · exact commit_oneEach a id _

theorem execFetchFault_oneEach {s t : State} (o : s.OneEach)
    (hl : s.control.stage ≠ .idle → s.control.device = .loading) (h : execFetchFault s = .next t) : t.OneEach := by
  unfold execFetchFault at h
  split at h <;> cases h
  · rename_i hs; exact endStart_oneEach o (.inr (o.device (.inr (hl (by rw [hs]; simp)))))
  · exact o

theorem execFontFault_oneEach {s t : State} (o : s.OneEach)
    (hl : s.control.stage ≠ .idle → s.control.device = .loading) (h : execFontFault s = .next t) : t.OneEach := by
  unfold execFontFault at h
  split at h <;> cases h
  · rename_i hs; exact endStart_oneEach o (.inr (o.device (.inr (hl (by rw [hs]; simp)))))
  · exact o

theorem execGlyphReadEnd_oneEach {s t : State} (o : s.OneEach) (h : execGlyphReadEnd s = .next t) : t.OneEach := by
  unfold execGlyphReadEnd at h
  split at h <;> cases h
  · exact o.same rfl rfl rfl rfl rfl (.inl rfl)
  · exact o

theorem reset_oneEach : State.reset.OneEach where
  bus r := by cases r <;> rfl
  work r := by cases r <;> rfl
  still r _ := by cases r <;> rfl
  device _ r := by cases r <;> rfl
  requests q tx h := by rcases q with (_|_|_)|_ <;> rcases h with h | h <;> cases h

theorem portControlWrite_oneEach {s : State} (o : s.OneEach) (r : RingId) (v : Half) : (s.portControlWrite r v).OneEach := by
  have sw : ∀ (u : State) (a b : Bool), u.OneEach → (u.ringSwitch r a b).OneEach := fun u a b ou => by
    unfold State.ringSwitch
    split
    · exact takeRingOn_oneEach ou r
    · exact takeRingOff_oneEach ou r
    · exact ou
    · exact ou
  have fr : s.useFree.OneEach := o.same rfl rfl rfl rfl rfl (.inl rfl)
  unfold State.portControlWrite
  dsimp only
  split
  · split
    · exact lookAgain_oneEach o r
    · split
      · exact sw _ _ _ (lookAgain_oneEach fr r)
      · exact lookAgain_oneEach (sw _ _ _ fr) r
  · exact sw _ _ _ o

theorem inOff_oneEach {s : State} (o : s.OneEach) (r : RingId) (f : RingUnit → RingUnit)
    (h : ∀ u, (f u).input = u.input ∧ (f u).phase = u.phase ∧ (f u).state = u.state) : (s.inOff r f).OneEach := by
  unfold State.inOff
  split
  · exact (s.quiet_modRing r f (h _).1 (h _).2.1).oneEach o (.inl (by simp [(h _).2.2]))
  · exact o

theorem raiseFrame_oneEach {s : State} (o : s.OneEach) : s.raiseFrame.OneEach where
  bus r := by have := o.bus r; cases r <;> exact this
  work r := by have := o.work r; cases r <;> exact this
  still r h := by
    cases r
    · exact o.still .a h
    · exact o.still .b h
    · exact o.still .t h
  device h r := by
    cases r
    · exact o.device h .a
    · exact o.device h .b
    · exact o.device h .t
  requests := o.requests

/-- A ring with a command at the front of an owner's requests has no other descriptor there. -/
theorem State.OneEach.atMostOne {s : State} (o : s.OneEach) : s.worksOf .t ≤ 1 := by
  rw [o.work .t]; cases decide ((s.rings.get .t).phase = .owner) <;> simp

theorem State.OneEach.fieldCommand {s : State} (o : s.OneEach) (q : FieldRequest) (h : s.fieldFront = some q)
    (hq : q.isCommand = true) : s.field.command = none ∧ s.field.sweep.repaint = .none := by
  have a := o.atMostOne
  obtain ⟨_, rest, hi⟩ := State.fieldFront_some h
  simp only [State.worksOf, FieldUnit.works, hi, List.countP_cons, hq, if_true] at a
  constructor
  · cases e : s.field.command with
    | none => rfl
    | some d => rw [e] at a; simp at a; omega
  · cases e : s.field.sweep.repaint with
    | none => rfl
    | thisPass b => rw [e] at a; simp [RepaintWait.waits] at a; omega
    | nextPass => rw [e] at a; simp [RepaintWait.waits] at a; omega

theorem State.OneEach.planeCommand {s : State} (o : s.OneEach) (q : PlaneRequest) (rest : List PlaneRequest)
    (hi : s.plane.inbox = q :: rest) (hq : q.isCommand = true) :
    (s.plane.stack.any fun o => o.state.underWay) = false := by
  have a := o.atMostOne
  simp only [State.worksOf, PlaneController.works, hi, List.countP_cons, hq, if_true] at a
  cases e : s.plane.stack.any fun o => o.state.underWay with
  | false => rfl
  | true => rw [e] at a; simp at a; omega

/-- In LOADING no text, cursor, overlay or field command is held, and no overlay operation is under way. -/
theorem State.OneEach.quietInLoading {s : State} (o : s.OneEach) (h : s.control.device = .loading) :
    (∀ q ∈ s.plane.inbox, q.isCommand = false) ∧ (∀ q ∈ s.field.inbox, q.isCommand = false) ∧
      ∀ v ∈ s.plane.stack, v.state = .opened := by
  have w := o.work .t
  rw [o.device (.inr h) .t] at w
  simp [State.worksOf, FieldUnit.works, PlaneController.works] at w
  refine ⟨fun q hq => w.2.2.1 q hq, fun q hq => ?_, fun v hv => ?_⟩
  · have := w.2.1.1.1.1
    exact this q hq
  · have := w.2.2.2 v hv
    cases e : v.state <;> simp [e, OverlayState.underWay] at this ⊢

/-- Every command keeps `OneEach`. What it takes of the other laws: the Setup Loader works only in LOADING, the records
below the top of the overlay stack are OPEN, and a BIND_FIELD in progress has passed check 1. -/
theorem exec_oneEach {c : Instr} {s t : State} (o : s.OneEach)
    (hl : s.control.stage ≠ .idle ∨ s.video.glyphWrite ≠ none → s.control.device = .loading)
    (ho : ∀ v ∈ s.plane.stack.dropLast, v.state = .opened)
    (hb : ∀ f i d, .appendDone f i ∈ s.field.inbox → s.field.command = some d → d.bindForm.isSome = true)
    (h : exec c s = .next t) : t.OneEach := by
  have k : s.Tok t 0 → t.OneEach := fun x => x.keeps (by simp) o
  have same := fun (u : State) hm hr hq hf hp hd => State.OneEach.same (t := u) o hm hr hq hf hp hd
  cases c <;> simp only [exec] at h
  case hardwareReset =>
    cases h
    exact reset_oneEach.same rfl rfl rfl rfl rfl (.inl rfl)
  case plainRender => exact k (tok_execPlainRender h)
  case tickRender => exact k (tok_execTickRender h)
  case resetRender => exact k (tok_execResetRender h)
  case expiry => exact k (tok_execExpiry h)
  case sweepTrigger => exact k (tok_execSweepTrigger h)
  case sweepStep => exact k (tok_execSweepStep h)
  case spanQueueRoom => exact k (tok_execSpanQueueRoom h)
  case moveField => exact k (tok_execMoveField h)
  case styleField => exact k (tok_execStyleField h)
  case setPen => exact k (tok_execSetPen h)
  case bindField => exact k (tok_execBindField (fun q a b => (o.fieldCommand q a b).1) h)
  case unbindField => exact k (tok_execUnbindField (fun q a b => (o.fieldCommand q a b).1) h)
  case repaint => exact k (tok_execRepaint (fun q a b => (o.fieldCommand q a b).2) h)
  case lookupResult => exact k (tok_execLookupResult h)
  case appendCompletion => exact k (tok_execAppendCompletion hb h)
  case removalCompletion => exact k (tok_execRemovalCompletion h)
  case defineInstrument => exact k (tok_execDefineInstrument h)
  case removeInstrument => exact k (tok_execRemoveInstrument h)
  case setSources => exact k (tok_execSetSources h)
  case update => exact k (tok_execUpdate h)
  case snapshot => exact k (tok_execSnapshot h)
  case condition => exact k (tok_execCondition h)
  case bindingLookup => exact k (tok_execBindingLookup h)
  case append => exact k (tok_execAppend h)
  case removal => exact k (tok_execRemoval h)
  case renderQueueRoom => exact k (tok_execRenderQueueRoom h)
  case armRequest => exact k (tok_execArmRequest h)
  case removeRequest => exact k (tok_execRemoveRequest h)
  case highlightExpiry => exact k (tok_execHighlightExpiry h)
  case spanWrite => exact k (tok_execSpanWrite h)
  case writeCells => exact k (tok_execWriteCells h)
  case fillCells => exact k (tok_execFillCells h)
  case setCursor => exact k (tok_execSetCursor h)
  case openOverlay => exact k (tok_execOpenOverlay o.planeCommand h)
  case closeOverlay => exact k (tok_execCloseOverlay o.planeCommand h)
  case openingRow => exact k (tok_execOpeningRow ho h)
  case closingRow => exact k (tok_execClosingRow ho h)
  case statusReadEnd => exact execStatusReadEnd_oneEach o h
  case bodyReadEnd => exact execBodyReadEnd_oneEach o h
  case writeBackEnd => exact execWriteBackEnd_oneEach o h
  case outcomeTaken => exact execOutcomeTaken_oneEach o h
  case ringFetchFault => exact execRingFetchFault_oneEach o h
  case writebackFault => exact execWritebackFault_oneEach o h
  case memoryRequest => exact execMemoryRequest_oneEach o h
  case busGrant => exact execBusGrant_oneEach o h
  case transferAcknowledge => exact execTransferAcknowledge_oneEach o h
  case responseLimitExpiry => exact execResponseLimitExpiry_oneEach o h
  case setupReadEnd => exact execSetupReadEnd_oneEach o (fun x => hl (.inl x)) h
  case fetchFault => exact execFetchFault_oneEach o (fun x => hl (.inl x)) h
  case fontFault => exact execFontFault_oneEach o (fun x => hl (.inl x)) h
  case glyphReadEnd => exact execGlyphReadEnd_oneEach o h
  case glyphWrite => exact execGlyphWrite_oneEach o (fun x => hl (.inr x)) h
  case selectorWrite => cases h; exact same _ rfl rfl rfl rfl rfl (.inl rfl)
  case writeIgnored => cases h; exact o
  case ringOn => unfold execRingOn at h; split at h <;> cases h; exacts [portControlWrite_oneEach o _ _, o]
  case ringOff => unfold execRingOff at h; split at h <;> cases h; exacts [portControlWrite_oneEach o _ _, o]
  case kick => unfold execKick at h; split at h <;> cases h; exacts [portControlWrite_oneEach o _ _, o]
  case attnPendingClear =>
    unfold execAttnPendingClear at h; split at h <;> cases h
    exacts [same _ rfl rfl rfl rfl rfl (.inl rfl), o]
  case attnEnableWrite =>
    unfold execAttnEnableWrite at h; split at h <;> cases h
    exacts [same _ rfl rfl rfl rfl rfl (.inl rfl), o]
  case attentionCauseSet =>
    unfold execAttentionCauseSet at h; split at h <;> cases h
    exacts [o, same _ rfl rfl rfl rfl rfl (.inl rfl)]
  case ringBaseWrite =>
    unfold execRingBaseWrite at h; split at h <;> cases h
    exacts [inOff_oneEach o _ _ (fun u => ⟨rfl, rfl, rfl⟩), o]
  case ringLengthWrite =>
    unfold execRingLengthWrite at h; split at h <;> cases h
    · refine inOff_oneEach o _ _ (fun u => ?_)
      unfold RingUnit.setLength; split <;> exact ⟨rfl, rfl, rfl⟩
    · exact o
  case counterClear p v =>
    unfold execCounterClear at h; split at h <;> cases h
    · refine (s.quiet_modRing p _ ?_ ?_).oneEach o (.inl ?_)
      · exact (RingUnit.setCounter_keeps _ _ _).1
      · exact (RingUnit.setCounter_keeps _ _ _).2.2
      · simp [(RingUnit.setCounter_keeps _ _ _).2.1]
    · exact o
  case start => unfold execStart at h; split at h <;> cases h; exacts [deviceControlWrite_oneEach o _, o]
  case stop => unfold execStop at h; split at h <;> cases h; exacts [deviceControlWrite_oneEach o _, o]
  case ignoredCommand => unfold execIgnoredCommand at h; split at h <;> cases h; exacts [deviceControlWrite_oneEach o _, o]
  case setupAddressWrite =>
    unfold execSetupAddressWrite at h
    split at h
    · split at h <;> cases h
      exacts [same _ rfl rfl rfl rfl rfl (.inl rfl), o]
    · cases h; exact o
  case raise =>
    unfold execRaise at h; split at h <;> cases h
    · unfold State.raiseWrite
      dsimp only
      split <;> split <;> first
        | exact sendCause_oneEach (sendCause_oneEach o _ _) _ _
        | exact sendCause_oneEach o _ _
        | exact o
    · exact o
  case probeSelect =>
    unfold execProbeSelect at h; split at h <;> cases h
    exacts [same _ rfl rfl rfl rfl rfl (.inl rfl), o]
  case ringStoppedReport =>
    unfold execRingStoppedReport at h; split at h <;> cases h
    · exact o
    · exact stopTest_oneEach (same _ rfl rfl rfl rfl rfl (.inl rfl))
  case overlayEndReport =>
    unfold execOverlayEndReport at h; split at h <;> cases h
    · exact o
    · exact stopTest_oneEach (same _ rfl rfl rfl rfl rfl (.inl rfl))
  case ringFrameEvent =>
    unfold execRingFrameEvent at h; split at h <;> cases h
    · exact o
    · exact ringFrame_oneEach o _
  case silent =>
    unfold execSilent at h; split at h
    · cases h; exact o
    · split at h <;> cases h
      exacts [ringFrame_oneEach o _, o]
  case cursorChange =>
    unfold execCursorChange at h; split at h
    · cases h; exact o
    · split at h <;> cases h
      exacts [o, same _ rfl rfl rfl rfl rfl (.inl rfl)]
  case frameScanStart =>
    unfold execFrameScanStart at h; split at h
    · cases h; exact o
    · split at h <;> cases h
      exacts [same _ rfl rfl rfl rfl rfl (.inl rfl), o]
  case frameEvent => unfold execFrameEvent at h; split at h <;> cases h; exacts [raiseFrame_oneEach o, o]
  case blinkPhaseChange => unfold execBlinkPhaseChange at h; split at h <;> cases h; exacts [raiseFrame_oneEach o, o]

end Sys2Proof.Machine
end

