-- ==== Sys2Proof/Laws/Lawful.lean ====
section
/-! SUPPORT. The laws of `State.Lawful` that speak of the tables and queues: what each of them depends on, and how the
shared operations keep them. -/

namespace Sys2Proof.Machine

/-! ### Reading what was written -/

theorem State.record_setRecord (s : State) (f g : Nat) (v : FieldRec) (h : Tab.WF fieldSpec s.field.records) :
    (s.setRecord f v).record g = if g = f ∧ f < 512 then v else s.record g := by
  unfold State.record State.setRecord
  dsimp only
  rw [Tab.get_set _ _ _ _ _ h]
  by_cases e : g = f <;> by_cases l : f < 512 <;> simp [e, l, fieldSpec]

theorem State.slot_setSlot (s : State) (i j : Nat) (v : Slot) (h : Tab.WF slotSpec s.quote.slots) :
    (s.setSlot i v).slot j = if j = i ∧ i < 256 then v else s.slot j := by
  unfold State.slot State.setSlot
  dsimp only
  rw [Tab.get_set _ _ _ _ _ h]
  by_cases e : j = i <;> by_cases l : i < 256 <;> simp [e, l, slotSpec]

/-- A number that the field table does not have reads as a cleared record. -/
theorem State.record_high (s : State) (f : Nat) (h : 512 ≤ f) : s.record f = FieldRec.cleared := by
  unfold State.record Tab.get
  rw [if_neg (by simp only [fieldSpec]; omega)]; rfl

/-! ### What the laws depend on -/

/-- The highlight laws but for the count of requests, which holds between events. -/
structure State.HighlightCore (s : State) : Prop where
  fields : (s.highlight.queue.map HighlightEntry.field).Nodup
  order : s.highlight.queue.Pairwise fun e g =>
    e.expired = true ∨ (g.expired = false ∧ s.highlight.remaining e ≤ s.highlight.remaining g)
  waiting : ∀ e ∈ s.highlight.queue, e.expired = false → 1 ≤ s.highlight.remaining e ∧ s.highlight.remaining e ≤ 255
  holds : ∀ k : Fin 4, s.highlight.holds.get k ≤ 255
  frames : s.highlight.frames =
    (List.range s.highlight.frames.length).map fun k => s.highlight.frame + BitVec.ofNat 16 (k + 1)
  last : s.video.frameNumber = s.highlight.frame + BitVec.ofNat 16 s.highlight.frames.length
  entries : ∀ e ∈ s.highlight.queue, .remove e.field ∉ s.highlight.requests →
    (s.record e.field).state = .bound ∧ (s.record e.field).style.rule = .tick ∧ (s.record e.field).tick ≠ .steady ∧
      s.highlight.holds.get (s.record e.field).style.hold ≠ 0
  arms : ∀ f k, .arm f k ∈ s.highlight.requests →
    (s.record f).state = .bound ∧ (s.record f).style.rule = .tick ∧ (s.record f).tick ≠ .steady ∧
      (s.record f).style.hold = k
  freed : ∀ f, s.freeing f = true → .remove f ∈ s.highlight.requests ∨
    (s.highlight.requests = [] ∧ f ∉ s.highlight.queue.map HighlightEntry.field)

theorem State.HighlightOk.core {s : State} (h : s.HighlightOk) : s.HighlightCore :=
  ⟨h.fields, h.order, h.waiting, h.holds, h.frames, h.last, h.entries, h.arms, h.freed⟩

theorem State.HighlightCore.ok {s : State} (h : s.HighlightCore)
    (one : s.highlight.requests.length ≤ s.field.event.isSome.toNat) : s.HighlightOk :=
  ⟨h.fields, h.order, h.waiting, h.holds, h.frames, h.last, h.entries, h.arms, one, h.freed⟩

/-- The tables are in their canonical form, as the invariant says. -/
structure State.TabsWF (s : State) : Prop where
  slots : Tab.WF slotSpec s.quote.slots
  heads : Tab.WF headSpec s.quote.heads
  records : Tab.WF fieldSpec s.field.records
  occupancy : Tab.WF occSpec s.field.occupancy

/-- All the laws but `OneEach`, as they hold within an event. -/
structure State.Laws (s : State) : Prop where
  tabs : s.TabsWF
  chains : s.quote.ChainsOk
  bindings : s.BindingsOk
  spans : s.SpansOk
  highlights : s.HighlightCore
  overlays : ∀ o ∈ s.plane.stack.dropLast, o.state = .opened

theorem State.binding_congr {s t : State} (hr : ∀ f, (t.record f).state = (s.record f).state)
    (hc : t.field.command = s.field.command) (d : Descriptor) : t.binding d ↔ s.binding d := by
  unfold State.binding; rw [hr, hc]

theorem State.spanFits_congr {s t : State} (hg : t.plane.geometry = s.plane.geometry) (row col width : Nat) :
    t.spanFits row col width = s.spanFits row col width := by
  unfold State.spanFits State.rows State.columns; rw [hg]

theorem State.spanCells_congr {s t : State} (hg : t.plane.geometry = s.plane.geometry) (row col width : Nat) :
    t.spanCells row col width = s.spanCells row col width := by
  unfold State.spanCells State.cellIndex State.columns; rw [hg]

theorem State.spanTaken_congr {s t : State} (hg : t.plane.geometry = s.plane.geometry)
    (ho : t.field.occupancy = s.field.occupancy) (row col width : Nat) (p : Nat → Bool) :
    t.spanTaken row col width p = s.spanTaken row col width p := by
  unfold State.spanTaken State.occupant State.cellIndex State.columns; rw [hg, ho]

theorem State.spanClear_congr {s t : State} (hg : t.plane.geometry = s.plane.geometry)
    (ho : t.field.occupancy = s.field.occupancy) (d : Descriptor) : t.spanClear d ↔ s.spanClear d := by
  unfold State.spanClear; rw [State.spanFits_congr hg, State.spanTaken_congr hg ho]

theorem mem_of_filter_eq {α : Type} {p : α → Bool} {l m : List α} (h : l.filter p = m.filter p) {x : α} (hx : p x = true) :
    x ∈ l ↔ x ∈ m := by
  have a : x ∈ l.filter p ↔ x ∈ m.filter p := by rw [h]
  simpa [List.mem_filter, hx] using a

theorem countP_of_filter_eq {α : Type} {p : α → Bool} {l m : List α} (h : l.filter p = m.filter p) :
    l.countP p = m.countP p := by rw [List.countP_eq_length_filter, List.countP_eq_length_filter, h]

/-- The binding laws depend on the lists and on who is OCCUPIED, on the state and the slot of each record, on the
command in progress, the event, the binding messages, the geometry and the occupancy map. -/
theorem State.BindingsOk.congr {s t : State} (b : s.BindingsOk)
    (hl : ∀ i, (t.slot i).bindings = (s.slot i).bindings)
    (hocc : ∀ i, s.hasRoom i → s.field.command ≠ none → (t.slot i).occupied = true)
    (hfree : ∀ i, (t.slot i).occupied = false → t.slot i = Slot.cleared)
    (hr : ∀ f, (t.record f).state = (s.record f).state ∧ (t.record f).slot = (s.record f).slot)
    (hc : t.field.command = s.field.command) (hf : ∀ f, t.freeing f = s.freeing f)
    (hq : t.quote.inbox.filter QuoteRequest.isBinding = s.quote.inbox.filter QuoteRequest.isBinding)
    (ha : t.field.inbox.filter FieldRequest.answersBinding = s.field.inbox.filter FieldRequest.answersBinding)
    (hg : t.plane.geometry = s.plane.geometry) (ho : t.field.occupancy = s.field.occupancy) : t.BindingsOk := by
  have hb := State.binding_congr (s := s) (t := t) (fun f => (hr f).1) hc
  have hs := State.spanClear_congr hg ho
  have room : ∀ i d, s.binding d → s.hasRoom i → t.hasRoom i := fun i d x h =>
    ⟨hocc i h (by rw [x.1]; simp), by rw [hl]; exact h.2⟩
  have qm := fun x hx => mem_of_filter_eq (x := x) hq hx
  have am := fun x hx => mem_of_filter_eq (x := x) ha hx
  have tr : ∀ f, t.inTransit f ↔ s.inTransit f := fun f => by
    unfold State.inTransit
    rw [hf, am (.removalDone f) rfl]
    simp only [fun i => am (.appendDone f i) rfl]
  refine ⟨hfree, fun i => ?_, fun i j f => ?_, fun f => ?_, fun f i => ?_, ?_, fun key h => ?_, fun l h => ?_, fun f i h => ?_,
    fun f i h => ?_, fun f h => ?_, fun f h => ?_⟩
  · rw [hl]; exact b.lists i
  · rw [hl, hl]; exact b.apart i j f
  · rw [(hr f).1, (hr f).2, hl, tr]; exact b.bound f
  · rw [(hr f).1, (hr f).2, hl, tr]; exact b.listed f i
  · rw [countP_of_filter_eq hq, countP_of_filter_eq ha, hc]; exact b.one
  · rw [qm _ rfl] at h
    obtain ⟨d, x⟩ := b.lookup key h
    exact ⟨d, (hb d).2 x⟩
  · rw [am _ rfl] at h
    obtain ⟨d, x, y⟩ := b.found l h
    exact ⟨d, (hb d).2 x, fun i e => room i d x (y i e)⟩
  · rw [qm _ rfl] at h
    obtain ⟨d, x, y, z, w⟩ := b.append f i h
    exact ⟨d, (hb d).2 x, y, (hs d).2 z, room i d x w⟩
  · rw [am _ rfl] at h
    obtain ⟨d, x, y, z, w⟩ := b.appended f i h
    exact ⟨d, (hb d).2 x, y, (hs d).2 z, by rw [hl]; exact w⟩
  · rw [qm _ rfl] at h; rw [(hr f).1]; exact b.removal f h
  · rw [am _ rfl, hf] at h
    have := b.removed f h
    rw [(hr f).1]; exact ⟨this.1, fun i => by rw [hl]; exact this.2 i⟩

theorem State.moving_congr {s t : State} (h : t.moveWaiting = s.moveWaiting) (f : Nat) : t.moving f = s.moving f := by
  unfold State.moving; rw [h]

theorem State.moveWaiting_congr {s t : State} (h : t.field.event = s.field.event) : t.moveWaiting = s.moveWaiting := by
  unfold State.moveWaiting; rw [h]

theorem State.moveWaiting_none {s : State} (he : s.field.event = none) : s.moveWaiting = none := by
  unfold State.moveWaiting; rw [he]

theorem State.SpansOk.congr {s t : State} (p : s.SpansOk)
    (hr : ∀ f, (t.record f).state = (s.record f).state ∧ (t.record f).row = (s.record f).row ∧
      (t.record f).col = (s.record f).col ∧ (t.record f).width = (s.record f).width)
    (hf : ∀ f, t.freeing f = s.freeing f) (hg : t.plane.geometry = s.plane.geometry)
    (ho : t.field.occupancy = s.field.occupancy) (hm : t.moveWaiting = s.moveWaiting := by rfl) : t.SpansOk where
  widths f h := by
    obtain ⟨a, b, c, d⟩ := hr f
    rw [d]; exact p.widths f (a ▸ h)
  fits f h := by
    obtain ⟨a, b, c, d⟩ := hr f
    rw [b, c, d, State.spanFits_congr hg]; exact p.fits f (a ▸ h)
  map n hn f := by
    obtain ⟨a, b, c, d⟩ := hr f
    rw [ho, a, b, c, d, hf, State.moving_congr hm, State.spanCells_congr hg]; exact p.map n hn f
  moved m h := by
    have o := p.moved m (hm ▸ h)
    exact ⟨o.field, by rw [(hr _).1]; exact o.bound, o.width, by rw [State.spanFits_congr hg]; exact o.fits,
      by rw [State.spanTaken_congr hg ho]; exact o.clear⟩

theorem State.HighlightCore.congr {s t : State} (h : s.HighlightCore) (hh : t.highlight = s.highlight)
    (hn : t.video.frameNumber = s.video.frameNumber)
    (hr : ∀ f, (s.record f).state = .bound → (t.record f).state = .bound ∧ (t.record f).style = (s.record f).style ∧
      (t.record f).tick = (s.record f).tick)
    (hf : ∀ f, t.freeing f = true → s.freeing f = true) : t.HighlightCore := by
  refine ⟨?_, ?_, ?_, ?_, ?_, ?_, fun e he => ?_, fun f k hk => ?_, fun f x => ?_⟩
  · rw [hh]; exact h.fields
  · rw [hh]; exact h.order
  · rw [hh]; exact h.waiting
  · rw [hh]; exact h.holds
  · rw [hh]; exact h.frames
  · rw [hh, hn]; exact h.last
  · rw [hh] at he ⊢
    intro hq
    have x := h.entries e he hq
    obtain ⟨a, b, c⟩ := hr e.field x.1
    rw [b, c]; exact ⟨a, x.2⟩
  · rw [hh] at hk
    have x := h.arms f k hk
    obtain ⟨a, b, c⟩ := hr f x.1
    rw [b, c]; exact ⟨a, x.2⟩
  · rw [hh]; exact h.freed f (hf f x)

/-- What leaves every table and queue that the laws speak of as it is. -/
structure State.Still (s t : State) : Prop where
  stack : t.plane.stack = s.plane.stack
  geometry : t.plane.geometry = s.plane.geometry
  slots : t.quote.slots = s.quote.slots
  heads : t.quote.heads = s.quote.heads
  records : t.field.records = s.field.records
  occupancy : t.field.occupancy = s.field.occupancy
  command : t.field.command = s.field.command
  event : t.field.event = s.field.event
  highlight : t.highlight = s.highlight
  frameNumber : t.video.frameNumber = s.video.frameNumber
  asked : t.quote.inbox.filter QuoteRequest.isBinding = s.quote.inbox.filter QuoteRequest.isBinding
  answered : t.field.inbox.filter FieldRequest.answersBinding = s.field.inbox.filter FieldRequest.answersBinding

theorem State.Still.refl (s : State) : s.Still s := ⟨rfl, rfl, rfl, rfl, rfl, rfl, rfl, rfl, rfl, rfl, rfl, rfl⟩

theorem State.Still.trans {s t u : State} (h : s.Still t) (g : t.Still u) : s.Still u :=
  ⟨g.stack.trans h.stack, g.geometry.trans h.geometry, g.slots.trans h.slots, g.heads.trans h.heads,
    g.records.trans h.records, g.occupancy.trans h.occupancy, g.command.trans h.command,
    g.event.trans h.event, g.highlight.trans h.highlight, g.frameNumber.trans h.frameNumber,
    g.asked.trans h.asked, g.answered.trans h.answered⟩

theorem State.freeing_congr {s t : State} (h : t.field.event = s.field.event) (f : Nat) : t.freeing f = s.freeing f := by
  unfold State.freeing; rw [h]

theorem State.Still.freeing {s t : State} (h : s.Still t) (f : Nat) : t.freeing f = s.freeing f :=
  State.freeing_congr h.event f

theorem QuoteEngine.chain_congr {p q : QuoteEngine} (hs : q.slots = p.slots) (hh : q.heads = p.heads) (b : Nat) :
    q.chain b = p.chain b := by unfold QuoteEngine.chain; rw [hs, hh]

theorem QuoteEngine.ChainsOk.congr {p q : QuoteEngine} (h : p.ChainsOk) (hs : q.slots = p.slots)
    (hh : q.heads = p.heads) : q.ChainsOk := by
  refine ⟨fun b => ?_, fun b i => ?_, fun b i => ?_, ?_, ?_⟩
  · rw [QuoteEngine.chain_congr hs hh]; exact h.once b
  · rw [QuoteEngine.chain_congr hs hh, hs]; exact h.members b i
  · rw [QuoteEngine.chain_congr hs hh, hs]; exact h.ends b i
  · rw [hs]; exact h.keys
  · rw [hs]; exact h.nonzero

theorem State.Still.laws {s t : State} (h : s.Still t) (l : s.Laws) : t.Laws where
  tabs := ⟨h.slots ▸ l.tabs.slots, h.heads ▸ l.tabs.heads, h.records ▸ l.tabs.records, h.occupancy ▸ l.tabs.occupancy⟩
  chains := l.chains.congr h.slots h.heads
  bindings := by
    have sl : ∀ i, t.slot i = s.slot i := fun i => by unfold State.slot; rw [h.slots]
    have rc : ∀ f, t.record f = s.record f := fun f => by unfold State.record; rw [h.records]
    exact l.bindings.congr (fun i => by rw [sl]) (fun i x _ => by rw [sl]; exact x.1)
      (fun i => by rw [sl]; exact l.bindings.free i) (fun f => by rw [rc]; exact ⟨rfl, rfl⟩) h.command h.freeing h.asked
      h.answered h.geometry h.occupancy
  spans := by
    have rc : ∀ f, t.record f = s.record f := fun f => by unfold State.record; rw [h.records]
    exact l.spans.congr (fun f => by rw [rc]; exact ⟨rfl, rfl, rfl, rfl⟩) h.freeing h.geometry h.occupancy
      (State.moveWaiting_congr h.event)
  highlights := by
    have rc : ∀ f, t.record f = s.record f := fun f => by unfold State.record; rw [h.records]
    exact l.highlights.congr h.highlight h.frameNumber (fun f x => by rw [rc]; exact ⟨x, rfl, rfl⟩)
      (fun f => by rw [h.freeing]; exact id)
  overlays := by rw [h.stack]; exact l.overlays

/-- A change outside the units that the laws speak of. -/
theorem State.Still.of_units {s t : State} (hp : t.plane = s.plane) (hq : t.quote = s.quote) (hf : t.field = s.field)
    (hh : t.highlight = s.highlight) (hv : t.video.frameNumber = s.video.frameNumber) : s.Still t :=
  ⟨by rw [hp], by rw [hp], by rw [hq], by rw [hq], by rw [hf], by rw [hf], by rw [hf], by rw [hf], hh, hv, by rw [hq], by rw [hf]⟩

/-! ### Operations that leave the laws' tables and queues as they are -/

theorem State.still_sendCause (s : State) (p : Port) (c : Cause) : s.Still (s.sendCause p c) := .of_units rfl rfl rfl rfl rfl

theorem State.still_modRing (s : State) (r : RingId) (f : RingUnit → RingUnit) : s.Still (s.modRing r f) :=
  .of_units rfl rfl rfl rfl rfl

theorem State.still_sendMemory (s : State) (q : Requester) (tx : Transaction) : s.Still (s.sendMemory q tx) :=
  .of_units rfl rfl rfl rfl rfl

theorem State.still_sendFields (s : State) (qs : List FieldRequest)
    (h : qs.filter FieldRequest.answersBinding = []) : s.Still (s.sendFields qs) :=
  ⟨rfl, rfl, rfl, rfl, rfl, rfl, rfl, rfl, rfl, rfl, rfl, by simp [h]⟩

theorem State.still_sendPlanes (s : State) (qs : List PlaneRequest) : s.Still (s.sendPlanes qs) :=
  ⟨rfl, rfl, rfl, rfl, rfl, rfl, rfl, rfl, rfl, rfl, rfl, rfl⟩

theorem State.still_sendQuote (s : State) (q : QuoteRequest) (h : q.isBinding = false) : s.Still (s.sendQuote q) :=
  ⟨rfl, rfl, rfl, rfl, rfl, rfl, rfl, rfl, rfl, rfl, by simp [h], rfl⟩

theorem State.still_setSweep (s : State) (w : Sweep) : s.Still (s.setSweep w) :=
  ⟨rfl, rfl, rfl, rfl, rfl, rfl, rfl, rfl, rfl, rfl, rfl, rfl⟩

theorem State.still_requestStep (s : State) : s.Still s.requestStep := by
  unfold State.requestStep
  split
  · exact .refl s
  · exact (s.still_setSweep _).trans (State.still_sendFields _ [.step] rfl)

theorem State.still_complete (s : State) (st : Status) (w : Word) : s.Still (s.completeCommand st w) :=
  .of_units rfl rfl rfl rfl rfl

theorem State.still_passEnd (s : State) : s.Still s.passEnd := by
  unfold State.passEnd
  dsimp only
  have c : s.Still (match s.field.sweep.repaint with
    | .thisPass rr => s.completeCommand .done (repaintResult s.field.sweep.rendered 0 (passCode rr))
    | .none => s
    | .nextPass => s) := by
    split
    · exact s.still_complete _ _
    · exact .refl s
    · exact .refl s
  split
  · exact (c.trans (State.still_setSweep _ _)).trans (State.still_requestStep _)
  · exact c.trans (State.still_setSweep _ _)

theorem State.still_sweepAdvance (s : State) (b : Bool) : s.Still (s.sweepAdvance b) := by
  unfold State.sweepAdvance
  dsimp only
  split
  · split
    · exact ((s.still_setSweep _).trans (State.still_setSweep _ _)).trans (State.still_requestStep _)
    · exact (s.still_setSweep _).trans (State.still_passEnd _)
  · exact .refl s

theorem State.still_trigger (s : State) : s.Still s.trigger := by
  unfold State.trigger
  dsimp only
  split
  · split
    · exact s.still_setSweep _
    · exact (s.still_setSweep _).trans (State.still_requestStep _)
  · exact .refl s

theorem State.still_changeRing (s : State) (r : RingId) (n : RingState) : s.Still (s.changeRing r n) := by
  rw [State.changeRing_eq]
  refine ⟨rfl, rfl, rfl, rfl, ?_, ?_, ?_, ?_, rfl, rfl, rfl, ?_⟩ <;> dsimp only <;> split <;> simp [FieldRequest.answersBinding]

theorem State.still_enterReady (s : State) (r : RingId) : s.Still (s.enterReady r) :=
  (s.still_modRing r _).trans (State.still_sendMemory _ _ _)

theorem State.still_lookAgain (s : State) (r : RingId) : s.Still (s.lookAgain r) := by
  unfold State.lookAgain
  dsimp only
  split
  · exact s.still_enterReady r
  · exact .refl s

theorem State.still_takeRingOn (s : State) (r : RingId) : s.Still (s.takeRingOn r) := by
  unfold State.takeRingOn
  split
  · dsimp only
    have a := (s.still_modRing r fun u => { u with index := 0, silenceCounter := 0, haltReason := .none, phase := .idle }).trans
      (State.still_changeRing _ r .on)
    split
    · exact a.trans (State.still_enterReady _ r)
    · exact a
  · exact .refl s

theorem State.still_takeRingOff (s : State) (r : RingId) : s.Still (s.takeRingOff r) := by
  have a := (s.still_modRing r fun u => { u with phase := .idle }).trans (State.still_changeRing _ r .off)
  have b := s.still_changeRing r .stopping
  unfold State.takeRingOff
  dsimp only
  split
  · exact .refl s
  · exact .refl s
  · exact s.still_changeRing r .off
  · split <;> first | exact a | exact b
  · split <;> first | exact a | exact b

theorem State.Still.ite {s u v : State} {p : Prop} [Decidable p] (h : s.Still u) (g : u.Still v) :
    s.Still (if p then v else u) := by
  split
  · exact h.trans g
  · exact h

theorem State.still_ringFrame (s : State) (r : RingId) : s.Still (s.ringFrame r) := by
  unfold State.ringFrame State.silenceFrame
  dsimp only
  refine .trans ?_ (State.still_lookAgain _ r)
  exact .ite (.ite (s.still_modRing r _) (State.still_modRing _ r _)) ((State.still_changeRing _ r .silent).trans
    (State.still_sendCause _ r .silent))

theorem State.still_outcomeAttention (s : State) (r : RingId) (st : Status) : s.Still (s.outcomeAttention r st) := by
  unfold State.outcomeAttention
  dsimp only
  split <;> split <;> (try split) <;> first
    | exact .refl s
    | exact State.still_sendCause _ _ _
    | exact (State.still_sendCause _ _ _).trans (State.still_sendCause _ _ _)
    | exact ((State.still_sendCause _ _ _).trans (State.still_sendCause _ _ _)).trans (State.still_sendCause _ _ _)

theorem State.still_takeOutcome (s : State) (r : RingId) (st : Status) (w : Word) : s.Still (s.takeOutcome r st w) :=
  ((s.still_modRing r _).trans (State.still_outcomeAttention _ r st)).trans (State.still_sendMemory _ _ _)

theorem State.still_passOn (s : State) (r : RingId) (d : Descriptor) : s.Still (s.passOn r d) := by
  unfold State.passOn
  split <;> first
    | exact s.still_sendQuote _ rfl
    | exact s.still_sendFields [_] rfl
    | exact s.still_sendPlanes _

theorem State.still_takeBody (s : State) (r : RingId) (ws : List Word) : s.Still (s.takeBody r ws) := by
  unfold State.takeBody
  dsimp only
  split
  · exact (s.still_modRing r _).trans (State.still_takeOutcome _ _ _ _)
  · split
    · exact (s.still_modRing r _).trans (State.still_takeOutcome _ _ _ _)
    · exact ((s.still_modRing r _).trans (State.still_modRing _ r _)).trans (State.still_passOn _ r _)

theorem State.still_takeStatusWord (s : State) (r : RingId) (w : Word) : s.Still (s.takeStatusWord r w) := by
  unfold State.takeStatusWord
  dsimp only
  split
  · exact (s.still_modRing r _).trans (State.still_changeRing _ r _)
  · split
    · exact (s.still_modRing r _).trans (State.still_sendMemory _ _ _)
    · exact s.still_modRing r _

theorem State.still_handBack (s : State) (r : RingId) : s.Still (s.handBack r) := by
  unfold State.handBack
  dsimp only
  refine .trans ?_ (State.still_modRing _ r _)
  exact .ite (.ite (.ite (s.still_modRing r _) (State.still_sendCause _ r .done)) (State.still_modRing _ r _))
    (State.still_changeRing _ r .on)

theorem State.still_fetchOn (s : State) (r : RingId) : s.Still (s.fetchOn r) := by
  unfold State.fetchOn
  dsimp only
  split
  · exact s.still_enterReady r
  · split
    · exact (s.still_modRing r _).trans (State.still_changeRing _ r _)
    · exact s.still_modRing r _

theorem State.still_haltRing (s : State) (r : RingId) (why : HaltReason) : s.Still (s.haltRing r why) :=
  ((s.still_modRing r _).trans (State.still_changeRing _ r _)).trans (State.still_sendCause _ r .halt)

theorem State.still_portControlWrite (s : State) (r : RingId) (v : Half) : s.Still (s.portControlWrite r v) := by
  have sw : ∀ (u : State) (a b : Bool), u.Still (u.ringSwitch r a b) := fun u a b => by
    unfold State.ringSwitch
    split
    · exact u.still_takeRingOn r
    · exact u.still_takeRingOff r
    · exact .refl u
    · exact .refl u
  have fr : s.Still s.useFree := .of_units rfl rfl rfl rfl rfl
  unfold State.portControlWrite
  dsimp only
  split
  · split
    · exact s.still_lookAgain r
    · split
      · exact (fr.trans (State.still_lookAgain _ r)).trans (sw _ _ _)
      · exact (fr.trans (sw _ _ _)).trans (State.still_lookAgain _ r)
  · exact sw _ _ _

theorem State.still_stopTest (s : State) : s.Still s.stopTest := by
  unfold State.stopTest
  split
  · exact .of_units rfl rfl rfl rfl rfl
  · exact .refl s

theorem State.still_offRequest (s : State) (r : RingId) : s.Still (s.offRequest r) := by
  unfold State.offRequest
  split
  · exact s.still_takeRingOff r
  · exact .refl s

theorem State.still_startRing (s : State) (r : RingId) : s.Still (s.startRing r) := by
  unfold State.startRing
  split
  · exact s.still_enterReady r
  · exact .refl s

theorem State.still_endStart (s : State) (d : DeviceState) (o : StartOutcome) : s.Still (s.endStart d o) :=
  .of_units rfl rfl rfl rfl rfl

theorem State.still_returnCompletion (s : State) (k : TxKind) (ws : List Word) : s.Still (s.returnCompletion k ws) := by
  cases k <;> exact .of_units rfl rfl rfl rfl rfl

theorem State.still_returnFault (s : State) (k : TxKind) : s.Still (s.returnFault k) := by
  unfold State.returnFault
  split <;> exact .of_units rfl rfl rfl rfl rfl

theorem State.still_abandonSweep (s : State) : s.Still s.abandonSweep := by
  unfold State.abandonSweep
  dsimp only
  refine .trans ?_ (State.still_setSweep _ _)
  split
  · exact .refl s
  · exact s.still_complete _ _
  · exact s.still_complete _ _

/-- Requests outstanding only during an event, and at most one (R75). -/
def State.One (s : State) : Prop := s.highlight.requests.length ≤ s.field.event.isSome.toNat

theorem State.Still.one {s t : State} (h : s.Still t) (o : s.One) : t.One := by
  unfold State.One at *; rw [h.highlight, h.event]; exact o

/-- The laws and the count of highlight requests. -/
def State.Sound (s : State) : Prop := s.Laws ∧ s.One

theorem State.Still.sound {s t : State} (h : s.Still t) (o : s.Sound) : t.Sound := ⟨h.laws o.1, h.one o.2⟩

/-! ### The end of a Field Unit event -/

/-- A field record that changes but keeps its state, its slot and its place, with requests to the Highlight Timer. -/
theorem State.Laws.setRecords {s : State} (l : s.Laws) (f : Nat) (v : FieldRec) (reqs : List HighlightRequest)
    (recs : Tab FieldRec) (hw : Tab.WF fieldSpec recs)
    (rc : ∀ g, recs.get fieldSpec g = if g = f ∧ f < 512 then v else s.record g)
    (hp : v.state = (s.record f).state ∧ v.slot = (s.record f).slot ∧ v.row = (s.record f).row ∧
      v.col = (s.record f).col ∧ v.width = (s.record f).width)
    (he : ∀ e ∈ s.highlight.queue, .remove e.field ∉ reqs → .remove e.field ∉ s.highlight.requests ∧
      (e.field = f → v.style.rule = .tick ∧ v.tick ≠ .steady ∧ s.highlight.holds.get v.style.hold ≠ 0))
    (ha : ∀ g k, .arm g k ∈ reqs → (if g = f then v else s.record g).state = .bound ∧
      (if g = f then v else s.record g).style.rule = .tick ∧ (if g = f then v else s.record g).tick ≠ .steady ∧
      (if g = f then v else s.record g).style.hold = k)
    (hf : ∀ g, s.freeing g = true → .remove g ∈ reqs ∨ (reqs = [] ∧ g ∉ s.highlight.queue.map HighlightEntry.field)) :
    { s with field := { s.field with records := recs }, highlight := { s.highlight with requests := reqs } }.Laws := by
  refine ⟨⟨l.tabs.slots, l.tabs.heads, hw, l.tabs.occupancy⟩, l.chains, ?_, ?_, ?_, l.overlays⟩
  · refine l.bindings.congr (fun _ => rfl) (fun i h _ => h.1) l.bindings.free (fun g => ?_) rfl (fun _ => rfl) rfl rfl rfl rfl
    show (recs.get fieldSpec g).state = _ ∧ (recs.get fieldSpec g).slot = _
    rw [rc]; split
    · rename_i e; rw [e.1]; exact ⟨hp.1, hp.2.1⟩
    · exact ⟨rfl, rfl⟩
  · refine l.spans.congr (fun g => ?_) (fun _ => rfl) rfl rfl
    show (recs.get fieldSpec g).state = _ ∧ (recs.get fieldSpec g).row = _ ∧ (recs.get fieldSpec g).col = _ ∧
      (recs.get fieldSpec g).width = _
    rw [rc]; split
    · rename_i e; rw [e.1]; exact ⟨hp.1, hp.2.2⟩
    · exact ⟨rfl, rfl, rfl, rfl⟩
  · have h := l.highlights
    have bnd : ∀ g, (s.record g).state = .bound → g < 512 := fun g x => by
      by_contra e
      rw [s.record_high g (by omega)] at x; simp [FieldRec.cleared] at x
    refine ⟨h.fields, h.order, h.waiting, h.holds, h.frames, h.last, fun e hq hr => ?_, fun g k hk => ?_, hf⟩
    · obtain ⟨a, b⟩ := he e hq hr
      have c := h.entries e hq a
      show (recs.get fieldSpec e.field).state = _ ∧ (recs.get fieldSpec e.field).style.rule = _ ∧
        (recs.get fieldSpec e.field).tick ≠ _ ∧ s.highlight.holds.get (recs.get fieldSpec e.field).style.hold ≠ 0
      rw [rc]
      split
      · rename_i x
        rw [hp.1, ← x.1]
        exact ⟨c.1, b x.1⟩
      · exact c
    · have a := ha g k hk
      show (recs.get fieldSpec g).state = _ ∧ (recs.get fieldSpec g).style.rule = _ ∧
        (recs.get fieldSpec g).tick ≠ _ ∧ (recs.get fieldSpec g).style.hold = k
      rw [rc]
      by_cases e : g = f
      · subst e
        simp only [if_true] at a
        have : g < 512 := bnd g (by rw [← hp.1]; exact a.1)
        simpa [this] using a
      · simp only [e, false_and, if_false] at a ⊢
        exact a

/-- The same for one write of the record. -/
theorem State.Laws.setRecord {s : State} (l : s.Laws) (f : Nat) (v : FieldRec) (reqs : List HighlightRequest)
    (hp : v.state = (s.record f).state ∧ v.slot = (s.record f).slot ∧ v.row = (s.record f).row ∧
      v.col = (s.record f).col ∧ v.width = (s.record f).width)
    (he : ∀ e ∈ s.highlight.queue, .remove e.field ∉ reqs → .remove e.field ∉ s.highlight.requests ∧
      (e.field = f → v.style.rule = .tick ∧ v.tick ≠ .steady ∧ s.highlight.holds.get v.style.hold ≠ 0))
    (ha : ∀ g k, .arm g k ∈ reqs → (if g = f then v else s.record g).state = .bound ∧
      (if g = f then v else s.record g).style.rule = .tick ∧ (if g = f then v else s.record g).tick ≠ .steady ∧
      (if g = f then v else s.record g).style.hold = k)
    (hf : ∀ g, s.freeing g = true → .remove g ∈ reqs ∨ (reqs = [] ∧ g ∉ s.highlight.queue.map HighlightEntry.field)) :
    { s.setRecord f v with highlight := { s.highlight with requests := reqs } }.Laws :=
  l.setRecords f v reqs _ (Tab.set_wf _ _ _ _ l.tabs.records) (fun g => s.record_setRecord f g v l.tabs.records) hp he ha hf

/-- The same without a request to the Highlight Timer. -/
theorem State.Laws.setRecord' {s : State} (l : s.Laws) (f : Nat) (v : FieldRec)
    (hp : v.state = (s.record f).state ∧ v.slot = (s.record f).slot ∧ v.row = (s.record f).row ∧
      v.col = (s.record f).col ∧ v.width = (s.record f).width)
    (hs : v.style = (s.record f).style ∧ v.tick = (s.record f).tick) : (s.setRecord f v).Laws :=
  l.setRecord f v s.highlight.requests hp (fun e hq hr => ⟨hr, fun x => by
      have := l.highlights.entries e hq hr
      rw [hs.1, hs.2, ← x]; exact this.2⟩)
    (fun g k hk => by
      have := l.highlights.arms g k hk
      split
      · rename_i x; rw [hp.1, hs.1, hs.2, ← x]; exact this
      · exact this) l.highlights.freed

theorem State.countOverflow_laws {s : State} (l : s.Laws) (f : Nat) : (s.countOverflow f).Laws := by
  unfold State.countOverflow
  split
  · exact (State.still_sendCause _ _ _).laws (l.setRecord' f _ ⟨rfl, rfl, rfl, rfl, rfl⟩ ⟨rfl, rfl⟩)
  · exact l

theorem State.countOverflow_keeps (s : State) (f : Nat) : (s.countOverflow f).field.event = s.field.event ∧
    (s.countOverflow f).highlight = s.highlight ∧ (s.countOverflow f).field.command = s.field.command := by
  unfold State.countOverflow
  split <;> exact ⟨rfl, rfl, rfl⟩

/-- An event under way that frees nothing, or one that none frees, changes no table. -/
theorem State.Laws.setEvent {s : State} (l : s.Laws) (e : Option FieldEvent)
    (h : ∀ f, State.freeing { s with field := { s.field with event := e } } f = s.freeing f)
    (hm : State.moveWaiting { s with field := { s.field with event := e } } = s.moveWaiting) :
    { s with field := { s.field with event := e } }.Laws :=
  ⟨⟨l.tabs.slots, l.tabs.heads, l.tabs.records, l.tabs.occupancy⟩, l.chains,
    l.bindings.congr (fun _ => rfl) (fun i x _ => x.1) l.bindings.free (fun _ => ⟨rfl, rfl⟩) rfl h rfl rfl rfl rfl,
    l.spans.congr (fun _ => ⟨rfl, rfl, rfl, rfl⟩) h rfl rfl hm,
    l.highlights.congr rfl rfl (fun _ x => ⟨x, rfl, rfl⟩) (fun f x => by rw [h] at x; exact x), l.overlays⟩

/-- What follows an event, but for the end of UNBIND_FIELD, changes no table. -/
theorem State.still_runAfter (s : State) (a : FieldAfter) (h : ∀ f w, a ≠ .freeAndComplete f w)
    (hm : ∀ m, a ≠ .moveTo m) : s.Still (s.runAfter a) := by
  cases a with
  | nothing => exact .refl s
  | complete st w => exact s.still_complete st w
  | freeAndComplete f w => exact absurd rfl (h f w)
  | sweepAdvance b => exact s.still_sweepAdvance b
  | moveTo m => exact absurd rfl (hm m)

/-- The end of UNBIND_FIELD (R56, step 4): the record returns to FREE. No BIND_FIELD or UNBIND_FIELD waits then. -/
theorem State.Laws.freeRecord {s : State} (l : s.Laws) {f : Nat} {w : Word}
    (he : s.field.event = some ⟨[], .freeAndComplete f w⟩) (hr : s.highlight.requests = [])
    (hc : s.field.command = none) :
    ({ s with field := { s.field with event := none } }.setRecord f FieldRec.cleared).Laws := by
  have fr : s.freeing f = true := by unfold State.freeing; rw [he]; simp
  have fo : ∀ g, s.freeing g = true → g = f := fun g h => by unfold State.freeing at h; rw [he] at h; exact (by simpa using h : f = g).symm
  have rm := l.bindings.removed f (.inr fr)
  have z : s.quote.inbox.countP QuoteRequest.isBinding = 0 ∧ s.field.inbox.countP FieldRequest.answersBinding = 0 := by
    have := l.bindings.one; rw [hc] at this; simp only [Option.isSome_none, Bool.toNat_false] at this; omega
  have nq : ∀ x, QuoteRequest.isBinding x = true → x ∉ s.quote.inbox := fun x hx hm =>
    absurd hx (by simpa using (List.countP_eq_zero.mp z.1) x hm)
  have na : ∀ x, FieldRequest.answersBinding x = true → x ∉ s.field.inbox := fun x hx hm =>
    absurd hx (by simpa using (List.countP_eq_zero.mp z.2) x hm)
  generalize ht : { s with field := { s.field with event := none } }.setRecord f FieldRec.cleared = t
  have rc : ∀ g, t.record g = if g = f ∧ f < 512 then FieldRec.cleared else s.record g := fun g => by
    rw [← ht]; exact State.record_setRecord _ f g _ l.tabs.records
  have rcf : t.record f = FieldRec.cleared := by
    rw [rc]; split
    · rfl
    · exact s.record_high f (by simp at *; omega)
  have rco : ∀ g, g ≠ f → t.record g = s.record g := fun g h => by rw [rc]; simp [h]
  have frt : ∀ g, t.freeing g = false := fun g => by rw [← ht]; rfl
  have sl : ∀ i, t.slot i = s.slot i := fun i => by rw [← ht]; rfl
  have tr : ∀ g, ¬t.inTransit g := fun g h => by
    subst ht
    rcases h with ⟨i, h⟩ | h | h
    · exact na _ rfl h
    · exact na _ rfl h
    · cases h
  have trs : ∀ g, g ≠ f → ¬s.inTransit g := fun g e h => by
    rcases h with ⟨i, h⟩ | h | h
    · exact na _ rfl h
    · exact na _ rfl h
    · exact e (fo g h)
  refine ⟨?_, ?_, ?_, ?_, ?_, ?_⟩
  · subst ht; exact ⟨l.tabs.slots, l.tabs.heads, Tab.set_wf _ _ _ _ l.tabs.records, l.tabs.occupancy⟩
  · subst ht; exact l.chains
  · have b := l.bindings
    refine ⟨fun i => by rw [sl]; exact b.free i, fun i => by rw [sl]; exact b.lists i, fun i j g => by
        rw [sl, sl]; exact b.apart i j g, fun g _ x => ?_, fun g i _ x => ?_, ?_, fun k h => ?_, fun k h => ?_,
      fun g i h => ?_, fun g i h => ?_, fun g h => ?_, fun g h => ?_⟩
    · by_cases e : g = f
      · subst e; rw [rcf] at x; exact absurd rfl x
      · rw [rco g e] at x ⊢; rw [sl]; exact b.bound g (trs g e) x
    · by_cases e : g = f
      · subst e; rw [sl] at x; exact absurd x (rm.2 i)
      · rw [rco g e]; rw [sl] at x; exact b.listed g i (trs g e) x
    · subst ht; simpa [hc] using b.one
    · subst ht; exact absurd h (nq _ rfl)
    · subst ht; exact absurd h (na _ rfl)
    · subst ht; exact absurd h (nq _ rfl)
    · subst ht; exact absurd h (na _ rfl)
    · subst ht; exact absurd h (nq _ rfl)
    · rcases h with h | h
      · subst ht; exact absurd h (na _ rfl)
      · rw [frt] at h; simp at h
  · have geo : t.plane.geometry = s.plane.geometry := by rw [← ht]; rfl
    refine ⟨fun g h => ?_, fun g h => ?_, fun n hn g => ?_, fun m hw => ?_⟩
    · by_cases e : g = f
      · subst e; rw [rcf] at h; simp [FieldRec.cleared] at h
      · rw [rco g e] at h ⊢; exact l.spans.widths g h
    · by_cases e : g = f
      · subst e; rw [rcf] at h; simp [FieldRec.cleared] at h
      · rw [rco g e] at h ⊢; rw [State.spanFits_congr geo]; exact l.spans.fits g h
    · have m := l.spans.map n hn g
      have oc : t.field.occupancy = s.field.occupancy := by rw [← ht]; rfl
      have mt : t.moving g = false := by rw [← ht]; rfl
      have ms : s.moving g = false := by unfold State.moving State.moveWaiting; rw [he]
      rw [oc, m, frt, mt, ms, State.spanCells_congr geo]
      by_cases e : g = f
      · subst e; rw [rcf, fr]; simp [FieldRec.cleared]
      · rw [rco g e]
        have : s.freeing g = false := by
          cases x : s.freeing g with
          | false => rfl
          | true => exact absurd (fo g x) e
        rw [this]
    · have mt : t.moveWaiting = none := by rw [← ht]; rfl
      rw [mt] at hw; simp at hw
  · have h := l.highlights
    have hh : t.highlight = s.highlight := by rw [← ht]; rfl
    have nf : f ∉ s.highlight.queue.map HighlightEntry.field := by
      rcases h.freed f fr with x | x
      · rw [hr] at x; simp at x
      · exact x.2
    refine ⟨by rw [hh]; exact h.fields, by rw [hh]; exact h.order, by rw [hh]; exact h.waiting, by rw [hh]; exact h.holds,
      by rw [hh]; exact h.frames, by subst ht; exact h.last, fun e he' hq => ?_, fun g k hk => ?_, fun g hg => ?_⟩
    · rw [hh] at he' hq ⊢
      have e' : e.field ≠ f := fun x => nf (x ▸ List.mem_map.mpr ⟨e, he', rfl⟩)
      rw [rco _ e']; exact h.entries e he' hq
    · rw [hh, hr] at hk; simp at hk
    · rw [frt] at hg; simp at hg
  · subst ht; exact l.overlays

/-- The end of an event keeps the laws. -/
theorem State.fieldFinish_sound {s : State} (l : s.Sound)
    (hc : ∀ f, s.freeing f = true → s.field.command = none) : s.fieldFinish.Sound := by
  unfold State.fieldFinish
  split
  · exact l
  · rename_i e he
    split
    · rename_i h
      obtain ⟨sp, a⟩ := e
      dsimp only at h
      rw [h.1] at he
      have z : ∀ u : State, u.highlight = s.highlight → u.One := fun u hu => by
        unfold State.One; rw [hu, h.2]; simp
      by_cases ha : ∃ f w, a = .freeAndComplete f w
      · obtain ⟨f, w, rfl⟩ := ha
        have c := hc f (by unfold State.freeing; rw [he]; simp)
        refine (State.still_complete _ _ _).sound ⟨l.1.freeRecord he h.2 c, z _ rfl⟩
      · have nf : ∀ f w, a ≠ .freeAndComplete f w := fun f w x => ha ⟨f, w, x⟩
        by_cases hm : ∃ m, a = .moveTo m
        · obtain ⟨m, rfl⟩ := hm
          have k := State.fieldFinish_move s [] m he
          rw [State.fieldFinish_done s _ he h.2] at k
          show State.Sound ({ s with field := { s.field with event := none } }.runAfter (.moveTo m))
          rw [k]; exact l
        have nm : ∀ m, a ≠ .moveTo m := fun m x => hm ⟨m, x⟩
        refine (State.still_runAfter _ _ nf nm).sound ⟨l.1.setEvent none (fun f => ?_) ?_, z _ rfl⟩
        · unfold State.freeing
          rw [he]
          cases a <;> first | rfl | exact absurd rfl (nf _ _)
        · unfold State.moveWaiting
          rw [he]
          cases a <;> first | rfl | exact absurd rfl (nm _)
    · exact l

/-- An event that frees and moves no field keeps the laws. -/
theorem State.beginEvent_sound {s : State} (l : s.Laws) (spans : List SpanWrite) (a : FieldAfter)
    (he : s.field.event = none) (ha : (∀ f w, a ≠ .freeAndComplete f w) ∧ ∀ m, a ≠ .moveTo m) (hr : s.highlight.requests.length ≤ 1) :
    (s.beginEvent spans a).Sound := by
  unfold State.beginEvent
  dsimp only
  have nf : ∀ (u : State) sp f, State.freeing { u with field := { u.field with event := some ⟨sp, a⟩ } } f = false := by
    intro u sp f
    unfold State.freeing
    cases a <;> first | rfl | exact absurd rfl (ha.1 _ _)
  refine State.fieldFinish_sound ⟨((s.still_sendPlanes _).laws l).setEvent _ (fun f => ?_) ?_, ?_⟩ fun f x => ?_
  rotate_left
  · rw [State.moveWaiting_none (s := s.sendPlanes _) he]
    unfold State.moveWaiting
    cases a <;> first | rfl | exact absurd rfl (ha.2 _)
  rotate_right
  · rw [nf]
    unfold State.freeing
    have : (s.sendPlanes ((spans.take (64 - s.heldSpans)).map .span)).field.event = none := he
    rw [this]
  · unfold State.One; simpa using hr
  · rw [nf] at x; simp at x

theorem State.endCommand_sound {s : State} (l : s.Laws) (st : Status) (w : Word) (he : s.field.event = none)
    (hr : s.highlight.requests.length ≤ 1) : (s.endCommand st w).Sound :=
  State.beginEvent_sound l [] _ he (by simp) hr

theorem State.render_sound {s : State} (l : s.Laws) (f : Nat) (earlier : List SpanWrite) (a : FieldAfter)
    (he : s.field.event = none) (ha : (∀ f w, a ≠ .freeAndComplete f w) ∧ ∀ m, a ≠ .moveTo m)
    (hr : s.highlight.requests.length ≤ 1) :
    (s.render f earlier a).Sound := by
  unfold State.render
  have k := s.countOverflow_keeps f
  exact State.beginEvent_sound (State.countOverflow_laws l f) _ a (by rw [k.1]; exact he) ha (by rw [k.2.1]; exact hr)

/-- A field's tick is cleared, and its entry's removal asked for. -/
theorem State.clearTick_laws {s : State} (l : s.Laws) (f : Nat) (he : s.field.event = none)
    (hr : s.highlight.requests = []) : (s.clearTick f).Laws ∧ (s.clearTick f).highlight.requests.length ≤ 1 := by
  have nf : ∀ g, s.freeing g = false := fun g => by unfold State.freeing; rw [he]
  refine ⟨?_, by simp [State.clearTick, State.setTick, hr]⟩
  have := l.setRecord f { s.record f with tick := .steady } (s.highlight.requests ++ [.remove f]) ⟨rfl, rfl, rfl, rfl, rfl⟩
    (fun e _ hq => ⟨fun x => hq (by simp [x]), fun x => absurd (by rw [x]; simp) hq⟩)
    (fun g k hk => by simp [hr] at hk) (fun g hg => by rw [nf] at hg; simp at hg)
  exact this

/-- A BOUND field of colour rule TICK gets a tick, and an entry is asked for. -/
theorem State.arm_laws {s : State} (l : s.Laws) (f : Nat) (t : Tick) (ht : t ≠ .steady) (he : s.field.event = none)
    (hr : s.highlight.requests = []) (hb : (s.record f).state = .bound) (ht' : (s.record f).style.rule = .tick) :
    ((s.setTick f t).sendHighlight (.arm f (s.record f).style.hold)).Laws ∧
      ((s.setTick f t).sendHighlight (.arm f (s.record f).style.hold)).highlight.requests.length ≤ 1 := by
  have nf : ∀ g, s.freeing g = false := fun g => by unfold State.freeing; rw [he]
  refine ⟨?_, by simp [State.setTick, hr]⟩
  have := l.setRecord f { s.record f with tick := t } (s.highlight.requests ++ [.arm f (s.record f).style.hold])
    ⟨rfl, rfl, rfl, rfl, rfl⟩
    (fun e hq _ => ⟨by simp [hr], fun x => by
      have := l.highlights.entries e hq (by simp [hr])
      rw [x] at this
      exact ⟨this.2.1, ht, this.2.2.2⟩⟩)
    (fun g k hk => by
      simp [hr] at hk
      obtain ⟨rfl, rfl⟩ := hk
      simp [hb, ht', ht]) (fun g hg => by rw [nf] at hg; simp at hg)
  exact this

theorem State.determineTick_laws {s : State} (l : s.Laws) (f : Nat) (old : Option Int) (new : Int)
    (he : s.field.event = none) (hr : s.highlight.requests = []) (hb : (s.record f).state = .bound) :
    (s.determineTick f old new).Laws ∧ (s.determineTick f old new).highlight.requests.length ≤ 1 := by
  have self : s.Laws ∧ s.highlight.requests.length ≤ 1 := ⟨l, by simp [hr]⟩
  unfold State.determineTick
  split
  · rename_i hrule
    split
    · split
      · exact State.clearTick_laws l f he hr
      · split
        · exact State.arm_laws l f .up (by simp) he hr hb hrule
        · split
          · exact State.arm_laws l f .down (by simp) he hr hb hrule
          · exact self
    · exact State.clearTick_laws l f he hr
  · exact self

/-! ### The binding laws by their messages -/

/-- What a request to the Quote Engine says, if it is a binding request. -/
def State.askFact (s : State) : QuoteRequest → Prop
  | .lookup _ => ∃ d, s.binding d
  | .append f i => ∃ d, s.binding d ∧ f = d.fieldNumber ∧ s.spanClear d ∧ s.hasRoom i
  | .removal f => (s.record f).state ≠ .free
  | .apply _ _ | .define _ | .remove _ | .setSources _ => True

/-- What a request to the Field Unit says, if it answers a binding request. -/
def State.answerFact (s : State) : FieldRequest → Prop
  | .lookupResult l => ∃ d, s.binding d ∧ ∀ i, l = .found i → s.hasRoom i
  | .appendDone f i => ∃ d, s.binding d ∧ f = d.fieldNumber ∧ s.spanClear d ∧ f ∈ (s.slot i).bindings
  | .removalDone f => (s.record f).state ≠ .free ∧ ∀ i, f ∉ (s.slot i).bindings
  | .render _ | .bind _ | .unbind _ | .move _ | .style _ | .setPen _ | .repaint | .expiry _ | .trigger | .step => True

/-- The binding laws that do not speak of messages. -/
structure State.BindingsBase (s : State) : Prop where
  free : ∀ i, (s.slot i).occupied = false → s.slot i = Slot.cleared
  lists : ∀ i, (s.slot i).bindings.Nodup ∧ (s.slot i).bindings.length ≤ 16 ∧ ∀ f ∈ (s.slot i).bindings, f < 512
  apart : ∀ i j f, f ∈ (s.slot i).bindings → f ∈ (s.slot j).bindings → i = j
  bound : ∀ f, ¬s.inTransit f → (s.record f).state ≠ .free → f ∈ (s.slot (s.record f).slot).bindings
  listed : ∀ f i, ¬s.inTransit f → f ∈ (s.slot i).bindings → (s.record f).state ≠ .free ∧ (s.record f).slot = i
  removed : ∀ f, s.freeing f = true → (s.record f).state ≠ .free ∧ ∀ i, f ∉ (s.slot i).bindings

theorem State.BindingsOk.base {s : State} (b : s.BindingsOk) : s.BindingsBase :=
  ⟨b.free, b.lists, b.apart, b.bound, b.listed, fun f h => b.removed f (.inr h)⟩

theorem State.BindingsOk.asks {s : State} (b : s.BindingsOk) : ∀ q ∈ s.quote.inbox, s.askFact q := fun q h => by
  cases q with
  | lookup k => exact b.lookup k h
  | append f i => exact b.append f i h
  | removal f => exact b.removal f h
  | apply r d => trivial
  | define d => trivial
  | remove d => trivial
  | setSources d => trivial

theorem State.BindingsOk.answers {s : State} (b : s.BindingsOk) : ∀ q ∈ s.field.inbox, s.answerFact q := fun q h => by
  cases q with
  | lookupResult l => exact b.found l h
  | appendDone f i => exact b.appended f i h
  | removalDone f => exact b.removed f (.inl h)
  | _ => trivial

/-- The binding laws from their parts. -/
theorem State.BindingsOk.of_facts {s : State} (b : s.BindingsBase)
    (one : s.quote.inbox.countP QuoteRequest.isBinding + s.field.inbox.countP FieldRequest.answersBinding =
      s.field.command.isSome.toNat)
    (hq : ∀ q ∈ s.quote.inbox, s.askFact q) (ha : ∀ q ∈ s.field.inbox, s.answerFact q) : s.BindingsOk where
  free := b.free
  lists := b.lists
  apart := b.apart
  bound := b.bound
  listed := b.listed
  one := one
  lookup _ h := hq _ h
  found _ h := ha _ h
  append _ _ h := hq _ h
  appended _ _ h := ha _ h
  removal _ h := hq _ h
  removed f h := h.elim (fun x => ha _ x) (b.removed f)

theorem State.asks_of_zero {s : State} {l : List QuoteRequest} (h : l.countP QuoteRequest.isBinding = 0) :
    ∀ q ∈ l, s.askFact q := fun q hq => by
  have := List.countP_eq_zero.mp h q hq
  cases q <;> first | trivial | simp [QuoteRequest.isBinding] at this

theorem State.answers_of_zero {s : State} {l : List FieldRequest} (h : l.countP FieldRequest.answersBinding = 0) :
    ∀ q ∈ l, s.answerFact q := fun q hq => by
  have := List.countP_eq_zero.mp h q hq
  cases q <;> first | trivial | simp [FieldRequest.answersBinding] at this

/-- No field is in transit on account of a message when none answers a binding request. -/
theorem State.inTransit_of_zero {s : State} (h : s.field.inbox.countP FieldRequest.answersBinding = 0) (f : Nat) :
    s.inTransit f ↔ s.freeing f = true := by
  have no : ∀ q, FieldRequest.answersBinding q = true → q ∉ s.field.inbox := fun q hq hm =>
    List.countP_eq_zero.mp h q hm hq
  unfold State.inTransit
  constructor
  · rintro (⟨i, x⟩ | x | x)
    · exact absurd x (no _ rfl)
    · exact absurd x (no _ rfl)
    · exact x
  · exact fun x => .inr (.inr x)

/-- The part without messages, from one state to another with the same lists, in which the same fields are FREE. -/
theorem State.BindingsBase.congr {s t : State} (b : s.BindingsBase)
    (hl : ∀ i, (t.slot i).bindings = (s.slot i).bindings)
    (hfree : ∀ i, (t.slot i).occupied = false → t.slot i = Slot.cleared)
    (hr : ∀ f, ((t.record f).state = .free ↔ (s.record f).state = .free) ∧ (t.record f).slot = (s.record f).slot)
    (hf : ∀ f, t.freeing f = s.freeing f) (ht : ∀ f, t.inTransit f ↔ s.inTransit f) : t.BindingsBase := by
  refine ⟨hfree, fun i => ?_, fun i j f => ?_, fun f => ?_, fun f i => ?_, fun f h => ?_⟩
  · rw [hl]; exact b.lists i
  · rw [hl, hl]; exact b.apart i j f
  · rw [ht, Ne, (hr f).1, (hr f).2, hl]; exact b.bound f
  · rw [ht, Ne, (hr f).1, (hr f).2, hl]; exact b.listed f i
  · rw [hf] at h
    rw [Ne, (hr f).1]
    exact ⟨(b.removed f h).1, fun i => by rw [hl]; exact (b.removed f h).2 i⟩

/-- With no BIND_FIELD or UNBIND_FIELD waiting, the binding laws are those without messages. -/
theorem State.BindingsOk.congrIdle {s t : State} (b : s.BindingsOk) (hn : s.field.command = none)
    (hl : ∀ i, (t.slot i).bindings = (s.slot i).bindings)
    (hfree : ∀ i, (t.slot i).occupied = false → t.slot i = Slot.cleared)
    (hr : ∀ f, ((t.record f).state = .free ↔ (s.record f).state = .free) ∧ (t.record f).slot = (s.record f).slot)
    (hc : t.field.command = none) (hf : ∀ f, t.freeing f = s.freeing f)
    (hq : t.quote.inbox.countP QuoteRequest.isBinding = s.quote.inbox.countP QuoteRequest.isBinding)
    (ha : t.field.inbox.countP FieldRequest.answersBinding = s.field.inbox.countP FieldRequest.answersBinding) :
    t.BindingsOk := by
  have one := b.one
  rw [hn] at one
  simp only [Option.isSome_none, Bool.toNat_false] at one
  have zq : t.quote.inbox.countP QuoteRequest.isBinding = 0 := by omega
  have za : t.field.inbox.countP FieldRequest.answersBinding = 0 := by omega
  refine .of_facts (b.base.congr hl hfree hr hf fun f => ?_) (by rw [hc]; simp [zq, za]) (State.asks_of_zero zq)
    (State.answers_of_zero za)
  rw [State.inTransit_of_zero za, State.inTransit_of_zero (by omega), hf]

/-! ### The commands of the Field Unit -/

theorem State.still_dropField {s : State} {q : FieldRequest} (h : s.fieldFront = some q)
    (hq : q.answersBinding = false) : s.Still s.dropField := by
  obtain ⟨_, rest, hi⟩ := State.fieldFront_some h
  exact ⟨rfl, rfl, rfl, rfl, rfl, rfl, rfl, rfl, rfl, rfl, rfl, by simp [State.dropField, hi, hq]⟩

/-- Between events no request to the Highlight Timer is outstanding. -/
theorem State.One.none {s : State} (o : s.One) (he : s.field.event = none) : s.highlight.requests = [] := by
  unfold State.One at o
  rw [he] at o
  simpa using o

/-- A field that is BOUND is one of the 512. -/
theorem State.isBound_iff (s : State) (f : Nat) : s.isBound f = true ↔ (s.record f).state = .bound := by
  simp [State.isBound]

theorem execPlainRender_sound {s t : State} (l : s.Sound) (h : execPlainRender s = .next t) : t.Sound := by
  unfold execPlainRender at h
  split at h
  · rename_i hf
    have d := (State.still_dropField hf rfl).sound l
    have he : s.dropField.field.event = none := (State.fieldFront_some hf).1
    dsimp only at h
    split at h <;> cases h
    · exact State.render_sound d.1 _ _ _ he (by simp) (by rw [d.2.none he]; simp)
    · exact d
  · cases h; exact l

theorem execTickRender_sound {s t : State} (l : s.Sound) (h : execTickRender s = .next t) : t.Sound := by
  unfold execTickRender at h
  split at h
  · rename_i f old new hf
    have d := (State.still_dropField hf rfl).sound l
    have he : s.dropField.field.event = none := (State.fieldFront_some hf).1
    dsimp only at h
    split at h <;> cases h
    · rename_i hb
      have k := State.determineTick_laws d.1 f old new he (d.2.none he) (by simpa [State.isBound] using hb)
      exact State.render_sound k.1 _ _ _ (by rw [State.determineTick_event]; exact he) (by simp) k.2
    · exact d
  · cases h; exact l

theorem execResetRender_sound {s t : State} (l : s.Sound) (h : execResetRender s = .next t) : t.Sound := by
  unfold execResetRender at h
  split at h
  · rename_i f hf
    have d := (State.still_dropField hf rfl).sound l
    have he : s.dropField.field.event = none := (State.fieldFront_some hf).1
    dsimp only at h
    split at h <;> cases h
    · have k := State.clearTick_laws d.1 f he (d.2.none he)
      exact State.render_sound k.1 _ _ _ he (by simp) k.2
    · exact d
  · cases h; exact l

theorem execExpiry_sound {s t : State} (l : s.Sound) (h : execExpiry s = .next t) : t.Sound := by
  unfold execExpiry at h
  split at h
  · rename_i f hf
    have d := (State.still_dropField hf rfl).sound l
    have he : s.dropField.field.event = none := (State.fieldFront_some hf).1
    cases h
    unfold State.takeExpiry
    split
    · split
      · exact State.render_sound d.1 _ _ _ he (by simp) (by rw [d.2.none he]; simp)
      · split
        · have k := State.clearTick_laws d.1 f he (d.2.none he)
          exact State.render_sound k.1 _ _ _ he (by simp) k.2
        · exact d
    · exact d
  · cases h; exact l

theorem execSweepTrigger_sound {s t : State} (l : s.Sound) (h : execSweepTrigger s = .next t) : t.Sound := by
  unfold execSweepTrigger at h
  split at h
  · rename_i hf
    cases h
    exact ((State.still_dropField hf rfl).trans (State.still_trigger _)).sound l
  · cases h; exact l

theorem execSweepStep_sound {s t : State} (l : s.Sound) (h : execSweepStep s = .next t) : t.Sound := by
  unfold execSweepStep at h
  split at h
  · rename_i hf
    have w := (State.still_dropField hf rfl).trans (State.still_setSweep _ { s.dropField.field.sweep with stepOut := false })
    have d := w.sound l
    have he : s.dropField.field.event = none := (State.fieldFront_some hf).1
    cases h
    unfold State.takeStep
    dsimp only
    split
    · split
      · exact State.render_sound d.1 _ _ _ (by exact he) (by simp) (by rw [d.2.none (by exact he)]; simp)
      · exact (State.still_sweepAdvance _ _).sound d
    · exact d
  · cases h; exact l

theorem execRepaint_sound {s t : State} (l : s.Sound) (h : execRepaint s = .next t) : t.Sound := by
  unfold execRepaint at h
  split at h
  · rename_i hf
    cases h
    refine State.Still.sound ?_ ((State.still_dropField hf rfl).sound l)
    unfold State.takeRepaint
    dsimp only
    split
    · exact (State.still_trigger _).trans (State.still_setSweep _ _)
    · exact State.still_complete _ _ _
  · cases h; exact l

theorem execSetPen_sound {s t : State} (l : s.Sound) (h : execSetPen s = .next t) : t.Sound := by
  unfold execSetPen at h
  split at h
  · rename_i d hf
    have k := (State.still_dropField hf rfl).sound l
    have he : s.dropField.field.event = none := (State.fieldFront_some hf).1
    have e := fun (u : State) st w (lu : u.Laws) (hu : u.field.event = none) (hh : u.highlight.requests = []) =>
      State.endCommand_sound lu st w hu (by rw [hh]; simp)
    have hr := k.2.none he
    cases h
    unfold State.takeSetPen
    dsimp only
    split
    · split
      · exact e _ _ _ k.1 he hr
      · refine e _ _ _ (State.Still.laws ?_ k.1) he hr
        exact .of_units rfl rfl rfl rfl rfl
    · exact e _ _ _ k.1 he hr
  · cases h; exact l

/-- A new style that does not end the highlight: what the entries of the field say stays true. -/
theorem State.restyle_laws {s : State} (l : s.Laws) (f : Nat) (st : Style) (he : s.field.event = none)
    (hr : s.highlight.requests = []) :
    let u := s.setRecord f { s.record f with style := st }
    let v := if (s.record f).style.endsHighlight st then u.clearTick f else u
    v.Laws ∧ v.highlight.requests.length ≤ 1 ∧ v.field.event = none := by
  intro u v
  have nf : ∀ g, s.freeing g = false := fun g => by unfold State.freeing; rw [he]
  by_cases hend : (s.record f).style.endsHighlight st = true
  · have hv : v = u.clearTick f := if_pos hend
    rw [hv]
    refine ⟨?_, by simp [u, State.clearTick, State.setTick, hr], he⟩
    have w := l.tabs.records
    have w' := Tab.set_wf fieldSpec _ f { s.record f with style := st } w
    refine l.setRecords f { s.record f with style := st, tick := .steady } (s.highlight.requests ++ [.remove f]) _
      (Tab.set_wf _ _ _ _ w') (fun g => ?_) ⟨rfl, rfl, rfl, rfl, rfl⟩
      (fun e _ hq => ⟨by simp [hr], fun x => absurd (by rw [x]; simp) hq⟩)
      (fun g k hk => by simp [hr] at hk) (fun g hg => by rw [nf] at hg; simp at hg)
    refine (State.record_setRecord u f g _ w').trans ?_
    have uf : u.record f = if f = f ∧ f < 512 then _ else s.record f := s.record_setRecord f f _ w
    have ug : u.record g = if g = f ∧ f < 512 then _ else s.record g := s.record_setRecord f g _ w
    rw [uf, ug]
    by_cases e : g = f ∧ f < 512
    · simp [e.1, e.2]
    · simp only [e, if_false]
  · have hv : v = u := if_neg hend
    rw [hv]
    refine ⟨?_, by simp [u, hr], he⟩
    have keep : (s.record f).style.rule = .tick → st.rule = .tick := fun h => by
      by_contra x; simp [Style.endsHighlight, h, x] at hend
    have hold : st.hold = (s.record f).style.hold := by
      by_contra x; simp [Style.endsHighlight, x] at hend
    have a := l.setRecord f { s.record f with style := st } s.highlight.requests ⟨rfl, rfl, rfl, rfl, rfl⟩
      (fun e hq hm => ⟨hm, fun x => by
        have := l.highlights.entries e hq hm
        rw [x] at this
        exact ⟨keep this.2.1, this.2.2.1, by rw [hold]; exact this.2.2.2⟩⟩)
      (fun g k hk => by simp [hr] at hk) (fun g hg => by rw [nf] at hg; simp at hg)
    exact a

theorem execStyleField_sound {s t : State} (l : s.Sound) (h : execStyleField s = .next t) : t.Sound := by
  unfold execStyleField at h
  split at h
  · rename_i d hf
    have k := (State.still_dropField hf rfl).sound l
    have he : s.dropField.field.event = none := (State.fieldFront_some hf).1
    have hr := k.2.none he
    have e := fun st w => State.endCommand_sound k.1 st w he (by rw [hr]; simp)
    cases h
    unfold State.takeStyle
    dsimp only
    split
    · exact e _ _
    split
    · exact e _ _
    split
    · exact e _ _
    · rename_i st _
      have r := State.restyle_laws k.1 d.fieldNumber st he hr
      unfold State.restyle
      dsimp only at r ⊢
      generalize (if (s.dropField.record d.fieldNumber).style.endsHighlight st = true then _ else _ : State) = v at r ⊢
      split
      · exact State.render_sound r.1 _ _ _ r.2.2 (by simp) r.2.1
      · exact State.endCommand_sound r.1 _ _ r.2.2 r.2.1
  · cases h; exact l

/-! ### Spans -/

theorem State.occupancy_markSpan (s : State) (row col width : Nat) (v : Option Nat) (w : Tab.WF occSpec s.field.occupancy)
    (n : Nat) (hn : n < 6144) : (s.markSpan row col width v).field.occupancy.get occSpec n =
      if n ∈ s.spanCells row col width then v else s.field.occupancy.get occSpec n := get_markCells v n hn _ _ w

/-- What the check of R53 and R57 says of the cells of a span. -/
theorem State.spanTaken_false {s : State} {row col width : Nat} {p : Nat → Bool}
    (h : s.spanTaken row col width p = false) (n : Nat) (hn : n ∈ s.spanCells row col width) (g : Nat)
    (hg : s.field.occupancy.get occSpec n = some g) : p g = false := by
  unfold State.spanCells at hn
  obtain ⟨i, hi, rfl⟩ := List.mem_map.mp hn
  unfold State.spanTaken at h
  have := (List.any_eq_false.mp h) i hi
  unfold State.occupant at this
  rw [hg] at this
  simpa using this

theorem State.freeing_none {s : State} (he : s.field.event = none) (f : Nat) : s.freeing f = false := by
  unfold State.freeing; rw [he]

theorem State.moving_none {s : State} (he : s.field.event = none) (f : Nat) : s.moving f = false := by
  unfold State.moving; rw [State.moveWaiting_none he]

/-- The check of R53 and R57 passes when no cell of the span is named by a field that counts. -/
theorem State.spanTaken_of {s : State} {row col width : Nat} {p : Nat → Bool}
    (h : ∀ n ∈ s.spanCells row col width, ∀ g, s.field.occupancy.get occSpec n = some g → p g = false) :
    s.spanTaken row col width p = false := by
  unfold State.spanTaken
  rw [List.any_eq_false]
  intro i hi
  have := h (s.cellIndex row (col + i)) (List.mem_map.mpr ⟨i, hi, rfl⟩)
  unfold State.occupant
  split
  · simp
  · rename_i g e; simp [this g e]

/-- The cells of a span that lies within a legal geometry are cells of the plane. -/
theorem State.spanCells_lt {s : State} (hgeo : ∀ x, s.plane.geometry = some x → x.columns * x.rows ≤ 6144)
    {row col width : Nat} (hf : s.spanFits row col width = true) : ∀ n ∈ s.spanCells row col width, n < 6144 := by
  intro n hn
  obtain ⟨i, hi, rfl⟩ := List.mem_map.mp hn
  rw [List.mem_range] at hi
  unfold State.spanFits State.rows State.columns at hf
  unfold State.cellIndex State.columns
  cases e : s.plane.geometry with
  | none => rw [e] at hf; simp at hf
  | some x =>
    rw [e] at hf
    simp at hf ⊢
    have cap := hgeo x e
    have : (row + 1) * x.columns ≤ x.rows * x.columns := Nat.mul_le_mul_right _ hf.1.1
    rw [Nat.mul_comm x.columns] at cap
    rw [Nat.add_mul] at this
    omega

/-- A field that the occupancy map does not name takes a span in which it names none: the laws of the map after its
record and the map are written (R54, R58). -/
theorem State.SpansOk.settle {s t : State} (p : s.SpansOk) (hte : t.field.event = none) (f : Nat) (v : FieldRec)
    (hv : v.state = .bound) (hw : 1 ≤ v.width ∧ v.width ≤ 20) (hfit : s.spanFits v.row v.col v.width = true)
    (hfree : s.spanTaken v.row v.col v.width (fun _ => true) = false)
    (hname : ∀ n < 6144, ∀ g, s.field.occupancy.get occSpec n = some g ↔
      (s.record g).state = .bound ∧ g ≠ f ∧ n ∈ s.spanCells (s.record g).row (s.record g).col (s.record g).width)
    (hg : t.plane.geometry = s.plane.geometry)
    (hself : t.record f = v) (hother : ∀ g, g ≠ f → t.record g = s.record g)
    (hocc : ∀ n < 6144, t.field.occupancy.get occSpec n =
      if n ∈ s.spanCells v.row v.col v.width then some f else s.field.occupancy.get occSpec n) : t.SpansOk where
  widths g h := by
    by_cases e : g = f
    · subst e; rw [hself]; exact hw
    · rw [hother g e] at h ⊢; exact p.widths g h
  fits g h := by
    by_cases e : g = f
    · subst e; rw [hself, State.spanFits_congr hg]; exact hfit
    · rw [hother g e] at h ⊢; rw [State.spanFits_congr hg]; exact p.fits g h
  map n hn g := by
    have m := hname n hn
    rw [hocc n hn, State.freeing_none hte, State.moving_none hte, State.spanCells_congr hg]
    simp only [true_and]
    by_cases e : g = f
    · subst e
      rw [hself, hv]
      by_cases a : n ∈ s.spanCells v.row v.col v.width
      · simp [a]
      · simp only [a, if_false, and_false, iff_false]
        intro x
        exact ((m g).1 x).2.1 rfl
    · rw [hother g e]
      by_cases a : n ∈ s.spanCells v.row v.col v.width
      · simp only [a, if_true, Option.some.injEq, Ne.symm e, false_iff, not_and]
        intro x y
        have := State.spanTaken_false hfree n a g ((m g).2 ⟨x, e, y⟩)
        simp at this
      · simp only [a, if_false]
        rw [m g]
        exact ⟨fun x => ⟨x.1, x.2.2⟩, fun x => ⟨x.1, e, x.2⟩⟩
  moved m h := by rw [State.moveWaiting_none hte] at h; simp at h

/-- Entering the span of a record leaves this to be read. -/
theorem State.occupancy_entered (s : State) (w : Tab.WF occSpec s.field.occupancy) (f : Nat) (v : FieldRec)
    (wr : Tab.WF fieldSpec s.field.records) (hf : f < 512) (n : Nat) (hn : n < 6144) :
    (((s.setRecord f v).enterSpan f).field.occupancy.get occSpec n =
      if n ∈ s.spanCells v.row v.col v.width then some f else s.field.occupancy.get occSpec n) := by
  have rv : (s.setRecord f v).record f = v := by rw [State.record_setRecord _ f f v wr]; simp [hf]
  unfold State.enterSpan
  rw [State.occupancy_markSpan (s.setRecord f v) _ _ _ _ w n hn, rv]
  rfl

theorem State.not_free_lt {s : State} {f : Nat} (h : (s.record f).state ≠ .free) : f < 512 := by
  by_contra e
  rw [s.record_high f (by omega)] at h
  exact h rfl

/-- The map of a field that it does not name. -/
def State.Unnamed (s : State) (f : Nat) : Prop := ∀ n < 6144, ∀ g, s.field.occupancy.get occSpec n = some g ↔
  (s.record g).state = .bound ∧ g ≠ f ∧ n ∈ s.spanCells (s.record g).row (s.record g).col (s.record g).width

/-- A move that is made keeps the laws: of a field that the map does not name, to a span in which it names none. -/
theorem State.makeMove_sound {s : State} (l : s.Sound) (m : FieldMove) (hc : s.field.command = none)
    (hfr : ∀ g, s.freeing g = false) (hname : s.Unnamed m.field) (f512 : m.field < 512)
    (hnf : (s.record m.field).state ≠ .free) (hw : 1 ≤ m.width ∧ m.width ≤ 20)
    (hfit : s.spanFits m.row m.col m.width = true)
    (hclear : s.spanTaken m.row m.col m.width (fun _ => true) = false) :
    ({ s with field := { s.field with event := none } }.makeMove m).Sound := by
  have wr := l.1.tabs.records
  have wo := l.1.tabs.occupancy
  have hr := l.2
  unfold State.makeMove
  generalize hs' : ({ s with field := { s.field with event := none } } : State) = s'
  have rs : ∀ g, s'.record g = s.record g := fun g => by rw [← hs']; rfl
  rw [rs]
  generalize hv : (s.record m.field).movedTo m.row m.col m.width = v
  generalize hu : (s'.setRecord m.field v).enterSpan m.field = u
  have ue : u.field.event = none := by rw [← hu, ← hs']; rfl
  have rc : ∀ g, u.record g = if g = m.field then v else s.record g := fun g => by
    have := s.record_setRecord m.field g v wr
    rw [← hu, ← hs']
    exact this.trans (by simp [f512])
  have uo := s.occupancy_entered wo m.field v wr f512
  have L : u.Laws := by
    refine ⟨⟨by rw [← hu, ← hs']; exact l.1.tabs.slots, by rw [← hu, ← hs']; exact l.1.tabs.heads,
      by rw [← hu, ← hs']; exact Tab.set_wf _ _ _ _ wr, by rw [← hu, ← hs']; exact markCells_wf _ _ _ wo⟩,
      by rw [← hu, ← hs']; exact l.1.chains, ?_, ?_, ?_, by rw [← hu, ← hs']; exact l.1.overlays⟩
    · have sl : ∀ i, u.slot i = s.slot i := fun i => by rw [← hu, ← hs']; rfl
      refine l.1.bindings.congrIdle hc (fun i => by rw [sl]) (fun i => by rw [sl]; exact l.1.bindings.free i) (fun g => ?_)
        (by rw [← hu, ← hs']; exact hc) (fun g => by rw [State.freeing_none ue, hfr]) (by rw [← hu, ← hs']; rfl)
        (by rw [← hu, ← hs']; rfl)
      rw [rc]; split
      · rename_i x; subst x; rw [← hv]; simpa [FieldRec.movedTo] using hnf
      · exact ⟨Iff.rfl, rfl⟩
    · exact l.1.spans.settle ue m.field v (by rw [← hv]; rfl) (by rw [← hv]; exact hw) (by rw [← hv]; exact hfit)
        (by rw [← hv]; exact hclear) hname (by rw [← hu, ← hs']; rfl) (by rw [rc]; simp)
        (fun g e => by rw [rc]; simp [e]) (fun n hn => by rw [← hu, ← hs']; exact uo n hn)
    · refine l.1.highlights.congr (by rw [← hu, ← hs']; rfl) (by rw [← hu, ← hs']; rfl) (fun g x => ?_)
        (fun g x => by rw [State.freeing_none ue] at x; simp at x)
      rw [rc]; split
      · rename_i y; subst y; rw [← hv]; exact ⟨rfl, rfl, rfl⟩
      · exact ⟨x, rfl, rfl⟩
  refine State.render_sound L _ _ _ ue (by simp) ?_
  rw [← hu, ← hs']
  have : s.highlight.requests.length ≤ s.field.event.isSome.toNat := hr
  have b : s.field.event.isSome.toNat ≤ 1 := by cases s.field.event <;> simp
  show s.highlight.requests.length ≤ 1
  omega

/-- A field whose move waits is named nowhere in the map. -/
theorem State.SpansOk.unnamed {s : State} (p : s.SpansOk) (m : FieldMove) (hm : s.moveWaiting = some m)
    (hfr : ∀ g, s.freeing g = false) : s.Unnamed m.field := fun n hn g => by
  rw [p.map n hn g, hfr]
  have : s.moving g = decide (m.field = g) := by unfold State.moving; rw [hm]
  rw [this]
  simp [eq_comm]

/-- After a span write of an event is sent, the move it waited for or the end of the event keeps the laws. -/
theorem State.spanSent_sound {s : State} (l : s.Sound) (hc : ∀ f, s.freeing f = true → s.field.command = none)
    (hm : s.moveWaiting ≠ none → s.field.command = none) : s.spanSent.Sound := by
  unfold State.spanSent
  split
  · rename_i m he
    have mw : s.moveWaiting = some m := by unfold State.moveWaiting; rw [he]
    have fr : ∀ g, s.freeing g = false := fun g => by unfold State.freeing; rw [he]
    have o := l.1.spans.moved m mw
    exact State.makeMove_sound l m (hm (by rw [mw]; simp)) fr (l.1.spans.unnamed m mw fr) o.field
      (by rw [o.bound]; simp) o.width o.fits o.clear
  · exact State.fieldFinish_sound l hc

theorem execSpanQueueRoom_sound {s t : State} (l : s.Sound)
    (hc : ∀ f, s.freeing f = true → s.field.command = none)
    (hm : s.moveWaiting ≠ none → s.field.command = none) (h : execSpanQueueRoom s = .next t) : t.Sound := by
  unfold execSpanQueueRoom at h
  split at h
  · cases h; exact l
  · rename_i e he
    split at h
    · cases h; exact l
    · rename_i w rest hw
      split at h <;> cases h
      · unfold State.sendSpan
        have fr : ∀ f, State.freeing { s.sendPlanes [.span w] with field := { s.field with event := some { e with spans := rest } } } f
            = s.freeing f := fun f => by
          unfold State.freeing
          rw [he]
          obtain ⟨sp, a⟩ := e
          cases a <;> rfl
        have mv : State.moveWaiting { s.sendPlanes [.span w] with field := { s.field with event := some { e with spans := rest } } }
            = s.moveWaiting := by
          unfold State.moveWaiting
          rw [he]
          obtain ⟨sp, a⟩ := e
          cases a <;> rfl
        refine State.spanSent_sound ⟨((s.still_sendPlanes [.span w]).laws l.1).setEvent _ fr mv, ?_⟩ (fun f x => ?_) fun x => ?_
        · have := l.2; unfold State.One at *; rw [he] at this; exact this
        · exact hc f ((fr f).symm.trans x)
        · exact hm fun y => x (mv.trans y)
      · exact l

/-- The old span of a BOUND field is cleared, and its move waits (R58). -/
theorem State.liftField_sound {s : State} (l : s.Sound) (m : FieldMove) (sp : List SpanWrite)
    (he : s.field.event = none) (hc : s.field.command = none) (hb : s.isBound m.field = true) (f512 : m.field < 512)
    (hw : 1 ≤ m.width ∧ m.width ≤ 20) (hfit : s.spanFits m.row m.col m.width = true)
    (hgeo : ∀ x, s.plane.geometry = some x → x.columns * x.rows ≤ 6144)
    (hov : s.spanTaken m.row m.col m.width (fun g => decide (g ≠ m.field)) = false) (u : State)
    (hu : { s.clearSpan m.field with
      field := { (s.clearSpan m.field).field with event := some ⟨sp, .moveTo m⟩ } } = u) : u.Sound := by
  have wo := l.1.tabs.occupancy
  have hr := l.2.none he
  have bound : (s.record m.field).state = .bound := by simpa [State.isBound] using hb
  have mw : u.moveWaiting = some m := by rw [← hu]; rfl
  have fr : ∀ g, u.freeing g = false := fun g => by rw [← hu]; rfl
  have rc : ∀ g, u.record g = s.record g := fun g => by rw [← hu]; rfl
  have geo : u.plane.geometry = s.plane.geometry := by rw [← hu]; rfl
  have uo : ∀ n < 6144, u.field.occupancy.get occSpec n =
      if n ∈ s.spanCells (s.record m.field).row (s.record m.field).col (s.record m.field).width then none
      else s.field.occupancy.get occSpec n := fun n hn => by
    rw [← hu]; exact s.occupancy_markSpan _ _ _ _ wo n hn
  have map : ∀ n < 6144, ∀ g, s.field.occupancy.get occSpec n = some g ↔
      (s.record g).state = .bound ∧ n ∈ s.spanCells (s.record g).row (s.record g).col (s.record g).width := fun n hn g => by
    rw [l.1.spans.map n hn g, State.freeing_none he, State.moving_none he]; simp
  refine ⟨⟨⟨by rw [← hu]; exact l.1.tabs.slots, by rw [← hu]; exact l.1.tabs.heads, by rw [← hu]; exact l.1.tabs.records,
    by rw [← hu]; exact markCells_wf _ _ _ wo⟩, by rw [← hu]; exact l.1.chains, ?_, ?_, ?_,
    by rw [← hu]; exact l.1.overlays⟩, by rw [← hu]; show s.highlight.requests.length ≤ _; rw [hr]; simp⟩
  · have sl : ∀ i, u.slot i = s.slot i := fun i => by rw [← hu]; rfl
    exact l.1.bindings.congrIdle hc (fun i => by rw [sl]) (fun i => by rw [sl]; exact l.1.bindings.free i)
      (fun g => by rw [rc]; exact ⟨Iff.rfl, rfl⟩) (by rw [← hu]; exact hc)
      (fun g => by rw [fr, State.freeing_none he]) (by rw [← hu]; rfl) (by rw [← hu]; rfl)
  · refine ⟨fun g h => by rw [rc] at h ⊢; exact l.1.spans.widths g h, fun g h => by
      rw [rc] at h ⊢; rw [State.spanFits_congr geo]; exact l.1.spans.fits g h, fun n hn g => ?_, fun k hk => ?_⟩
    · have mv : u.moving g = decide (m.field = g) := by unfold State.moving; rw [mw]
      rw [uo n hn, rc, fr, mv, State.spanCells_congr geo]
      by_cases e : m.field = g
      · subst e
        simp only [decide_true, reduceCtorEq, false_and, and_false, iff_false]
        split
        · simp
        · rename_i nb
          rw [map n hn]
          exact fun x => nb x.2
      · simp only [e, decide_false, true_and]
        split
        · rename_i a
          have o := (map n hn m.field).2 ⟨bound, a⟩
          have := map n hn g
          rw [o] at this
          simp only [Option.some.injEq, e, false_iff] at this
          simpa using this
        · exact map n hn g
    · have : k = m := by rw [mw] at hk; exact (Option.some.inj hk).symm
      subst this
      refine ⟨f512, by rw [rc]; exact bound, hw, by rw [State.spanFits_congr geo]; exact hfit, ?_⟩
      refine State.spanTaken_of fun n hn g hg => ?_
      rw [State.spanCells_congr geo] at hn
      have n6 := State.spanCells_lt hgeo hfit n hn
      rw [uo n n6] at hg
      split at hg
      · simp at hg
      · rename_i na
        have := State.spanTaken_false hov n hn g hg
        have e : g = k.field := by simpa using this
        subst e
        exact absurd ((map n n6 _).1 hg).2 na
  · exact l.1.highlights.congr (by rw [← hu]; rfl) (by rw [← hu]; rfl) (fun g x => by rw [rc]; exact ⟨x, rfl, rfl⟩)
      (fun g x => by rw [fr] at x; simp at x)

theorem State.event_none_eq {s : State} (he : s.field.event = none) :
    ({ s with field := { s.field with event := none } } : State) = s := by
  obtain ⟨ports, probe, rings, memory, quote, field, highlight, plane, video, control, resetHeld, freeCount, pending⟩ := s
  obtain ⟨records, occupancy, absentGlyph, sweep, inbox, event, command⟩ := field
  simp only at he
  subst he
  rfl

theorem execMoveField_sound {s t : State} (l : s.Sound) (o : s.OneEach)
    (hgeo : ∀ x, s.plane.geometry = some x → x.columns * x.rows ≤ 6144) (h : execMoveField s = .next t) : t.Sound := by
  unfold execMoveField at h
  split at h
  · rename_i d hf
    have hcs := (o.fieldCommand _ hf rfl).1
    have k := (State.still_dropField hf rfl).sound l
    have he : s.dropField.field.event = none := (State.fieldFront_some hf).1
    have hc : s.dropField.field.command = none := hcs
    have hr := k.2.none he
    have e := fun st w => State.endCommand_sound k.1 st w he (by rw [hr]; simp)
    have hg : ∀ x, s.dropField.plane.geometry = some x → x.columns * x.rows ≤ 6144 := hgeo
    cases h
    generalize s.dropField = s at k he hc hr e hg
    unfold State.takeMove
    dsimp only
    split
    · exact e _ _
    split
    · exact e _ _
    split
    · exact e _ _
    split
    · exact e _ _
    rename_i hlt hnf hfit hov
    have f512 : d.fieldNumber < 512 := by omega
    simp only [not_or, Bool.not_eq_true, Bool.not_eq_eq_eq_not, Bool.not_true] at hfit hov
    have hw : 1 ≤ d.fieldWidth ∧ d.fieldWidth ≤ 20 := by omega
    have hft : s.spanFits d.fieldRow d.fieldCol d.fieldWidth = true := Bool.not_eq_false _ ▸ hfit.2.2
    unfold State.moveField
    dsimp only
    split
    · rename_i hb
      have lift := fun sp => State.liftField_sound k ⟨d.fieldNumber, d.fieldRow, d.fieldCol, d.fieldWidth⟩ sp he hc hb f512 hw hft hg hov
        _ rfl
      split
      · unfold State.sendSpan
        dsimp only
        refine State.spanSent_sound (State.Still.sound ?_ (lift [])) (fun f x => hc) fun x => hc
        exact State.still_sendPlanes _ [_]
      · exact lift _
    · rename_i hb
      have name : s.Unnamed d.fieldNumber := fun n hn g => by
        rw [k.1.spans.map n hn g, State.freeing_none he, State.moving_none he]
        constructor
        · rintro ⟨x, _, _, y⟩
          exact ⟨x, fun z => hb (by subst z; simp [State.isBound, x]), y⟩
        · rintro ⟨x, _, y⟩
          exact ⟨x, rfl, rfl, y⟩
      have clear : s.spanTaken d.fieldRow d.fieldCol d.fieldWidth (fun _ => true) = false :=
        State.spanTaken_of fun n hn g hx => by
          have := State.spanTaken_false hov n hn g hx
          have z : g = d.fieldNumber := by simpa using this
          subst z
          exact absurd rfl ((name n (State.spanCells_lt hg hft n hn) _).1 hx).2.1
      have q := State.makeMove_sound k ⟨d.fieldNumber, d.fieldRow, d.fieldCol, d.fieldWidth⟩ hc (State.freeing_none he) name f512
        hnf hw hft clear
      rw [State.event_none_eq he] at q
      exact q
  · cases h; exact l

/-- The only answer under way is the front request. -/
theorem State.BindingsOk.lastAnswer {s : State} (b : s.BindingsOk) {q : FieldRequest} {rest : List FieldRequest}
    (hi : s.field.inbox = q :: rest) (hq : q.answersBinding = true) :
    rest.countP FieldRequest.answersBinding = 0 ∧ s.quote.inbox.countP QuoteRequest.isBinding = 0 := by
  have := b.one
  rw [hi, List.countP_cons, if_pos hq] at this
  have c : s.field.command.isSome.toNat ≤ 1 := by cases s.field.command <;> simp
  constructor <;> omega

/-- The only request under way is the front one. -/
theorem State.BindingsOk.lastAsk {s : State} (b : s.BindingsOk) {q : QuoteRequest} {rest : List QuoteRequest}
    (hi : s.quote.inbox = q :: rest) (hq : q.isBinding = true) :
    rest.countP QuoteRequest.isBinding = 0 ∧ s.field.inbox.countP FieldRequest.answersBinding = 0 ∧
      s.field.command.isSome = true := by
  have := b.one
  rw [hi, List.countP_cons, if_pos hq] at this
  cases h : s.field.command <;> rw [h] at this <;> simp only [Option.isSome_some, Option.isSome_none, Bool.toNat_true, Bool.toNat_false] at this ⊢ <;>
    refine ⟨?_, ?_, ?_⟩ <;> first | omega | rfl | trivial

/-- The BIND_FIELD or UNBIND_FIELD in progress ends without having changed a table. -/
theorem State.Laws.dropInProgress {s : State} (l : s.Laws) {q : FieldRequest} (h : s.fieldFront = some q)
    (hq : q.answersBinding = true) (hno : ∀ f, s.inTransit f → s.freeing f = true) : s.dropField.dropCommand.Laws := by
  obtain ⟨he, rest, hi⟩ := State.fieldFront_some h
  have z := l.bindings.lastAnswer hi hq
  have tr : ∀ f, State.inTransit s.dropField.dropCommand f ↔ s.inTransit f := fun f => by
    rw [State.inTransit_of_zero (by simpa [State.dropCommand, State.dropField, hi] using z.1)]
    exact ⟨fun x => .inr (.inr x), fun x => hno f x⟩
  refine ⟨⟨l.tabs.slots, l.tabs.heads, l.tabs.records, l.tabs.occupancy⟩, l.chains, ?_, l.spans.congr
    (fun _ => ⟨rfl, rfl, rfl, rfl⟩) (fun _ => rfl) rfl rfl, l.highlights.congr rfl rfl (fun _ x => ⟨x, rfl, rfl⟩) (fun _ x => x),
    l.overlays⟩
  refine .of_facts (l.bindings.base.congr (fun _ => rfl) l.bindings.free (fun _ => ⟨Iff.rfl, rfl⟩) (fun _ => rfl) tr) ?_ ?_ ?_
  · simp [State.dropCommand, State.dropField, hi, z.1, z.2]
  · exact State.asks_of_zero z.2
  · exact State.answers_of_zero (by simpa [State.dropCommand, State.dropField, hi] using z.1)

theorem execBindField_sound {s t : State} (l : s.Sound) (o : s.OneEach) (h : execBindField s = .next t) : t.Sound := by
  unfold execBindField at h
  split at h
  · rename_i d hf
    have hcs := (o.fieldCommand _ hf rfl).1
    have k := (State.still_dropField hf rfl).sound l
    have he : s.dropField.field.event = none := (State.fieldFront_some hf).1
    have hc : s.dropField.field.command = none := hcs
    have hr := k.2.none he
    have e := fun st w => State.endCommand_sound k.1 st w he (by rw [hr]; simp)
    cases h
    generalize s.dropField = s at k he hc hr e
    unfold State.takeBind
    dsimp only
    split
    · exact e _ _
    split
    · exact e _ _
    rename_i x hx
    split
    · rename_i hlt _ hfr
      have one := k.1.bindings.one
      rw [hc] at one
      simp only [Option.isSome_none, Bool.toNat_false] at one
      have zq : s.quote.inbox.countP QuoteRequest.isBinding = 0 := by omega
      have za : s.field.inbox.countP FieldRequest.answersBinding = 0 := by omega
      refine ⟨⟨⟨k.1.tabs.slots, k.1.tabs.heads, k.1.tabs.records, k.1.tabs.occupancy⟩, k.1.chains.congr rfl rfl, ?_, k.1.spans.congr
        (fun _ => ⟨rfl, rfl, rfl, rfl⟩) (fun _ => rfl) rfl rfl, k.1.highlights.congr rfl rfl (fun _ x => ⟨x, rfl, rfl⟩) (fun _ x => x),
        k.1.overlays⟩, k.2⟩
      refine .of_facts (k.1.bindings.base.congr (fun _ => rfl) k.1.bindings.free (fun _ => ⟨Iff.rfl, rfl⟩) (fun _ => rfl)
        (fun _ => Iff.rfl)) ?_ ?_ ?_
      · simp [zq, za, QuoteRequest.isBinding]
      · intro q hq
        rcases List.mem_append.mp hq with hq | hq
        · exact State.asks_of_zero zq q hq
        · simp at hq; subst hq
          exact ⟨d, rfl, by omega, by rw [hx]; rfl, hfr⟩
      · exact State.answers_of_zero za
    · exact e _ _
  · cases h; exact l

theorem execUnbindField_sound {s t : State} (l : s.Sound) (o : s.OneEach) (h : execUnbindField s = .next t) : t.Sound := by
  unfold execUnbindField at h
  split at h
  · rename_i d hf
    have hcs := (o.fieldCommand _ hf rfl).1
    have k := (State.still_dropField hf rfl).sound l
    have he : s.dropField.field.event = none := (State.fieldFront_some hf).1
    have hc : s.dropField.field.command = none := hcs
    have hr := k.2.none he
    have e := fun st w => State.endCommand_sound k.1 st w he (by rw [hr]; simp)
    cases h
    generalize s.dropField = s at k he hc hr e
    unfold State.takeUnbind
    dsimp only
    split
    · exact e _ _
    split
    · exact e _ _
    · rename_i hfr
      have one := k.1.bindings.one
      rw [hc] at one
      simp only [Option.isSome_none, Bool.toNat_false] at one
      have zq : s.quote.inbox.countP QuoteRequest.isBinding = 0 := by omega
      have za : s.field.inbox.countP FieldRequest.answersBinding = 0 := by omega
      refine ⟨⟨⟨k.1.tabs.slots, k.1.tabs.heads, k.1.tabs.records, k.1.tabs.occupancy⟩, k.1.chains.congr rfl rfl, ?_, k.1.spans.congr
        (fun _ => ⟨rfl, rfl, rfl, rfl⟩) (fun _ => rfl) rfl rfl, k.1.highlights.congr rfl rfl (fun _ x => ⟨x, rfl, rfl⟩) (fun _ x => x),
        k.1.overlays⟩, k.2⟩
      refine .of_facts (k.1.bindings.base.congr (fun _ => rfl) k.1.bindings.free (fun _ => ⟨Iff.rfl, rfl⟩) (fun _ => rfl)
        (fun _ => Iff.rfl)) ?_ ?_ ?_
      · simp [zq, za, QuoteRequest.isBinding]
      · intro q hq
        rcases List.mem_append.mp hq with hq | hq
        · exact State.asks_of_zero zq q hq
        · simp at hq; subst hq; exact hfr
      · exact State.answers_of_zero za
  · cases h; exact l

theorem execLookupResult_sound {s t : State} (l : s.Sound) (h : execLookupResult s = .next t) : t.Sound := by
  unfold execLookupResult at h
  split at h
  · rename_i x d hf hc
    obtain ⟨he, rest, hi⟩ := State.fieldFront_some hf
    have z := l.1.bindings.lastAnswer hi rfl
    obtain ⟨d', hb, hroom⟩ := l.1.bindings.found x (by rw [hi]; simp)
    have hd : d' = d := by have := hb.1; rw [hc] at this; exact (Option.some.inj this).symm
    subst hd
    have hr := l.2.none he
    have no : ∀ f, s.inTransit f → s.freeing f = true := fun f tr => by
      rcases tr with ⟨i, m⟩ | m | m
      · rw [hi] at m; simp at m
        exact absurd rfl (List.countP_eq_zero.mp z.1 _ m)
      · rw [hi] at m; simp at m
        exact absurd rfl (List.countP_eq_zero.mp z.1 _ m)
      · exact m
    have D := l.1.dropInProgress hf rfl no
    have e := fun st w => State.endCommand_sound D st w he (by
      show s.highlight.requests.length ≤ 1; rw [hr]; simp)
    cases h
    unfold State.takeLookupResult
    dsimp only
    split
    · exact e _ _
    · exact e _ _
    · split
      · exact e _ _
      · split
        · exact e _ _
        · rename_i i hfit hov
          have cf : s.dropField.spanFits d'.fieldRow d'.fieldCol d'.fieldWidth = true := by simpa using hfit
          have co : s.dropField.spanTaken d'.fieldRow d'.fieldCol d'.fieldWidth (fun _ => true) = false := by simpa using hov
          refine ⟨⟨⟨l.1.tabs.slots, l.1.tabs.heads, l.1.tabs.records, l.1.tabs.occupancy⟩, l.1.chains.congr rfl rfl, ?_, l.1.spans.congr
            (fun _ => ⟨rfl, rfl, rfl, rfl⟩) (fun _ => rfl) rfl rfl, l.1.highlights.congr rfl rfl (fun _ x => ⟨x, rfl, rfl⟩) (fun _ x => x),
            l.1.overlays⟩, l.2⟩
          refine .of_facts (l.1.bindings.base.congr (fun _ => rfl) l.1.bindings.free (fun _ => ⟨Iff.rfl, rfl⟩) (fun _ => rfl)
            (fun f => ?_)) ?_ ?_ ?_
          · rw [State.inTransit_of_zero (by simpa [State.dropField, hi] using z.1)]
            exact ⟨fun x => .inr (.inr x), fun x => no f x⟩
          · simp [State.dropField, hi, z.1, z.2, QuoteRequest.isBinding, hc]
          · intro q hq
            rcases List.mem_append.mp hq with hq | hq
            · exact State.asks_of_zero z.2 q hq
            · simp at hq; subst hq
              exact ⟨d', hb, rfl, ⟨cf, co⟩, hroom i rfl⟩
          · exact State.answers_of_zero (by simpa [State.dropField, hi] using z.1)
  · cases h; exact l

theorem execAppendCompletion_sound {s t : State} (l : s.Sound) (h : execAppendCompletion s = .next t) : t.Sound := by
  unfold execAppendCompletion at h
  split at h
  · rename_i f i d hf hc
    obtain ⟨he, rest, hi⟩ := State.fieldFront_some hf
    have z := l.1.bindings.lastAnswer hi rfl
    obtain ⟨d', hb, hfn, hclear, hmem⟩ := l.1.bindings.appended f i (by rw [hi]; simp)
    have hd : d' = d := by have := hb.1; rw [hc] at this; exact (Option.some.inj this).symm
    subst hd
    have hr := l.2.none he
    have f512 : f < 512 := by rw [hfn]; exact hb.2.1
    have hfree : (s.record f).state = .free := by rw [hfn]; exact hb.2.2.2
    have wr := l.1.tabs.records
    have wo := l.1.tabs.occupancy
    cases h
    unfold State.takeAppendDone
    have form := hb.2.2.1
    split
    · rename_i hx; rw [hx] at form; simp at form
    rename_i item st hx
    have width : 1 ≤ d'.fieldWidth ∧ d'.fieldWidth ≤ 20 := by
      unfold Descriptor.bindForm at hx
      split at hx
      · split at hx
        · assumption
        · simp at hx
      · simp at hx
    generalize hv : boundRecord d' i item st = v
    generalize hu : (s.dropField.dropCommand.setRecord f v).enterSpan f = u
    have nb : s.isBound f = false := by simp [State.isBound, hfree]
    have ue : u.field.event = none := by rw [← hu]; exact he
    have rc : ∀ g, u.record g = if g = f then v else s.record g := fun g => by
      have := s.record_setRecord f g v wr
      rw [← hu]
      exact this.trans (by simp [f512])
    have uo : ∀ n < 6144, u.field.occupancy.get occSpec n =
        if n ∈ s.spanCells v.row v.col v.width then some f else s.field.occupancy.get occSpec n := fun n hn => by
      rw [← hu]; exact s.occupancy_entered wo f v wr f512 n hn
    have sl : ∀ j, u.slot j = s.slot j := fun j => by rw [← hu]; rfl
    have tru : ∀ g, ¬u.inTransit g := fun g x => by
      rw [State.inTransit_of_zero (by rw [← hu]; simpa [State.enterSpan, State.markSpan, State.setRecord, State.dropCommand, State.dropField, hi] using z.1),
        State.freeing_none ue] at x
      simp at x
    have trs : ∀ g, g ≠ f → ¬s.inTransit g := fun g e x => by
      rcases x with ⟨j, m⟩ | m | m
      · rw [hi] at m; simp at m
        rcases m with m | m
        · exact e m.1
        · exact absurd rfl (List.countP_eq_zero.mp z.1 _ m)
      · rw [hi] at m; simp at m
        exact absurd rfl (List.countP_eq_zero.mp z.1 _ m)
      · rw [State.freeing_none he] at m; simp at m
    have L : u.Laws := by
      have b := l.1.bindings
      refine ⟨⟨by rw [← hu]; exact l.1.tabs.slots, by rw [← hu]; exact l.1.tabs.heads, by rw [← hu]; exact Tab.set_wf _ _ _ _ wr,
        by rw [← hu]; exact markCells_wf _ _ _ wo⟩, by rw [← hu]; exact l.1.chains, ?_, ?_, ?_, by rw [← hu]; exact l.1.overlays⟩
      · refine .of_facts ⟨fun j => by rw [sl]; exact b.free j, fun j => by rw [sl]; exact b.lists j, fun j k g => by
          rw [sl, sl]; exact b.apart j k g, fun g _ x => ?_, fun g j _ x => ?_, fun g x => by
          rw [State.freeing_none ue] at x; simp at x⟩ ?_ ?_ ?_
        · rw [rc] at x ⊢
          split
          · rename_i e; subst e; rw [sl, ← hv]; exact hmem
          · rename_i e; rw [if_neg e] at x; rw [sl]; exact b.bound g (trs g e) x
        · rw [sl] at x
          rw [rc]
          split
          · rename_i e; subst e; rw [← hv]; exact ⟨by simp [boundRecord], b.apart _ _ _ hmem x⟩
          · rename_i e; exact b.listed g j (trs g e) x
        · rw [← hu]; simp [State.enterSpan, State.markSpan, State.setRecord, State.dropCommand, State.dropField, hi, z.1, z.2]
        · rw [← hu]; exact State.asks_of_zero z.2
        · rw [← hu]; exact State.answers_of_zero (by
            simpa [State.enterSpan, State.markSpan, State.setRecord, State.dropCommand, State.dropField, hi] using z.1)
      · refine l.1.spans.settle ue f v (by rw [← hv]; rfl) (by rw [← hv]; exact width) (by rw [← hv]; exact hclear.1)
          (by rw [← hv]; exact hclear.2) (fun n hn g => ?_) (by rw [← hu]; rfl)
          (by rw [rc]; simp) (fun g e => by rw [rc]; simp [e]) uo
        rw [l.1.spans.map n hn g, State.freeing_none he, State.moving_none he]
        constructor
        · rintro ⟨x, _, _, y⟩
          exact ⟨x, fun z => by rw [z, hfree] at x; simp at x, y⟩
        · rintro ⟨x, _, y⟩
          exact ⟨x, rfl, rfl, y⟩
      · refine l.1.highlights.congr (by rw [← hu]; rfl) (by rw [← hu]; rfl) (fun g x => ?_)
          (fun g x => by rw [State.freeing_none ue] at x; simp at x)
        rw [rc]
        split
        · rename_i e; subst e; rw [hfree] at x; simp at x
        · exact ⟨x, rfl, rfl⟩
    exact State.render_sound L _ _ _ ue (by simp) (by rw [← hu]; show s.highlight.requests.length ≤ 1; rw [hr]; simp)
  · cases h; exact l

theorem execRemovalCompletion_sound {s t : State} (l : s.Sound) (h : execRemovalCompletion s = .next t) : t.Sound := by
  unfold execRemovalCompletion at h
  split at h
  · rename_i f d hf hc
    obtain ⟨he, rest, hi⟩ := State.fieldFront_some hf
    have z := l.1.bindings.lastAnswer hi rfl
    have rm := l.1.bindings.removed f (.inl (by rw [hi]; simp))
    have hr := l.2.none he
    have wo := l.1.tabs.occupancy
    cases h
    unfold State.takeRemovalDone
    dsimp only
    have bd : s.dropField.isBound f = s.isBound f := rfl
    rw [bd]
    generalize hw : fieldResult f (s.dropField.record f).slot FieldState.free = w
    generalize (if (s.isBound f && d.blankFlag) = true then [s.dropField.blankWrite f d.blankCell] else []) = spans
    generalize hu : ((if s.isBound f = true then s.dropField.dropCommand.clearSpan f else s.dropField.dropCommand).sendHighlight
      (.remove f)) = u
    have ue : u.field.event = none := by rw [← hu]; split <;> exact he
    have uh : u.highlight = { s.highlight with requests := s.highlight.requests ++ [.remove f] } := by rw [← hu]; split <;> rfl
    have up : u.plane = s.plane := by rw [← hu]; split <;> rfl
    have uq : u.quote = s.quote := by rw [← hu]; split <;> rfl
    have uc : u.field.command = none := by rw [← hu]; split <;> rfl
    have ui : u.field.inbox = rest := by rw [← hu]; split <;> simp [State.sendHighlight, State.clearSpan, State.markSpan, State.dropCommand, State.dropField, hi]
    have uv : u.video = s.video := by rw [← hu]; split <;> rfl
    have ur : u.field.records = s.field.records := by rw [← hu]; split <;> rfl
    have uw : Tab.WF occSpec u.field.occupancy := by
      rw [← hu]; split
      · exact markCells_wf _ _ _ wo
      · exact wo
    have uo : ∀ n < 6144, u.field.occupancy.get occSpec n =
        if s.isBound f = true ∧ n ∈ s.spanCells (s.record f).row (s.record f).col (s.record f).width then none
        else s.field.occupancy.get occSpec n := fun n hn => by
      rw [← hu]
      by_cases b : s.isBound f = true
      · simp only [b, if_true, true_and]
        exact s.occupancy_markSpan _ _ _ _ wo n hn
      · simp [b]
    clear hu
    unfold State.beginEvent
    dsimp only
    generalize hv : ({ u.sendPlanes ((spans.take (64 - u.heldSpans)).map .span) with
      field := { (u.sendPlanes ((spans.take (64 - u.heldSpans)).map .span)).field with
        event := some ⟨spans.drop (64 - u.heldSpans), .freeAndComplete f w⟩ } } : State) = v
    have fv : ∀ g, v.freeing g = decide (f = g) := fun g => by rw [← hv]; rfl
    have rc : ∀ g, v.record g = s.record g := fun g => by rw [← hv]; unfold State.record; simp [ur]
    have sl : ∀ j, v.slot j = s.slot j := fun j => by rw [← hv]; unfold State.slot; simp [uq]
    have vi : v.field.inbox = rest := by rw [← hv]; exact ui
    have vq : v.quote = s.quote := by rw [← hv]; exact uq
    have vc : v.field.command = none := by rw [← hv]; exact uc
    have vh : v.highlight = { s.highlight with requests := s.highlight.requests ++ [.remove f] } := by rw [← hv]; exact uh
    have vg : v.plane.geometry = s.plane.geometry := by rw [← hv]; simp [up]
    have vs : v.plane.stack = s.plane.stack := by rw [← hv]; simp [up]
    have vo : v.field.occupancy = u.field.occupancy := by rw [← hv]; rfl
    have vr : v.field.records = s.field.records := by rw [← hv]; exact ur
    have ve : v.field.event.isSome = true := by rw [← hv]; rfl
    have vn : v.video = s.video := by rw [← hv]; exact uv
    have trv : ∀ g, v.inTransit g ↔ g = f := fun g => by
      rw [State.inTransit_of_zero (by rw [vi]; exact z.1), fv]
      simp [eq_comm]
    have trs : ∀ g, g ≠ f → ¬s.inTransit g := fun g e x => by
      rcases x with ⟨j, m⟩ | m | m
      · rw [hi] at m; simp at m
        exact absurd rfl (List.countP_eq_zero.mp z.1 _ m)
      · rw [hi] at m; simp at m
        rcases m with m | m
        · exact e m
        · exact absurd rfl (List.countP_eq_zero.mp z.1 _ m)
      · rw [State.freeing_none he] at m; simp at m
    refine State.fieldFinish_sound ⟨?_, ?_⟩ fun g _ => vc
    · have b := l.1.bindings
      refine ⟨⟨vq ▸ l.1.tabs.slots, vq ▸ l.1.tabs.heads, vr ▸ l.1.tabs.records, vo ▸ uw⟩, vq ▸ l.1.chains, ?_, ?_, ?_,
        vs ▸ l.1.overlays⟩
      · refine .of_facts ⟨fun j => by rw [sl]; exact b.free j, fun j => by rw [sl]; exact b.lists j, fun j k g => by
          rw [sl, sl]; exact b.apart j k g, fun g n x => ?_, fun g j n x => ?_, fun g x => ?_⟩ ?_ ?_ ?_
        · rw [trv] at n; rw [rc] at x ⊢; rw [sl]; exact b.bound g (trs g n) x
        · rw [trv] at n; rw [sl] at x; rw [rc]; exact b.listed g j (trs g n) x
        · rw [fv] at x
          have : f = g := by simpa using x
          subst this
          rw [rc]; exact ⟨rm.1, fun j => by rw [sl]; exact rm.2 j⟩
        · rw [vq, vi, vc]; simp [z.1, z.2]
        · rw [vq]; exact State.asks_of_zero z.2
        · rw [vi]; exact State.answers_of_zero z.1
      · refine ⟨fun g h => by rw [rc] at h ⊢; exact l.1.spans.widths g h, fun g h => ?_, fun n hn g => ?_, fun m hm => by
          rw [← hv] at hm; simp [State.moveWaiting] at hm⟩
        · rw [rc] at h ⊢; rw [State.spanFits_congr vg]; exact l.1.spans.fits g h
        · have m := l.1.spans.map n hn
          simp only [State.freeing_none he, State.moving_none he, true_and] at m
          have vm : v.moving g = false := by rw [← hv]; rfl
          rw [vo, uo n hn, fv, vm, rc, State.spanCells_congr vg]
          by_cases e : f = g
          · subst e
            simp only [decide_true, reduceCtorEq, false_and, and_false, iff_false]
            split
            · simp
            · rename_i nb
              rw [m f]
              rintro ⟨x, y⟩
              exact nb ⟨by simp [State.isBound, x], y⟩
          · simp only [e, decide_false, true_and]
            split
            · rename_i bb
              have o : s.field.occupancy.get occSpec n = some f := (m f).2 ⟨by simpa [State.isBound] using bb.1, bb.2⟩
              have := m g
              rw [o] at this
              simp only [Option.some.injEq, e, false_iff] at this
              simpa using this
            · simpa using m g
      · have hh := l.1.highlights
        have fr : ∀ g, s.freeing g = false := State.freeing_none he
        refine ⟨by rw [vh]; exact hh.fields, by rw [vh]; exact hh.order, by rw [vh]; exact hh.waiting, by rw [vh]; exact hh.holds,
          by rw [vh]; exact hh.frames, by rw [vh, vn]; exact hh.last, fun e he' hq => ?_, fun g k hk => ?_, fun g hg => ?_⟩
        · rw [vh] at he' hq ⊢
          rw [rc]
          exact hh.entries e he' (by rw [hr]; simp)
        · rw [vh] at hk; simp [hr] at hk
        · rw [fv] at hg
          have : f = g := by simpa using hg
          subst this
          rw [vh]; simp
    · unfold State.One
      rw [vh, ve]; simp [hr]
  · cases h; exact l

end Sys2Proof.Machine
end

