-- ==== Sys2Proof/Laws/LawfulHighlight.lean ====
section
/-! SUPPORT. The commands of the Highlight Timer, and the frame event, keep the laws of the tables and queues. -/

namespace Sys2Proof.Machine

/-! ### Requests taken (R76, R77) -/

/-- The Highlight Timer with another queue and no request outstanding. -/
theorem State.takenHighlight_laws {s : State} (l : s.Laws) (q : List HighlightEntry)
    (fields : (q.map HighlightEntry.field).Nodup)
    (order : q.Pairwise fun e g =>
      e.expired = true ∨ (g.expired = false ∧ s.highlight.remaining e ≤ s.highlight.remaining g))
    (waiting : ∀ e ∈ q, e.expired = false → 1 ≤ s.highlight.remaining e ∧ s.highlight.remaining e ≤ 255)
    (entries : ∀ e ∈ q, (s.record e.field).state = .bound ∧ (s.record e.field).style.rule = .tick ∧
      (s.record e.field).tick ≠ .steady ∧ s.highlight.holds.get (s.record e.field).style.hold ≠ 0)
    (freed : ∀ f, s.freeing f = true → f ∉ q.map HighlightEntry.field) :
    { s with highlight := { s.highlight with queue := q, requests := [] } }.Laws := by
  have h := l.highlights
  refine ⟨⟨l.tabs.slots, l.tabs.heads, l.tabs.records, l.tabs.occupancy⟩, l.chains,
    l.bindings.congr (fun _ => rfl) (fun i x _ => x.1) l.bindings.free (fun _ => ⟨rfl, rfl⟩) rfl (fun _ => rfl) rfl rfl rfl rfl,
    l.spans.congr (fun _ => ⟨rfl, rfl, rfl, rfl⟩) (fun _ => rfl) rfl rfl, ?_, l.overlays⟩
  exact ⟨fields, order, waiting, h.holds, h.frames, h.last, fun e he _ => entries e he, fun f k hk => by simp at hk,
    fun f hf => .inr ⟨rfl, freed f hf⟩⟩

theorem dropEntry_fields (q : List HighlightEntry) (f : Nat) : f ∉ (dropEntry q f).map HighlightEntry.field := by
  simp [dropEntry]

theorem State.dropEntry_facts {s : State} (l : s.Laws) (f : Nat)
    (hq : ∀ g, g ≠ f → HighlightRequest.remove g ∉ s.highlight.requests) :
    ((dropEntry s.highlight.queue f).map HighlightEntry.field).Nodup ∧
    ((dropEntry s.highlight.queue f).Pairwise fun e g =>
      e.expired = true ∨ (g.expired = false ∧ s.highlight.remaining e ≤ s.highlight.remaining g)) ∧
    (∀ e ∈ dropEntry s.highlight.queue f, e.expired = false →
      1 ≤ s.highlight.remaining e ∧ s.highlight.remaining e ≤ 255) ∧
    ∀ e ∈ dropEntry s.highlight.queue f, (s.record e.field).state = .bound ∧ (s.record e.field).style.rule = .tick ∧
      (s.record e.field).tick ≠ .steady ∧ s.highlight.holds.get (s.record e.field).style.hold ≠ 0 := by
  have h := l.highlights
  have sub : (dropEntry s.highlight.queue f).Sublist s.highlight.queue := List.filter_sublist
  refine ⟨h.fields.sublist (sub.map _), h.order.sublist sub, fun e he => h.waiting e (sub.subset he), fun e he => ?_⟩
  refine h.entries e (sub.subset he) (hq _ ?_)
  simpa using (List.mem_filter.mp he).2

/-- Where `takeWhile` stopped, the test fails. -/
theorem dropWhile_head {α : Type} (p : α → Bool) : ∀ (l : List α) (x : α) (r : List α), l.dropWhile p = x :: r → p x = false
  | [], _, _, h => by simp at h
  | y :: l, x, r, h => by
    by_cases hy : p y = true
    · rw [List.dropWhile_cons_of_pos hy] at h; exact dropWhile_head p l x r h
    · rw [List.dropWhile_cons_of_neg hy] at h
      injection h with h1 h2; subst h1; simpa using hy

theorem mem_takeWhile_true {α : Type} (p : α → Bool) : ∀ (l : List α) (x : α), x ∈ l.takeWhile p → p x = true
  | [], _, h => by simp at h
  | y :: l, x, h => by
    by_cases hy : p y = true
    · rw [List.takeWhile_cons_of_pos hy] at h
      rcases List.mem_cons.mp h with e | e
      · subst e; exact hy
      · exact mem_takeWhile_true p l x e
    · rw [List.takeWhile_cons_of_neg hy] at h; simp at h

/-- The place of a new entry (R76): the queue stays in order. -/
theorem insert_pairwise (h : HighlightTimer) (d : Nat) (x : HighlightEntry) (hx : x.expired = false)
    (hr : h.remaining x = d) (q : List HighlightEntry)
    (hq : q.Pairwise fun e g => e.expired = true ∨ (g.expired = false ∧ h.remaining e ≤ h.remaining g)) :
    (q.takeWhile (h.before d) ++ x :: q.dropWhile (h.before d)).Pairwise fun e g =>
      e.expired = true ∨ (g.expired = false ∧ h.remaining e ≤ h.remaining g) := by
  have split := List.takeWhile_append_dropWhile (p := h.before d) (l := q)
  have hq' := hq
  rw [← split, List.pairwise_append] at hq'
  refine List.pairwise_append.mpr ⟨hq'.1, List.pairwise_cons.mpr ⟨fun g hg => .inr ?_, hq'.2.1⟩, fun e he g hg => ?_⟩
  · cases hd : q.dropWhile (h.before d) with
    | nil => rw [hd] at hg; simp at hg
    | cons y rest =>
      have hy := dropWhile_head _ _ _ _ hd
      simp only [HighlightTimer.before, Bool.or_eq_false_iff, decide_eq_false_iff_not] at hy
      rw [hd] at hg hq'
      rcases List.mem_cons.mp hg with e | e
      · subst e; exact ⟨hy.1, by omega⟩
      · have := (List.pairwise_cons.mp hq'.2.1).1 g e
        rw [hy.1] at this
        simp only [Bool.false_eq_true, false_or] at this
        exact ⟨this.1, by omega⟩
  · have b := mem_takeWhile_true _ _ _ he
    simp only [HighlightTimer.before, Bool.or_eq_true, decide_eq_true_eq] at b
    rcases List.mem_cons.mp hg with y | y
    · subst y
      rcases b with b | b
      · exact .inl b
      · exact .inr ⟨hx, by omega⟩
    · exact hq'.2.2 e he g y

theorem execArmRequest_sound {s t : State} (l : s.Sound) (hc : ∀ f, s.freeing f = true → s.field.command = none)
    (h : execArmRequest s = .next t) : t.Sound := by
  unfold execArmRequest at h
  split at h
  · rename_i f k rest hq
    have r0 : rest = [] := by
      have := l.2; unfold State.One at this; rw [hq] at this
      have c : s.field.event.isSome.toNat ≤ 1 := by cases s.field.event <;> simp
      simp only [List.length_cons] at this
      exact List.length_eq_zero_iff.mp (by omega)
    subst r0
    have H := l.1.highlights
    have D := State.dropEntry_facts l.1 f (fun g _ => by rw [hq]; simp)
    have A := H.arms f k (by rw [hq]; simp)
    have dz : s.highlight.holds.get k ≤ 255 := H.holds k
    have fr : ∀ g, s.freeing g = true → False := fun g hg => by
      rcases H.freed g hg with x | x
      · rw [hq] at x; simp at x
      · rw [hq] at x; simp at x
    cases h
    unfold State.highlightTaken
    refine State.fieldFinish_sound ⟨?_, ?_⟩ hc
    · have key : ∃ q, ({ s.highlight.arm f k with requests := s.highlight.requests.tail } : HighlightTimer) =
          { s.highlight with queue := q, requests := [] } ∧ (q = dropEntry s.highlight.queue f ∨
          (s.highlight.holds.get k ≠ 0 ∧ q = (dropEntry s.highlight.queue f).takeWhile (s.highlight.before (s.highlight.holds.get k)) ++
            ⟨f, s.highlight.frame + BitVec.ofNat 16 (s.highlight.holds.get k), false⟩ ::
              (dropEntry s.highlight.queue f).dropWhile (s.highlight.before (s.highlight.holds.get k)))) := by
        unfold HighlightTimer.arm
        dsimp only
        split
        · exact ⟨_, by rw [hq]; rfl, .inl rfl⟩
        · rename_i hd; exact ⟨_, by rw [hq]; rfl, .inr ⟨hd, rfl⟩⟩
      obtain ⟨q, e, hqs⟩ := key
      rw [e]
      rcases hqs with rfl | ⟨hd, rfl⟩
      · exact State.takenHighlight_laws l.1 _ D.1 D.2.1 D.2.2.1 D.2.2.2 fun g hg => (fr g hg).elim
      · have split := List.takeWhile_append_dropWhile (p := s.highlight.before (s.highlight.holds.get k))
          (l := dropEntry s.highlight.queue f)
        have rem : s.highlight.remaining ⟨f, s.highlight.frame + BitVec.ofNat 16 (s.highlight.holds.get k), false⟩ =
            s.highlight.holds.get k := by
          unfold HighlightTimer.remaining
          dsimp only
          rw [show s.highlight.frame + BitVec.ofNat 16 (s.highlight.holds.get k) - s.highlight.frame =
            BitVec.ofNat 16 (s.highlight.holds.get k) by rw [BitVec.add_comm, BitVec.add_sub_cancel]]
          rw [BitVec.toNat_ofNat]; exact Nat.mod_eq_of_lt (by omega)
        have mem : ∀ e, e ∈ (dropEntry s.highlight.queue f).takeWhile (s.highlight.before (s.highlight.holds.get k)) ++
            ⟨f, s.highlight.frame + BitVec.ofNat 16 (s.highlight.holds.get k), false⟩ ::
              (dropEntry s.highlight.queue f).dropWhile (s.highlight.before (s.highlight.holds.get k)) →
            e = ⟨f, s.highlight.frame + BitVec.ofNat 16 (s.highlight.holds.get k), false⟩ ∨
              e ∈ dropEntry s.highlight.queue f := fun e he => by
          rcases List.mem_append.mp he with x | x
          · exact .inr ((List.takeWhile_sublist _).subset x)
          · rcases List.mem_cons.mp x with x | x
            · exact .inl x
            · exact .inr ((List.dropWhile_sublist _).subset x)
        refine State.takenHighlight_laws l.1 _ ?_ (insert_pairwise _ _ _ rfl rem _ D.2.1) (fun e he hx => ?_) (fun e he => ?_)
          fun g hg => (fr g hg).elim
        · rw [List.map_append, List.map_cons]
          refine List.nodup_middle.mpr (List.nodup_cons.mpr ⟨?_, ?_⟩)
          · rw [← List.map_append, split]; exact dropEntry_fields _ _
          · rw [← List.map_append, split]; exact D.1
        · rcases mem e he with rfl | x
          · rw [rem]; omega
          · exact D.2.2.1 e x hx
        · rcases mem e he with rfl | x
          · exact ⟨A.1, A.2.1, A.2.2.1, by rw [A.2.2.2]; exact hd⟩
          · exact D.2.2.2 e x
    · unfold State.One; rw [hq]; simp
  · cases h; exact l

theorem execRemoveRequest_sound {s t : State} (l : s.Sound) (hc : ∀ f, s.freeing f = true → s.field.command = none)
    (h : execRemoveRequest s = .next t) : t.Sound := by
  unfold execRemoveRequest at h
  split at h
  · rename_i f rest hq
    have r0 : rest = [] := by
      have := l.2; unfold State.One at this; rw [hq] at this
      have c : s.field.event.isSome.toNat ≤ 1 := by cases s.field.event <;> simp
      simp only [List.length_cons] at this
      exact List.length_eq_zero_iff.mp (by omega)
    subst r0
    have H := l.1.highlights
    have D := State.dropEntry_facts l.1 f (fun g hg => by rw [hq]; simpa using hg)
    cases h
    unfold State.highlightTaken
    refine State.fieldFinish_sound ⟨?_, ?_⟩ hc
    · rw [show ({ s.highlight.drop f with requests := s.highlight.requests.tail } : HighlightTimer) =
        { s.highlight with queue := dropEntry s.highlight.queue f, requests := [] } by rw [hq]; rfl]
      refine State.takenHighlight_laws l.1 _ D.1 D.2.1 D.2.2.1 D.2.2.2 fun g hg => ?_
      rcases H.freed g hg with x | x
      · rw [hq] at x
        have : g = f := by simpa using x
        subst this; exact dropEntry_fields _ _
      · rw [hq] at x; simp at x
    · unfold State.One; rw [hq]; simp
  · cases h; exact l

/-! ### The frame event (R78, R121, R123) -/

theorem markDue_fields (n : Half) : ∀ q, (markDue n q).map HighlightEntry.field = q.map HighlightEntry.field
  | [] => rfl
  | e :: rest => by
    unfold markDue
    split
    · simp [markDue_fields n rest]
    · split
      · simp [markDue_fields n rest]
      · rfl

/-- Each entry after the marking is one of before, marked or not. -/
theorem mem_markDue (n : Half) : ∀ q e, e ∈ markDue n q → ∃ g ∈ q, e.field = g.field ∧ e.expiry = g.expiry ∧
    (e.expired = false → g.expired = false)
  | [], _, h => by simp [markDue] at h
  | g :: rest, e, h => by
    have tail : e ∈ markDue n rest → ∃ x ∈ g :: rest, e.field = x.field ∧ e.expiry = x.expiry ∧
        (e.expired = false → x.expired = false) := fun m => by
      obtain ⟨x, hx, y⟩ := mem_markDue n rest e m
      exact ⟨x, by simp [hx], y⟩
    unfold markDue at h
    split at h
    · rcases List.mem_cons.mp h with rfl | m
      · exact ⟨_, by simp, rfl, rfl, id⟩
      · exact tail m
    · split at h
      · rcases List.mem_cons.mp h with rfl | m
        · exact ⟨g, by simp, rfl, rfl, fun x => by simp at x⟩
        · exact tail m
      · exact ⟨e, h, rfl, rfl, id⟩

/-- The frame event brings every WAITING entry one frame nearer, and marks those with none left (R78). -/
theorem markDue_ordered (h : HighlightTimer) (n : Half) (hn : n = h.frame + 1#16) (h' : HighlightTimer)
    (hf : h'.frame = n) : ∀ q : List HighlightEntry,
    (q.Pairwise fun e g => e.expired = true ∨ (g.expired = false ∧ h.remaining e ≤ h.remaining g)) →
    (∀ e ∈ q, e.expired = false → 1 ≤ h.remaining e ∧ h.remaining e ≤ 255) →
    ((markDue n q).Pairwise fun e g => e.expired = true ∨ (g.expired = false ∧ h'.remaining e ≤ h'.remaining g)) ∧
    ∀ e ∈ markDue n q, e.expired = false → 1 ≤ h'.remaining e ∧ h'.remaining e ≤ 255
  | [], _, _ => ⟨by simp [markDue], by simp [markDue]⟩
  | e :: rest, hq, hw => by
    have step : ∀ g : HighlightEntry, 1 ≤ h.remaining g → h'.remaining g + 1 = h.remaining g := fun g hg => by
      unfold HighlightTimer.remaining at hg ⊢
      rw [hf, hn]
      have e1 : g.expiry - (h.frame + 1#16) = (g.expiry - h.frame) - 1#16 := by bv_omega
      rw [e1]
      generalize g.expiry - h.frame = x at hg ⊢
      bv_omega
    have due : ∀ g : HighlightEntry, g.expiry = n ↔ h.remaining g = 1 := fun g => by
      unfold HighlightTimer.remaining
      rw [hn]
      constructor
      · intro x; rw [x]; bv_omega
      · intro x; bv_omega
    have pq := List.pairwise_cons.mp hq
    have ih := markDue_ordered h n hn h' hf rest pq.2 fun g hg => hw g (by simp [hg])
    unfold markDue
    split
    · rename_i he
      exact ⟨List.pairwise_cons.mpr ⟨fun g _ => .inl he, ih.1⟩, fun g hg hx => by
        rcases List.mem_cons.mp hg with x | x
        · subst x; rw [he] at hx; simp at hx
        · exact ih.2 g x hx⟩
    · rename_i he
      have he' : e.expired = false := by simpa using he
      split
      · exact ⟨List.pairwise_cons.mpr ⟨fun g _ => .inl rfl, ih.1⟩, fun g hg hx => by
          rcases List.mem_cons.mp hg with x | x
          · subst x; simp at hx
          · exact ih.2 g x hx⟩
      · rename_i hd
        rw [due] at hd
        have we := hw e (by simp) he'
        have all : ∀ g ∈ e :: rest, g.expired = false ∧ 2 ≤ h.remaining g ∧ h.remaining g ≤ 255 := fun g hg => by
          rcases List.mem_cons.mp hg with x | x
          · subst x; exact ⟨he', by omega, we.2⟩
          · have r := pq.1 g x
            rw [he'] at r
            simp only [Bool.false_eq_true, false_or] at r
            have := hw g (by simp [x]) r.1
            exact ⟨r.1, by omega, this.2⟩
        refine ⟨?_, fun g hg _ => ?_⟩
        · refine hq.imp_of_mem fun {a b} ha hb r => ?_
          have sa := step a (by have := all a ha; omega)
          have sb := step b (by have := all b hb; omega)
          have aa := all a ha
          rw [aa.1] at r ⊢
          simp only [Bool.false_eq_true, false_or] at r ⊢
          exact ⟨r.1, by omega⟩
        · have a := all g hg
          have := step g (by omega)
          omega

theorem execHighlightExpiry_sound {s t : State} (l : s.Sound)
    (hi : s.control.device ≠ .running → s.highlight.queue = []) (h : execHighlightExpiry s = .next t) : t.Sound := by
  unfold execHighlightExpiry at h
  split at h
  · cases h; exact l
  · rename_i n rest hfr
    have H := l.1.highlights
    have fr := H.frames
    have la := H.last
    rw [hfr] at fr la
    simp only [List.length_cons, List.range_succ_eq_map, List.map_cons, List.map_map, List.cons.injEq] at fr
    have hn : n = s.highlight.frame + 1#16 := fr.1
    have hrest : rest = (List.range rest.length).map fun k => n + BitVec.ofNat 16 (k + 1) := by
      conv_lhs => rw [fr.2]
      refine List.map_congr_left fun k _ => ?_
      simp only [Function.comp, Nat.succ_eq_add_one]
      rw [hn, BitVec.add_assoc]
      congr 1
      rw [show (1#16 : BitVec 16) = BitVec.ofNat 16 1 from rfl, ← BitVec.ofNat_add]
      congr 1; omega
    have hlast : s.video.frameNumber = n + BitVec.ofNat 16 rest.length := by
      rw [la, hn, BitVec.add_assoc]
      congr 1
      rw [show (1#16 : BitVec 16) = BitVec.ofNat 16 1 from rfl, ← BitVec.ofNat_add]
      congr 1; simp only [List.length_cons]; omega
    cases h
    unfold State.highlightFrame
    dsimp only
    have core : ∀ q : List HighlightEntry, q.map HighlightEntry.field = s.highlight.queue.map HighlightEntry.field →
        (q.Pairwise fun e g => e.expired = true ∨ (g.expired = false ∧
          HighlightTimer.remaining { s.highlight with frame := n } e ≤ HighlightTimer.remaining { s.highlight with frame := n } g)) →
        (∀ e ∈ q, e.expired = false → 1 ≤ HighlightTimer.remaining { s.highlight with frame := n } e ∧
          HighlightTimer.remaining { s.highlight with frame := n } e ≤ 255) →
        State.Sound { s with highlight := { s.highlight with queue := q, frame := n, frames := s.highlight.frames.tail } } :=
        fun q hf ho hw => by
      refine ⟨⟨⟨l.1.tabs.slots, l.1.tabs.heads, l.1.tabs.records, l.1.tabs.occupancy⟩, l.1.chains,
        l.1.bindings.congr (fun _ => rfl) (fun i x _ => x.1) l.1.bindings.free (fun _ => ⟨rfl, rfl⟩) rfl (fun _ => rfl) rfl rfl
          rfl rfl,
        l.1.spans.congr (fun _ => ⟨rfl, rfl, rfl, rfl⟩) (fun _ => rfl) rfl rfl, ?_, l.1.overlays⟩, l.2⟩
      refine ⟨by rw [hf]; exact H.fields, ho, hw, H.holds, by rw [hfr]; exact hrest, by rw [hfr]; exact hlast, fun e he hq => ?_,
        H.arms, fun f x => ?_⟩
      · have m : e.field ∈ q.map HighlightEntry.field := List.mem_map.mpr ⟨e, he, rfl⟩
        rw [hf] at m
        obtain ⟨g, hg, hgf⟩ := List.mem_map.mp m
        have := H.entries g hg
        rw [hgf] at this; exact this hq
      · rw [hf]; exact H.freed f x
    split
    · have := markDue_ordered s.highlight n hn { s.highlight with frame := n } rfl _ H.order H.waiting
      exact (State.still_sendFields _ _ (by
        rw [List.filter_eq_nil_iff]; intro x hx; obtain ⟨y, _, rfl⟩ := List.mem_map.mp hx; simp [FieldRequest.answersBinding])).sound
        (core _ (markDue_fields n _) this.1 this.2)
    · rename_i hr
      have e := hi (by simpa [State.running] using hr)
      exact core s.highlight.queue rfl (by rw [e]; simp) (by rw [e]; simp)

theorem raiseFrame_sound {s : State} (l : s.Sound) : s.raiseFrame.Sound := by
  have H := l.1.highlights
  refine ⟨⟨⟨l.1.tabs.slots, l.1.tabs.heads, l.1.tabs.records, l.1.tabs.occupancy⟩, l.1.chains,
    l.1.bindings.congr (fun _ => rfl) (fun i x _ => x.1) l.1.bindings.free (fun _ => ⟨rfl, rfl⟩) rfl (fun _ => rfl) rfl rfl
      rfl rfl,
    l.1.spans.congr (fun _ => ⟨rfl, rfl, rfl, rfl⟩) (fun _ => rfl) rfl rfl, ?_, l.1.overlays⟩, l.2⟩
  have add : s.video.frameNumber + 1#16 = s.highlight.frame + BitVec.ofNat 16 (s.highlight.frames.length + 1) := by
    rw [H.last, BitVec.add_assoc]
    congr 1
    rw [show (1#16 : BitVec 16) = BitVec.ofNat 16 1 from rfl, ← BitVec.ofNat_add]
  refine ⟨H.fields, H.order, H.waiting, H.holds, ?_, ?_, H.entries, H.arms, H.freed⟩
  · show s.highlight.frames ++ [s.video.frameNumber + 1#16] = _
    rw [show s.raiseFrame.highlight.frames.length = s.highlight.frames.length + 1 by
      simp [State.raiseFrame, State.sendFrame]]
    rw [List.range_succ, List.map_append, List.map_singleton, add]
    congr 1
    exact H.frames
  · show s.video.frameNumber + 1#16 = s.highlight.frame + BitVec.ofNat 16 (s.highlight.frames ++ [s.video.frameNumber + 1#16]).length
    rw [add, List.length_append]; rfl

end Sys2Proof.Machine
end

