-- ==== Sys2Proof/Laws/LawfulQuote.lean ====
section
/-! SUPPORT. The commands of the Quote Engine keep the laws of the tables and queues. -/

namespace Sys2Proof.Machine

theorem State.still_dropQuote {s : State} {q : QuoteRequest} (h : s.quoteFront = some q)
    (hq : q.isBinding = false) : s.Still s.dropQuote := by
  obtain ⟨_, rest, hi⟩ := State.quoteFront_some h
  exact ⟨rfl, rfl, rfl, rfl, rfl, rfl, rfl, rfl, rfl, rfl, by simp [State.dropQuote, hi, hq], rfl⟩

theorem State.still_sendRing (s : State) (r : RingId) (i : RingInput) : s.Still (s.sendRing r i) :=
  .of_units rfl rfl rfl rfl rfl

theorem filter_renders (rs : List RenderRequest) :
    (rs.map FieldRequest.render).filter FieldRequest.answersBinding = [] := by
  rw [List.filter_eq_nil_iff]; intro x hx; obtain ⟨y, _, rfl⟩ := List.mem_map.mp hx; simp [FieldRequest.answersBinding]

theorem State.still_setWait (s : State) (w : Option QuoteWait) :
    s.Still { s with quote := { s.quote with wait := w } } :=
  ⟨rfl, rfl, rfl, rfl, rfl, rfl, rfl, rfl, rfl, rfl, rfl, rfl⟩

theorem State.still_quoteFinish (s : State) (rs : List RenderRequest) (r : RingId) (st : Status) (w : Word) :
    s.Still (s.quoteFinish rs r st w) := by
  have a := s.still_sendFields _ (filter_renders (rs.take (64 - s.heldRenders)))
  unfold State.quoteFinish
  dsimp only
  split
  · exact a.trans (State.still_sendRing _ _ _)
  · exact a.trans (State.still_setWait _ _)

theorem execRenderQueueRoom_sound {s t : State} (l : s.Sound) (h : execRenderQueueRoom s = .next t) : t.Sound := by
  unfold execRenderQueueRoom at h
  split at h
  · cases h; exact l
  · rename_i w _
    split at h
    · have a := s.still_sendFields _ (filter_renders (w.renders.take 1))
      dsimp only at h
      split at h <;> cases h
      · exact ((a.trans (State.still_setWait _ _)).trans (State.still_sendRing _ _ _)).sound l
      · exact (a.trans (State.still_setWait _ _)).sound l
    · cases h; exact l

/-- New contents of an OCCUPIED slot that keep its key, its link and its binding list. -/
theorem State.setSlot_sound {s : State} (l : s.Sound) (i : Nat) (v : Slot) (hi : (s.slot i).occupied = true)
    (ho : v.occupied = true) (hk : v.key = (s.slot i).key) (hn : v.link = (s.slot i).link)
    (hb : v.bindings = (s.slot i).bindings) : (s.setSlot i v).Sound := by
  have sl : ∀ j, (s.setSlot i v).slot j = if j = i then v else s.slot j := fun j => by
    rw [s.slot_setSlot i j v l.1.tabs.slots]; simp [occupied_lt (slots := s.quote.slots) hi]
  have slk : ∀ j, ((s.setSlot i v).slot j).occupied = (s.slot j).occupied ∧ ((s.setSlot i v).slot j).key = (s.slot j).key ∧
      ((s.setSlot i v).slot j).link = (s.slot j).link ∧ ((s.setSlot i v).slot j).bindings = (s.slot j).bindings := fun j => by
    rw [sl]; split
    · rename_i e; subst e; rw [ho, hi]; exact ⟨rfl, hk, hn, hb⟩
    · exact ⟨rfl, rfl, rfl, rfl⟩
  refine ⟨⟨⟨Tab.set_wf _ _ _ _ l.1.tabs.slots, l.1.tabs.heads, l.1.tabs.records, l.1.tabs.occupancy⟩,
    l.1.chains.keepSlots rfl fun j => ⟨(slk j).1, (slk j).2.1, (slk j).2.2.1⟩,
    l.1.bindings.congr (fun j => (slk j).2.2.2) (fun j x _ => (slk j).1.trans x.1) (fun j x => ?_) (fun _ => ⟨rfl, rfl⟩) rfl
      (fun _ => rfl) rfl rfl rfl rfl,
    l.1.spans.congr (fun _ => ⟨rfl, rfl, rfl, rfl⟩) (fun _ => rfl) rfl rfl,
    l.1.highlights.congr rfl rfl (fun _ x => ⟨x, rfl, rfl⟩) (fun _ x => x), l.1.overlays⟩, l.2⟩
  rw [(slk j).1] at x
  rw [sl, if_neg (fun e => by rw [e, hi] at x; simp at x)]
  exact l.1.bindings.free j x

theorem execSetSources_sound {s t : State} (l : s.Sound) (h : execSetSources s = .next t) : t.Sound := by
  unfold execSetSources at h
  split at h
  · rename_i d hf
    have k := (State.still_dropQuote hf rfl).sound l
    cases h
    unfold State.takeSetSources
    dsimp only
    split
    · exact (State.still_complete _ _ _).sound k
    · split
      · exact (State.still_complete _ _ _).sound k
      · rename_i i pos hl
        exact (State.still_quoteFinish _ _ _ _ _).sound
          (State.setSlot_sound k i _ (k.1.chains.found hl) (k.1.chains.found hl) rfl rfl rfl)
  · cases h; exact l

/-- An apply that passes names an OCCUPIED slot. -/
theorem State.arbitrate_occupied {s : State} (c : s.quote.ChainsOk) {r : RingId} {d : Descriptor}
    {table : SeqState → SeqCompare → Verdict} {x : Nat × SeqState × Status} (h : s.arbitrate r d table = .inl x) :
    (s.slot x.1).occupied = true := by
  unfold State.arbitrate at h
  split at h
  · simp at h
  · rename_i i pos hl
    dsimp only at h
    split at h
    · split at h
      · simp only [Sum.inl.injEq] at h; subst h; exact c.found hl
      · simp at h
    · simp at h

theorem State.acceptApply_sound {s : State} (l : s.Sound) (r : RingId) (i : Nat) (v : Slot) (rs : List RenderRequest)
    (st : Status) (hi : (s.slot i).occupied = true) (ho : v.occupied = (s.slot i).occupied)
    (hk : v.key = (s.slot i).key) (hn : v.link = (s.slot i).link) (hb : v.bindings = (s.slot i).bindings) :
    (s.acceptApply r i v rs st).Sound :=
  (State.still_quoteFinish _ _ _ _ _).sound (State.setSlot_sound l i v hi (ho.trans hi) hk hn hb)

theorem execUpdate_sound {s t : State} (l : s.Sound) (h : execUpdate s = .next t) : t.Sound := by
  unfold execUpdate at h
  split at h
  · rename_i r d hf
    have k := (State.still_dropQuote hf rfl).sound l
    split at h <;> cases h
    · unfold State.takeUpdate
      split
      · exact (State.still_sendRing _ _ _).sound k
      · split
        · exact (State.still_sendRing _ _ _).sound k
        · rename_i i new st ha
          exact State.acceptApply_sound k r i _ _ st (State.arbitrate_occupied k.1.chains ha) rfl rfl rfl rfl
    · exact l
  · cases h; exact l

theorem execSnapshot_sound {s t : State} (l : s.Sound) (h : execSnapshot s = .next t) : t.Sound := by
  unfold execSnapshot at h
  split at h
  · rename_i r d hf
    have k := (State.still_dropQuote hf rfl).sound l
    split at h <;> cases h
    · unfold State.takeSnapshot
      split
      · exact (State.still_sendRing _ _ _).sound k
      · split
        · exact (State.still_sendRing _ _ _).sound k
        · rename_i i new st ha
          exact State.acceptApply_sound k r i _ _ st (State.arbitrate_occupied k.1.chains ha) rfl rfl rfl rfl
    · exact l
  · cases h; exact l

theorem execCondition_sound {s t : State} (l : s.Sound) (h : execCondition s = .next t) : t.Sound := by
  unfold execCondition at h
  split at h
  · rename_i r d hf
    have k := (State.still_dropQuote hf rfl).sound l
    split at h <;> cases h
    · unfold State.takeCondition
      split
      · exact (State.still_sendRing _ _ _).sound k
      · split
        · exact (State.still_sendRing _ _ _).sound k
        · rename_i i new st ha
          exact State.acceptApply_sound k r i _ _ st (State.arbitrate_occupied k.1.chains ha) rfl rfl rfl rfl
    · exact l
  · cases h; exact l

/-! ### DEFINE_INSTRUMENT and REMOVE_INSTRUMENT -/

theorem QuoteEngine.lowestFree_some {q : QuoteEngine} {i : Nat} (h : q.lowestFree = some i) :
    i < 256 ∧ (q.slots.get slotSpec i).occupied = false := by
  unfold QuoteEngine.lowestFree at h
  have a := List.find?_some h
  exact ⟨by simpa using List.mem_of_find?_eq_some h, by simpa using a⟩

/-- What the slots are after a definition. -/
theorem State.slot_occupy {s : State} (l : s.Laws) (i : Nat) (key : Word) (m : PerRing Bool) (hi : i < 256) (j : Nat) :
    (s.occupy i key m).slot j = (if j = i then { Slot.cleared with occupied := true, key := key, sources := m }
      else s.slot j) ∨ (j ≠ i ∧ (s.slot j).occupied = true ∧
        (s.occupy i key m).slot j = { s.slot j with link := some i }) := by
  unfold State.occupy State.slot QuoteEngine.link
  dsimp only
  split
  · left; rw [slots_set _ _ _ _ l.tabs.slots hi]
  · rename_i tail e
    have mt := (l.chains.members _ tail).1 (List.mem_of_getLast? e)
    have ht : tail < 256 := occupied_lt mt.1
    rw [slots_set _ _ _ _ (Tab.set_wf _ _ _ _ l.tabs.slots) hi, slots_set _ _ _ _ l.tabs.slots ht]
    by_cases h : j = i
    · left; simp [h]
    · by_cases g : j = tail
      · right; subst g; exact ⟨h, mt.1, by simp [h]⟩
      · left; simp [h, g]

theorem QuoteEngine.link_wf {q : QuoteEngine} (b i : Nat) (ws : Tab.WF slotSpec q.slots) (wh : Tab.WF headSpec q.heads) :
    Tab.WF slotSpec (q.link b i).slots ∧ Tab.WF headSpec (q.link b i).heads := by
  unfold QuoteEngine.link
  split
  · exact ⟨ws, Tab.set_wf _ _ _ _ wh⟩
  · exact ⟨Tab.set_wf _ _ _ _ ws, wh⟩

theorem State.occupy_sound {s : State} (l : s.Sound) (i : Nat) (key : Word) (m : PerRing Bool)
    (hf : s.quote.lowestFree = some i) (hk : key ≠ 0) (hn : s.quote.lookup key = none) : (s.occupy i key m).Sound := by
  obtain ⟨hi, fr⟩ := QuoteEngine.lowestFree_some hf
  have ws := l.1.tabs.slots
  have wh := l.1.tabs.heads
  have lw := QuoteEngine.link_wf (bucketOf key) i ws wh
  have lq := s.quote.link_queue (bucketOf key) i
  have sc : s.slot i = Slot.cleared := l.1.bindings.free i fr
  have sl := State.slot_occupy l.1 i key m hi
  have bl : ∀ j, ((s.occupy i key m).slot j).bindings = (s.slot j).bindings := fun j => by
    rcases sl j with h | ⟨_, _, h⟩ <;> rw [h]
    split
    · rename_i e; rw [e, sc]
    · rfl
  refine ⟨⟨⟨Tab.set_wf _ _ _ _ lw.1, lw.2, l.1.tabs.records, l.1.tabs.occupancy⟩, ?_, ?_,
    l.1.spans.congr (fun _ => ⟨rfl, rfl, rfl, rfl⟩) (fun _ => rfl) rfl rfl,
    l.1.highlights.congr rfl rfl (fun _ x => ⟨x, rfl, rfl⟩) (fun _ x => x), l.1.overlays⟩, l.2⟩
  · exact l.1.chains.define ws wh (v := { Slot.cleared with occupied := true, key := key, sources := m }) hi fr rfl hk rfl
      (l.1.chains.notFound hk hn)
  · refine l.1.bindings.congr bl (fun j x _ => ?_) (fun j x => ?_) (fun _ => ⟨rfl, rfl⟩) rfl (fun _ => rfl) ?_ rfl rfl rfl
    · rcases sl j with h | ⟨_, _, h⟩ <;> rw [h]
      · split
        · rfl
        · exact x.1
      · exact x.1
    · rcases sl j with h | ⟨_, o, h⟩ <;> rw [h] at x ⊢
      · split at x
        · simp at x
        · rename_i e; rw [if_neg e]; exact l.1.bindings.free j x
      · rw [o] at x; simp at x
    · show (s.quote.link (bucketOf key) i).inbox.filter _ = _; rw [lq.1]

theorem execDefineInstrument_sound {s t : State} (l : s.Sound) (h : execDefineInstrument s = .next t) : t.Sound := by
  unfold execDefineInstrument at h
  split at h
  · rename_i d hf
    have k := (State.still_dropQuote hf rfl).sound l
    cases h
    unfold State.takeDefine
    dsimp only
    split
    · exact (State.still_complete _ _ _).sound k
    · rename_i m hm
      have hk : d.key ≠ 0 := fun x => by simp [x] at hm
      split
      · exact (State.still_complete _ _ _).sound k
      · rename_i hn
        split
        · exact (State.still_complete _ _ _).sound k
        · rename_i i hi
          exact (State.still_complete _ _ _).sound (State.occupy_sound k i _ m hi hk hn)
  · cases h; exact l

/-- What the slots are after a removal. -/
theorem State.slot_freeSlot {s : State} (l : s.Laws) (i : Nat) (key : Word) (pos : Nat) (hi : i < 256) (j : Nat) :
    (s.freeSlot i key pos).slot j = (if j = i then Slot.cleared else s.slot j) ∨ (j ≠ i ∧ (s.slot j).occupied = true ∧
        ∃ n, (s.freeSlot i key pos).slot j = { s.slot j with link := n }) := by
  unfold State.freeSlot State.slot QuoteEngine.unlink
  dsimp only
  split
  · left; rw [slots_set _ _ _ _ l.tabs.slots hi]
  · split
    · left; rw [slots_set _ _ _ _ l.tabs.slots hi]
    · rename_i before e
      have mt := (l.chains.members _ before).1 (List.mem_of_getElem? e)
      rw [slots_set _ _ _ _ (Tab.set_wf _ _ _ _ l.tabs.slots) hi, slots_set _ _ _ _ l.tabs.slots (occupied_lt mt.1)]
      by_cases h : j = i
      · left; simp [h]
      · by_cases g : j = before
        · right; subst g; exact ⟨h, mt.1, (s.quote.slots.get slotSpec i).link, by simp [h]⟩
        · left; simp [h, g]

theorem QuoteEngine.unlink_wf {q : QuoteEngine} (b i pos : Nat) (ws : Tab.WF slotSpec q.slots)
    (wh : Tab.WF headSpec q.heads) : Tab.WF slotSpec (q.unlink b i pos).slots ∧ Tab.WF headSpec (q.unlink b i pos).heads := by
  unfold QuoteEngine.unlink
  dsimp only
  split
  · exact ⟨ws, Tab.set_wf _ _ _ _ wh⟩
  · split
    · exact ⟨ws, wh⟩
    · exact ⟨Tab.set_wf _ _ _ _ ws, wh⟩

theorem State.freeSlot_sound {s : State} (l : s.Sound) (i : Nat) (key : Word) (pos : Nat)
    (hl : s.quote.lookup key = some (i, pos)) (hb : (s.slot i).bindings = []) (hc : s.field.command = none) :
    (s.freeSlot i key pos).Sound := by
  have ws := l.1.tabs.slots
  have wh := l.1.tabs.heads
  have hi : i < 256 := occupied_lt (slots := s.quote.slots) (l.1.chains.found hl)
  have lw := QuoteEngine.unlink_wf (bucketOf key) i pos ws wh
  have lq := s.quote.unlink_queue (bucketOf key) i pos
  have sl := State.slot_freeSlot l.1 i key pos hi
  have bl : ∀ j, ((s.freeSlot i key pos).slot j).bindings = (s.slot j).bindings := fun j => by
    rcases sl j with h | ⟨_, _, n, h⟩ <;> rw [h]
    split
    · rename_i e; rw [e, hb]; rfl
    · rfl
  refine ⟨⟨⟨Tab.set_wf _ _ _ _ lw.1, lw.2, l.1.tabs.records, l.1.tabs.occupancy⟩, ?_, ?_,
    l.1.spans.congr (fun _ => ⟨rfl, rfl, rfl, rfl⟩) (fun _ => rfl) rfl rfl,
    l.1.highlights.congr rfl rfl (fun _ x => ⟨x, rfl, rfl⟩) (fun _ x => x), l.1.overlays⟩, l.2⟩
  · exact l.1.chains.remove ws wh (QuoteEngine.lookup_some hl).2.2
  · refine l.1.bindings.congr bl (fun j _ x => absurd hc x) (fun j x => ?_) (fun _ => ⟨rfl, rfl⟩) rfl (fun _ => rfl) ?_ rfl rfl
      rfl
    · rcases sl j with h | ⟨_, o, n, h⟩ <;> rw [h] at x ⊢
      · split
        · rfl
        · rename_i e; rw [if_neg e] at x; exact l.1.bindings.free j x
      · rw [show ({ s.slot j with link := n } : Slot).occupied = (s.slot j).occupied from rfl, o] at x; simp at x
    · show (s.quote.unlink (bucketOf key) i pos).inbox.filter _ = _; rw [lq.1]

/-- While the Quote Engine works on an instrument command, no BIND_FIELD or UNBIND_FIELD waits (R7). -/
theorem State.OneEach.quoteCommand {s : State} (o : s.OneEach) {q : QuoteRequest} (h : s.quoteFront = some q)
    (hq : q.worksFor .t = true) : s.field.command = none := by
  obtain ⟨_, rest, hi⟩ := State.quoteFront_some h
  have m := o.atMostOne
  unfold State.worksOf QuoteEngine.worksFor FieldUnit.works at m
  rw [hi, List.countP_cons, if_pos hq] at m
  cases c : s.field.command with
  | none => rfl
  | some d => rw [c] at m; simp only [Option.isSome_some, Bool.toNat_true] at m; omega

theorem execRemoveInstrument_sound {s t : State} (l : s.Sound) (o : s.OneEach) (h : execRemoveInstrument s = .next t) :
    t.Sound := by
  unfold execRemoveInstrument at h
  split at h
  · rename_i d hf
    have k := (State.still_dropQuote hf rfl).sound l
    have hc : s.dropQuote.field.command = none := o.quoteCommand hf rfl
    cases h
    unfold State.takeRemove
    dsimp only
    split
    · exact (State.still_complete _ _ _).sound k
    · rename_i i pos hl
      split
      · exact (State.still_complete _ _ _).sound k
      · rename_i hb
        exact (State.still_complete _ _ _).sound (State.freeSlot_sound k i _ pos hl (by simpa using hb) hc)
  · cases h; exact l

/-! ### Binding requests -/

theorem execBindingLookup_sound {s t : State} (l : s.Sound) (h : execBindingLookup s = .next t) : t.Sound := by
  unfold execBindingLookup at h
  split at h
  · rename_i key hf
    obtain ⟨_, rest, hi⟩ := State.quoteFront_some hf
    have z := l.1.bindings.lastAsk hi rfl
    obtain ⟨d, hd⟩ := l.1.bindings.lookup key (by rw [hi]; simp)
    cases h
    refine ⟨⟨⟨l.1.tabs.slots, l.1.tabs.heads, l.1.tabs.records, l.1.tabs.occupancy⟩, l.1.chains.congr rfl rfl, ?_,
      l.1.spans.congr (fun _ => ⟨rfl, rfl, rfl, rfl⟩) (fun _ => rfl) rfl rfl,
      l.1.highlights.congr rfl rfl (fun _ x => ⟨x, rfl, rfl⟩) (fun _ x => x), l.1.overlays⟩, l.2⟩
    refine .of_facts (l.1.bindings.base.congr (fun _ => rfl) l.1.bindings.free (fun _ => ⟨Iff.rfl, rfl⟩) (fun _ => rfl)
      (fun f => ?_)) ?_ ?_ ?_
    · rw [State.inTransit_of_zero z.2.1]
      unfold State.inTransit
      have no : ∀ q, FieldRequest.answersBinding q = true → q ∉ s.field.inbox := fun q hq hm =>
        List.countP_eq_zero.mp z.2.1 q hm hq
      simp only [State.sendField, State.sendFields, State.dropQuote, List.mem_append, List.mem_singleton, reduceCtorEq,
        or_false]
      constructor
      · rintro (⟨i, x⟩ | x | x)
        · exact absurd x (no _ rfl)
        · exact absurd x (no _ rfl)
        · exact x
      · exact fun x => .inr (.inr x)
    · have : s.field.command.isSome.toNat = 1 := by rw [z.2.2]; rfl
      simp [State.sendField, State.sendFields, State.dropQuote, hi, z.1, z.2.1, FieldRequest.answersBinding, this]
    · exact State.asks_of_zero (by simpa [State.dropQuote, hi] using z.1)
    · intro q hq
      rcases List.mem_append.mp hq with hq | hq
      · exact State.answers_of_zero z.2.1 q hq
      · simp at hq; subst hq
        refine ⟨d, hd, fun i hr => ?_⟩
        unfold State.bindingLookup at hr
        split at hr
        · simp at hr
        · rename_i j pos hl
          split at hr
          · simp at hr
          · rename_i hn
            simp only [LookupResult.found.injEq] at hr; subst hr
            exact ⟨l.1.chains.found (q := s.quote) hl, Nat.lt_of_not_le hn⟩
  · cases h; exact l

theorem execAppend_sound {s t : State} (l : s.Sound) (h : execAppend s = .next t) : t.Sound := by
  unfold execAppend at h
  split at h
  · rename_i f i hf
    obtain ⟨_, rest, hi⟩ := State.quoteFront_some hf
    have b := l.1.bindings
    have z := b.lastAsk hi rfl
    obtain ⟨d, hd, hfn, hclear, hroom⟩ := b.append f i (by rw [hi]; simp)
    have hfree : (s.record f).state = .free := by rw [hfn]; exact hd.2.2.2
    have nfr : s.freeing f = false := by
      by_contra x; exact (b.removed f (.inr (by simpa using x))).1 hfree
    have trs : ∀ g, s.inTransit g ↔ s.freeing g = true := State.inTransit_of_zero z.2.1
    have nl : ∀ j, f ∉ (s.slot j).bindings := fun j hj => (b.listed f j (by rw [trs, nfr]; simp) hj).1 hfree
    have i256 : i < 256 := occupied_lt (slots := s.quote.slots) hroom.1
    cases h
    generalize ht : (s.dropQuote.setSlot i { s.slot i with bindings := (s.slot i).bindings ++ [f] }).sendField (.appendDone f i) = t
    have sl : ∀ j, t.slot j = if j = i then { s.slot i with bindings := (s.slot i).bindings ++ [f] } else s.slot j := fun j => by
      have := State.slot_setSlot s.dropQuote i j { s.slot i with bindings := (s.slot i).bindings ++ [f] } l.1.tabs.slots
      rw [← ht]
      exact this.trans (by simp [i256, State.slot, State.dropQuote])
    have slk : ∀ j, (t.slot j).occupied = (s.slot j).occupied ∧ (t.slot j).key = (s.slot j).key ∧
        (t.slot j).link = (s.slot j).link := fun j => by
      rw [sl]; split
      · rename_i e; subst e; exact ⟨rfl, rfl, rfl⟩
      · exact ⟨rfl, rfl, rfl⟩
    have mem : ∀ g j, g ∈ (t.slot j).bindings ↔ g ∈ (s.slot j).bindings ∨ (g = f ∧ j = i) := fun g j => by
      rw [sl]; split
      · rename_i e; subst e; simp
      · rename_i e; simp [e]
    have ti : t.field.inbox = s.field.inbox ++ [.appendDone f i] := by rw [← ht]; rfl
    have trt : ∀ g, t.inTransit g ↔ g = f ∨ s.freeing g = true := fun g => by
      have no : ∀ q, FieldRequest.answersBinding q = true → q ∉ s.field.inbox := fun q hq hm =>
        List.countP_eq_zero.mp z.2.1 q hm hq
      have frt : t.freeing g = s.freeing g := by rw [← ht]; rfl
      unfold State.inTransit
      rw [ti, frt]
      simp [no (.removalDone g) rfl, fun j => no (.appendDone g j) rfl]
    have rc : ∀ g, t.record g = s.record g := fun g => by rw [← ht]; rfl
    refine ⟨⟨⟨?_, by rw [← ht]; exact l.1.tabs.heads, by rw [← ht]; exact l.1.tabs.records, by rw [← ht]; exact l.1.tabs.occupancy⟩,
      l.1.chains.keepSlots (by rw [← ht]; rfl) slk, ?_,
      l.1.spans.congr (fun g => by rw [rc]; exact ⟨rfl, rfl, rfl, rfl⟩) (fun _ => by rw [← ht]; rfl) (by rw [← ht]; rfl) (by rw [← ht]; rfl)
        (by rw [← ht]; rfl),
      l.1.highlights.congr (by rw [← ht]; rfl) (by rw [← ht]; rfl) (fun g x => by rw [rc]; exact ⟨x, rfl, rfl⟩)
        (fun _ x => by rw [← ht] at x; exact x),
      by rw [← ht]; exact l.1.overlays⟩, by rw [← ht]; exact l.2⟩
    · rw [← ht]; exact Tab.set_wf _ _ _ _ l.1.tabs.slots
    refine .of_facts ⟨fun j x => ?_, fun j => ?_, fun j k g => ?_, fun g n x => ?_, fun g j n x => ?_, fun g x => ?_⟩ ?_ ?_ ?_
    · rw [(slk j).1] at x
      rw [sl, if_neg (fun e => by rw [e, hroom.1] at x; simp at x)]
      exact b.free j x
    · rw [sl]; split
      · rename_i e; subst e
        have := b.lists j
        refine ⟨List.Nodup.append this.1 (by simp) (by simpa using nl j), by simpa using hroom.2, fun g hg => ?_⟩
        rcases List.mem_append.mp hg with hg | hg
        · exact this.2.2 g hg
        · simp at hg; subst hg; rw [hfn]; exact hd.2.1
      · exact b.lists j
    · rw [mem, mem]
      rintro (x | x) (y | y)
      · exact b.apart j k g x y
      · exact absurd (y.1 ▸ x) (nl j)
      · exact absurd (x.1 ▸ y) (nl k)
      · rw [x.2, y.2]
    · rw [trt] at n; rw [not_or] at n
      rw [rc] at x ⊢; rw [mem]; exact .inl (b.bound g (by rw [trs]; simpa using n.2) x)
    · rw [trt] at n; rw [not_or] at n
      rw [mem] at x; rw [rc]
      exact b.listed g j (by rw [trs]; simpa using n.2) (x.resolve_right fun y => n.1 y.1)
    · have fg : s.freeing g = true := by rw [← ht] at x; exact x
      rw [rc]
      have := b.removed g (.inr fg)
      refine ⟨this.1, fun j => ?_⟩
      rw [mem]; rintro (y | y)
      · exact this.2 j y
      · rw [y.1, nfr] at fg; simp at fg
    · have : s.field.command.isSome.toNat = 1 := by rw [z.2.2]; rfl
      rw [← ht]
      simp [State.sendField, State.sendFields, State.setSlot, State.dropQuote, hi, z.1, z.2.1, FieldRequest.answersBinding, this]
    · rw [← ht]; exact State.asks_of_zero (by simpa [State.sendField, State.sendFields, State.setSlot, State.dropQuote, hi] using z.1)
    · intro q hq
      rw [ti] at hq
      rcases List.mem_append.mp hq with hq | hq
      · exact State.answers_of_zero z.2.1 q hq
      · simp at hq; subst hq
        refine ⟨d, ?_, hfn, ?_, (mem f i).2 (.inr ⟨rfl, rfl⟩)⟩
        · rw [← ht]; exact hd
        · rw [← ht]; exact hclear
  · cases h; exact l

theorem execRemoval_sound {s t : State} (l : s.Sound) (h : execRemoval s = .next t) : t.Sound := by
  unfold execRemoval at h
  split at h
  · rename_i f hf
    obtain ⟨_, rest, hi⟩ := State.quoteFront_some hf
    have b := l.1.bindings
    have z := b.lastAsk hi rfl
    have hnf := b.removal f (by rw [hi]; simp)
    have trs : ∀ g, s.inTransit g ↔ s.freeing g = true := State.inTransit_of_zero z.2.1
    dsimp only at h
    cases h
    generalize ht : State.sendField { s.dropQuote with quote := s.dropQuote.quote.unbind f } (.removalDone f) = t
    have sl : ∀ j, t.slot j = { s.slot j with bindings := (s.slot j).bindings.filter fun g => decide (g ≠ f) } := fun j => by
      rw [← ht]; exact Tab.get_mapListed slotSpec (fun v => { v with bindings := v.bindings.filter fun g => decide (g ≠ f) }) rfl _ _ l.1.tabs.slots
    have mem : ∀ g j, g ∈ (t.slot j).bindings ↔ g ∈ (s.slot j).bindings ∧ g ≠ f := fun g j => by rw [sl]; simp
    have ti : t.field.inbox = s.field.inbox ++ [.removalDone f] := by rw [← ht]; rfl
    have trt : ∀ g, t.inTransit g ↔ g = f ∨ s.freeing g = true := fun g => by
      have no : ∀ q, FieldRequest.answersBinding q = true → q ∉ s.field.inbox := fun q hq hm =>
        List.countP_eq_zero.mp z.2.1 q hm hq
      have frt : t.freeing g = s.freeing g := by rw [← ht]; rfl
      unfold State.inTransit
      rw [ti, frt]
      simp [no (.removalDone g) rfl, fun j => no (.appendDone g j) rfl]
    have rc : ∀ g, t.record g = s.record g := fun g => by rw [← ht]; rfl
    refine ⟨⟨⟨?_, by rw [← ht]; exact l.1.tabs.heads, by rw [← ht]; exact l.1.tabs.records, by rw [← ht]; exact l.1.tabs.occupancy⟩,
      l.1.chains.keepSlots (by rw [← ht]; rfl) (fun j => by
        have := sl j; unfold State.slot at this; rw [this]; exact ⟨rfl, rfl, rfl⟩), ?_,
      l.1.spans.congr (fun g => by rw [rc]; exact ⟨rfl, rfl, rfl, rfl⟩) (fun _ => by rw [← ht]; rfl) (by rw [← ht]; rfl) (by rw [← ht]; rfl)
        (by rw [← ht]; rfl),
      l.1.highlights.congr (by rw [← ht]; rfl) (by rw [← ht]; rfl) (fun g x => by rw [rc]; exact ⟨x, rfl, rfl⟩)
        (fun _ x => by rw [← ht] at x; exact x),
      by rw [← ht]; exact l.1.overlays⟩, by rw [← ht]; exact l.2⟩
    · rw [← ht]; exact Tab.mapListed_wf slotSpec (fun v => { v with bindings := v.bindings.filter fun g => decide (g ≠ f) }) _ l.1.tabs.slots
    refine .of_facts ⟨fun j x => ?_, fun j => ?_, fun j k g => ?_, fun g n x => ?_, fun g j n x => ?_, fun g x => ?_⟩ ?_ ?_ ?_
    · rw [sl] at x ⊢
      rw [b.free j x]; rfl
    · have := b.lists j
      rw [sl]
      exact ⟨this.1.filter _, (List.length_filter_le _ _).trans this.2.1, fun g hg => this.2.2 g (List.mem_of_mem_filter hg)⟩
    · rw [mem, mem]; exact fun x y => b.apart j k g x.1 y.1
    · rw [trt] at n; rw [not_or] at n
      rw [rc] at x ⊢; rw [mem]; exact ⟨b.bound g (by rw [trs]; simpa using n.2) x, n.1⟩
    · rw [trt] at n; rw [not_or] at n
      rw [mem] at x; rw [rc]
      exact b.listed g j (by rw [trs]; simpa using n.2) x.1
    · have fg : s.freeing g = true := by rw [← ht] at x; exact x
      rw [rc]
      have := b.removed g (.inr fg)
      exact ⟨this.1, fun j => by rw [mem]; exact fun y => this.2 j y.1⟩
    · have : s.field.command.isSome.toNat = 1 := by rw [z.2.2]; rfl
      rw [← ht]
      simp [State.sendField, State.sendFields, QuoteEngine.unbind, State.dropQuote, hi, z.1, z.2.1, FieldRequest.answersBinding, this]
    · rw [← ht]; exact State.asks_of_zero (by simpa [State.sendField, State.sendFields, QuoteEngine.unbind, State.dropQuote, hi] using z.1)
    · intro q hq
      rw [ti] at hq
      rcases List.mem_append.mp hq with hq | hq
      · exact State.answers_of_zero z.2.1 q hq
      · simp at hq; subst hq
        refine ⟨by rw [rc]; exact hnf, fun j => by rw [mem]; simp⟩
  · cases h; exact l

end Sys2Proof.Machine
end

