-- ==== Sys2Proof/Laws/LawfulUnits.lean ====
section
/-! SUPPORT. The commands of the other units, and all commands together, keep the laws of the tables and queues. -/

namespace Sys2Proof.Machine

/-! ### The Plane Controller -/

/-- A stack whose records below the top are OPEN, with the rest as it is. -/
theorem State.setPlane_sound {s : State} (l : s.Sound) (p : PlaneController) (hg : p.geometry = s.plane.geometry)
    (hs : ∀ o ∈ p.stack.dropLast, o.state = .opened) : { s with plane := p }.Sound :=
  ⟨⟨⟨l.1.tabs.slots, l.1.tabs.heads, l.1.tabs.records, l.1.tabs.occupancy⟩, l.1.chains,
    l.1.bindings.congr (fun _ => rfl) (fun i x _ => x.1) l.1.bindings.free (fun _ => ⟨rfl, rfl⟩) rfl (fun _ => rfl) rfl rfl hg rfl,
    l.1.spans.congr (fun _ => ⟨rfl, rfl, rfl, rfl⟩) (fun _ => rfl) hg rfl,
    l.1.highlights.congr rfl rfl (fun _ x => ⟨x, rfl, rfl⟩) (fun _ x => x), hs⟩, l.2⟩

theorem State.dropPlane_sound {s : State} (l : s.Sound) : s.dropPlane.Sound :=
  State.setPlane_sound l { s.plane with inbox := s.plane.inbox.tail } rfl l.1.overlays

theorem execSpanWrite_sound {s t : State} (l : s.Sound) (h : execSpanWrite s = .next t) : t.Sound := by
  unfold execSpanWrite at h
  split at h
  · rename_i w rest hi
    split at h
    · cases h; exact l
    · cases h
      have f := PlaneController.spanFrom_frame w.row w.cells s.dropPlane.plane w.col
      exact State.setPlane_sound (State.dropPlane_sound l) _ (by rw [f]) (by rw [f]; exact l.1.overlays)
  · cases h; exact l

theorem State.takeText_sound {s : State} (l : s.Sound) (d : Descriptor) (vals : Option (List CellValue)) :
    (s.takeText d vals).Sound := by
  unfold State.takeText
  split
  · split
    · exact (State.still_complete _ _ _).sound l
    split
    · exact (State.still_complete _ _ _).sound l
    · rename_i layer vs _ _ _
      have f := Walk.run_frame s.field.occupancy layer vs (d.textRow * s.plane.columns + d.textCol) ⟨s.plane, 0, 0⟩
      exact (State.still_complete _ _ _).sound (State.setPlane_sound l _ (by rw [f]) (by rw [f]; exact l.1.overlays))
  · exact (State.still_complete _ _ _).sound l

theorem execWriteCells_sound {s t : State} (l : s.Sound) (h : execWriteCells s = .next t) : t.Sound := by
  unfold execWriteCells at h
  split at h <;> cases h
  · exact State.takeText_sound (State.dropPlane_sound l) _ _
  · exact l

theorem execFillCells_sound {s t : State} (l : s.Sound) (h : execFillCells s = .next t) : t.Sound := by
  unfold execFillCells at h
  split at h <;> cases h
  · exact State.takeText_sound (State.dropPlane_sound l) _ _
  · exact l

theorem execSetCursor_sound {s t : State} (l : s.Sound) (h : execSetCursor s = .next t) : t.Sound := by
  unfold execSetCursor at h
  split at h <;> cases h
  · have d := State.dropPlane_sound l
    unfold State.takeSetCursor
    dsimp only
    split
    · exact (State.still_complete _ _ _).sound d
    split
    · exact (State.still_complete _ _ _).sound d
    · refine (State.still_complete _ _ _).sound (State.Still.sound ?_ d)
      exact .of_units rfl rfl rfl rfl rfl
  · exact l

theorem execOpenOverlay_sound {s t : State} (l : s.Sound) (o : s.OneEach) (h : execOpenOverlay s = .next t) : t.Sound := by
  unfold execOpenOverlay at h
  split at h <;> cases h
  · rename_i d rest hi
    have nb := o.planeCommand _ _ hi rfl
    have k := State.dropPlane_sound l
    unfold State.takeOpen
    dsimp only
    split
    · exact (State.still_complete _ _ _).sound k
    · refine (State.still_sendPlanes _ _).sound (State.setPlane_sound k _ rfl fun v hv => ?_)
      have hv' : v ∈ s.plane.stack := by simpa [State.dropPlane] using hv
      have := List.any_eq_false.mp nb v hv'
      cases e : v.state <;> rw [e] at this <;> simp [OverlayState.underWay] at this ⊢
  · exact l

theorem State.setTop_sound {s : State} (l : s.Sound) (o : Overlay) (p : PlaneController)
    (hp : p.geometry = s.plane.geometry) (hs : p.stack = s.plane.stack) : { s with plane := p.setTop o }.Sound :=
  State.setPlane_sound l _ hp (by
    show ∀ v ∈ (p.stack.dropLast ++ [o]).dropLast, v.state = .opened
    rw [hs, List.dropLast_concat]; exact l.1.overlays)

theorem execCloseOverlay_sound {s t : State} (l : s.Sound) (h : execCloseOverlay s = .next t) : t.Sound := by
  unfold execCloseOverlay at h
  split at h <;> cases h
  · have k := State.dropPlane_sound l
    unfold State.takeClose
    split
    · exact (State.still_complete _ _ _).sound k
    · exact (State.still_sendPlanes _ _).sound (State.setTop_sound k _ _ rfl rfl)
  · exact l

theorem State.endOverlay_still (s : State) : s.Still s.endOverlay := .of_units rfl rfl rfl rfl rfl

theorem foldl_save_geometry (o : Overlay) (row : Nat) : ∀ (cols : List Nat) (p : PlaneController),
    (cols.foldl (o.saveCell row) p).geometry = p.geometry
  | [], _ => rfl
  | c :: cols, p => foldl_save_geometry o row cols (o.saveCell row p c)

theorem foldl_restore_geometry (o : Overlay) (row : Nat) : ∀ (cols : List Nat) (p : PlaneController),
    (cols.foldl (o.restoreCell row) p).geometry = p.geometry
  | [], _ => rfl
  | c :: cols, p => foldl_restore_geometry o row cols (o.restoreCell row p c)

theorem execOpeningRow_sound {s t : State} (l : s.Sound) (h : execOpeningRow s = .next t) : t.Sound := by
  unfold execOpeningRow at h
  split at h
  · rename_i rest o hi htop
    have k := State.dropPlane_sound l
    split at h <;> cases h
    · rename_i n _
      unfold State.openingRow
      dsimp only
      have f := (foldl_save_frame o (o.top + n) o.columnList s.dropPlane.plane).1
      have g := foldl_save_geometry o (o.top + n) o.columnList s.dropPlane.plane
      split
      · exact (State.still_sendPlanes _ _).sound (State.setTop_sound k _ _ g f)
      · exact (State.endOverlay_still _).sound (State.setTop_sound k _ _ g f)
    · exact l
    · exact l
  · cases h; exact l

theorem execClosingRow_sound {s t : State} (l : s.Sound) (h : execClosingRow s = .next t) : t.Sound := by
  unfold execClosingRow at h
  split at h
  · rename_i rest o hi htop
    have k := State.dropPlane_sound l
    split at h <;> cases h
    · rename_i n _
      unfold State.closingRow
      dsimp only
      have f := (foldl_restore_frame o (o.top + n) o.columnList s.dropPlane.plane).1
      have g := foldl_restore_geometry o (o.top + n) o.columnList s.dropPlane.plane
      split
      · exact (State.still_sendPlanes _ _).sound (State.setTop_sound k _ _ g f)
      · refine (State.endOverlay_still _).sound (State.setPlane_sound k _ g fun v hv => ?_)
        dsimp only at hv
        rw [f] at hv
        exact l.1.overlays v (List.dropLast_subset _ hv)
    · exact l
    · exact l
  · cases h; exact l

/-! ### A new geometry (R45, R118) -/

theorem Tab.find_mem {α : Type} (d : α) : ∀ (t : Tab α) (n : Nat) (v : α), Tab.find d t n = v → v ≠ d → (n, v) ∈ t
  | [], _, _, h, hv => absurd h.symm hv
  | (k, w) :: rest, n, v, h, hv => by
    unfold Tab.find at h
    split at h
    · rename_i e; subst e; subst h; simp
    · exact List.mem_cons_of_mem _ (Tab.find_mem d rest n v h hv)

theorem Tab.find_of_mem {α : Type} (d : α) : ∀ (t : Tab α), t.Pairwise (fun x y => x.1 < y.1) → ∀ (n : Nat) (v : α),
    (n, v) ∈ t → Tab.find d t n = v
  | [], _, _, _, h => by simp at h
  | (k, w) :: rest, hp, n, v, h => by
    have p := List.pairwise_cons.mp hp
    unfold Tab.find
    rcases List.mem_cons.mp h with e | e
    · cases e; simp
    · have := p.1 _ e
      dsimp only at this
      rw [if_neg (by omega)]
      exact Tab.find_of_mem d rest p.2 n v e

/-- What is listed at a number is what is read there. -/
theorem Tab.mem_iff {α : Type} {T : TabSpec α} {t : Tab α} (w : Tab.WF T t) (n : Nat) (v : α) (hv : v ≠ T.dflt) :
    (n, v) ∈ t ↔ t.get T n = v := by
  constructor
  · intro h
    unfold Tab.get
    rw [if_pos (w.2 _ h).1]
    exact Tab.find_of_mem _ _ w.1 n v h
  · intro h
    unfold Tab.get at h
    split at h
    · exact Tab.find_mem _ _ n v h hv
    · exact absurd h.symm hv

/-- What a run of markings leaves to be read, where no two of them meet at a cell. -/
theorem get_foldl_mark (P : Nat × FieldRec → Bool) (cells : FieldRec → List Nat) (n : Nat) (hn : n < 6144) (f : Nat) :
    ∀ (l : List (Nat × FieldRec)) (occ : Tab (Option Nat)), Tab.WF occSpec occ →
    (∀ e ∈ l, ∀ e' ∈ l, P e = true → n ∈ cells e.2 → P e' = true → n ∈ cells e'.2 → e.1 = e'.1) →
    ((l.foldl (fun occ e => if P e = true then markCells occ (cells e.2) (some e.1) else occ) occ).get occSpec n = some f ↔
      (∃ e ∈ l, P e = true ∧ n ∈ cells e.2 ∧ e.1 = f) ∨
        (occ.get occSpec n = some f ∧ ∀ e ∈ l, ¬(P e = true ∧ n ∈ cells e.2)))
  | [], occ, _, _ => by simp
  | e :: l, occ, w, hu => by
    have ih := get_foldl_mark P cells n hn f l (if P e = true then markCells occ (cells e.2) (some e.1) else occ)
      (by split
          · exact markCells_wf _ _ _ w
          · exact w)
      fun a ha b hb => hu a (by simp [ha]) b (by simp [hb])
    rw [List.foldl_cons, ih]
    have rd : (if P e = true then markCells occ (cells e.2) (some e.1) else occ).get occSpec n =
        if P e = true ∧ n ∈ cells e.2 then some e.1 else occ.get occSpec n := by
      by_cases p : P e = true
      · simp only [p, if_true, true_and]; exact get_markCells _ n hn _ _ w
      · simp [p]
    rw [rd]
    by_cases c : P e = true ∧ n ∈ cells e.2
    · simp only [c, and_self, if_true, Option.some.injEq]
      constructor
      · rintro (⟨a, ha, x⟩ | ⟨x, _⟩)
        · exact .inl ⟨a, by simp [ha], x⟩
        · exact .inl ⟨e, by simp, c.1, c.2, x⟩
      · rintro (⟨a, ha, x⟩ | ⟨_, x⟩)
        · by_cases none : ∀ b ∈ l, ¬(P b = true ∧ n ∈ cells b.2)
          · exact .inr ⟨(hu e (by simp) a ha c.1 c.2 x.1 x.2.1).trans x.2.2, none⟩
          · simp only [not_forall, not_not] at none
            obtain ⟨b, hb, y⟩ := none
            exact .inl ⟨b, hb, y.1, y.2, (hu b (by simp [hb]) a ha y.1 y.2 x.1 x.2.1).trans x.2.2⟩
        · exact absurd c (x e (by simp))
    · simp only [c, if_false]
      constructor
      · rintro (⟨a, ha, x⟩ | ⟨x, y⟩)
        · exact .inl ⟨a, by simp [ha], x⟩
        · refine .inr ⟨x, fun b hb => ?_⟩
          rcases List.mem_cons.mp hb with rfl | hb
          · exact c
          · exact y b hb
      · rintro (⟨a, ha, x⟩ | ⟨x, y⟩)
        · rcases List.mem_cons.mp ha with rfl | ha
          · exact absurd ⟨x.1, x.2.1⟩ c
          · exact .inl ⟨a, ha, x⟩
        · exact .inr ⟨x, fun b hb => y b (by simp [hb])⟩

theorem FieldRec.regeometry_cleared (g : Geometry) : FieldRec.regeometry g FieldRec.cleared = FieldRec.cleared := by
  unfold FieldRec.regeometry; rw [if_neg (by simp [FieldRec.cleared])]

theorem FieldRec.regeometry_keeps (g : Geometry) (r : FieldRec) : (r.regeometry g).row = r.row ∧
    (r.regeometry g).col = r.col ∧ (r.regeometry g).width = r.width ∧ (r.regeometry g).slot = r.slot ∧
    ((r.regeometry g).state = .free ↔ r.state = .free) ∧
    ((r.regeometry g).state = .bound ↔ r.state = .bound ∧ r.fits g = true) := by
  unfold FieldRec.regeometry
  split
  · rename_i h
    refine ⟨rfl, rfl, rfl, rfl, ?_, ?_⟩
    · simp [h.1]
    · simpa [h.1] using h.2
  · rename_i h
    refine ⟨rfl, rfl, rfl, rfl, Iff.rfl, ⟨fun x => ⟨x, ?_⟩, fun x => x.1⟩⟩
    by_contra y
    exact h ⟨x, by simpa using y⟩

/-- A place in a row of `c` columns, by its number. -/
theorem place_inj {c r i r' i' : Nat} (hi : i < c) (hi' : i' < c) (h : r * c + i = r' * c + i') : r = r' ∧ i = i' := by
  have hc : 0 < c := by omega
  have a : (r * c + i) / c = r := by rw [Nat.mul_comm, Nat.mul_add_div hc, Nat.div_eq_of_lt hi]; omega
  have b : (r' * c + i') / c = r' := by rw [Nat.mul_comm, Nat.mul_add_div hc, Nat.div_eq_of_lt hi']; omega
  have e : r = r' := by rw [← a, h, b]
  subst e
  exact ⟨rfl, by omega⟩

theorem State.regeometry_sound {s : State} (l : s.Sound) (g : Geometry)
    (hold : ∀ x, s.plane.geometry = some x → x.columns * x.rows ≤ 6144)
    (hq : s.highlight.queue = []) (ha : ∀ q ∈ s.highlight.requests, q.isArm = false)
    (hc : s.field.command = none) (hfr : ∀ f, s.freeing f = false) (hmv : s.moveWaiting = none) :
    (s.regeometry g).Sound := by
  have nm : ∀ f, s.moving f = false := fun f => by unfold State.moving; rw [hmv]
  have wr := l.1.tabs.records
  have rc : ∀ f, (s.regeometry g).record f = (s.record f).regeometry g := fun f =>
    Tab.get_mapListed fieldSpec (FieldRec.regeometry g) (FieldRec.regeometry_cleared g) _ f wr
  have kp := fun f => (s.record f).regeometry_keeps g
  have wr' : Tab.WF fieldSpec (s.field.records.mapListed fieldSpec (FieldRec.regeometry g)) := Tab.mapListed_wf _ _ _ wr
  have ge : (s.regeometry g).plane.geometry = some g := rfl
  refine ⟨⟨⟨l.1.tabs.slots, l.1.tabs.heads, wr', occupancyOf_wf _ _⟩, l.1.chains.congr rfl rfl, ?_, ?_, ?_, ?_⟩, l.2⟩
  · exact l.1.bindings.congrIdle hc (fun _ => rfl) l.1.bindings.free
      (fun f => by rw [rc]; exact ⟨(kp f).2.2.2.2.1, (kp f).2.2.2.1⟩) hc (fun _ => rfl) rfl rfl
  · have cols : ∀ f i, (s.record f).state = .bound → i < (s.record f).width → ∃ x, s.plane.geometry = some x ∧
        (s.record f).row < x.rows ∧ (s.record f).col + i < x.columns := fun f i hb hi => by
      have ft := l.1.spans.fits f hb
      unfold State.spanFits State.rows State.columns at ft
      simp only [Bool.and_eq_true, decide_eq_true_eq] at ft
      cases e : s.plane.geometry with
      | none => rw [e] at ft; simp at ft
      | some x => rw [e] at ft; simp at ft; exact ⟨x, rfl, by omega, by omega⟩
    -- two BOUND fields do not share a place
    have apart : ∀ f f' i i', (s.record f).state = .bound → (s.record f').state = .bound → i < (s.record f).width →
        i' < (s.record f').width → (s.record f).row = (s.record f').row →
        (s.record f).col + i = (s.record f').col + i' → f = f' := fun f f' i i' hb hb' hi hi' hr hcc => by
      obtain ⟨x, hx, hrow, hcol⟩ := cols f i hb hi
      have cap := hold x hx
      have hn : s.cellIndex (s.record f).row ((s.record f).col + i) < 6144 := by
        unfold State.cellIndex State.columns
        rw [hx]
        simp only [Option.map_some, Option.getD_some]
        have : ((s.record f).row + 1) * x.columns ≤ x.rows * x.columns := Nat.mul_le_mul_right _ hrow
        rw [Nat.mul_comm x.columns] at cap
        rw [Nat.add_mul] at this
        omega
      have m := l.1.spans.map _ hn
      have a := (m f).2 ⟨hb, hfr f, nm f, List.mem_map.mpr ⟨i, List.mem_range.mpr hi, rfl⟩⟩
      have b := (m f').2 ⟨hb', hfr f', nm f', List.mem_map.mpr ⟨i', List.mem_range.mpr hi', by rw [hr, hcc]⟩⟩
      rw [a] at b
      exact Option.some.inj b
    refine ⟨fun f h => ?_, fun f h => ?_, fun n hn f => ?_, fun m h => by
      rw [show (s.regeometry g).moveWaiting = s.moveWaiting from rfl, hmv] at h; simp at h⟩
    · rw [rc] at h ⊢
      rw [(kp f).2.2.1]
      exact l.1.spans.widths f (fun x => h ((kp f).2.2.2.2.1.2 x))
    · rw [rc] at h ⊢
      have b := (kp f).2.2.2.2.2.1 h
      have w := l.1.spans.widths f (by rw [b.1]; simp)
      have ft := b.2
      unfold FieldRec.fits at ft
      simp only [Bool.and_eq_true, decide_eq_true_eq] at ft
      rw [(kp f).1, (kp f).2.1, (kp f).2.2.1]
      unfold State.spanFits State.rows State.columns
      rw [ge]
      simp only [Option.map_some, Option.getD_some, Bool.and_eq_true, decide_eq_true_eq]
      omega
    · rw [rc, (kp f).1, (kp f).2.1, (kp f).2.2.1]
      have fr : (s.regeometry g).freeing f = false := hfr f
      have mr : (s.regeometry g).moving f = false := nm f
      rw [fr, mr]
      simp only [true_and]
      have occ := get_foldl_mark (fun e => decide (e.2.state = .bound))
        (fun r => (List.range r.width).map fun i => r.row * g.columns + (r.col + i)) n hn f
        (s.field.records.mapListed fieldSpec (FieldRec.regeometry g)) [] (Tab.nil_wf _) ?_
      · have e : (s.regeometry g).field.occupancy = (s.field.records.mapListed fieldSpec (FieldRec.regeometry g)).foldl
            (fun occ e => if decide (e.2.state = .bound) = true then
              markCells occ ((List.range e.2.width).map fun i => e.2.row * g.columns + (e.2.col + i)) (some e.1) else occ) [] := by
          show occupancyOf g _ = _
          unfold occupancyOf
          simp only [decide_eq_true_eq]
        rw [e, occ]
        have z : Tab.get occSpec ([] : Tab (Option Nat)) n = none := by unfold Tab.get; split <;> rfl
        rw [z]
        simp only [reduceCtorEq, false_and, or_false, decide_eq_true_eq]
        have sc : (s.regeometry g).spanCells (s.record f).row (s.record f).col (s.record f).width =
            (List.range (s.record f).width).map fun i => (s.record f).row * g.columns + ((s.record f).col + i) := rfl
        rw [sc]
        have rd : ∀ k v, v ≠ FieldRec.cleared → ((k, v) ∈ s.field.records.mapListed fieldSpec (FieldRec.regeometry g) ↔
            (s.record k).regeometry g = v) := fun k v hv => by
          rw [Tab.mem_iff wr' k v hv]
          exact ⟨fun x => by rw [← rc]; exact x, fun x => by rw [← rc] at x; exact x⟩
        constructor
        · rintro ⟨⟨k, v⟩, hm, hb, hcells, rfl⟩
          have nv : v ≠ FieldRec.cleared := fun x => by dsimp only at hb; rw [x] at hb; simp [FieldRec.cleared] at hb
          have := (rd k v nv).1 hm
          dsimp only at hb hcells
          rw [← this] at hb hcells
          rw [(kp k).1, (kp k).2.1, (kp k).2.2.1] at hcells
          exact ⟨hb, hcells⟩
        · rintro ⟨hb, hcells⟩
          have nv : (s.record f).regeometry g ≠ FieldRec.cleared := fun x => by rw [x] at hb; simp [FieldRec.cleared] at hb
          refine ⟨(f, (s.record f).regeometry g), (rd f _ nv).2 rfl, hb, ?_, rfl⟩
          dsimp only
          rw [(kp f).1, (kp f).2.1, (kp f).2.2.1]; exact hcells
      · rintro ⟨k, v⟩ hm ⟨k', v'⟩ hm' hb hcells hb' hcells'
        simp only [decide_eq_true_eq] at hb hb'
        have nv : v ≠ FieldRec.cleared := fun x => by rw [x] at hb; simp [FieldRec.cleared] at hb
        have nv' : v' ≠ FieldRec.cleared := fun x => by rw [x] at hb'; simp [FieldRec.cleared] at hb'
        have e : (s.record k).regeometry g = v := by rw [← rc]; exact (Tab.mem_iff wr' k v nv).1 hm
        have e' : (s.record k').regeometry g = v' := by rw [← rc]; exact (Tab.mem_iff wr' k' v' nv').1 hm'
        dsimp only at hcells hcells' ⊢
        rw [← e] at hb hcells
        rw [← e'] at hb' hcells'
        rw [(kp _).1, (kp _).2.1, (kp _).2.2.1] at hcells hcells'
        obtain ⟨b, ft⟩ := (kp k).2.2.2.2.2.1 hb
        obtain ⟨b', ft'⟩ := (kp k').2.2.2.2.2.1 hb'
        obtain ⟨i, hi, hx⟩ := List.mem_map.mp hcells
        obtain ⟨i', hi', hx'⟩ := List.mem_map.mp hcells'
        rw [List.mem_range] at hi hi'
        unfold FieldRec.fits at ft ft'
        simp only [Bool.and_eq_true, decide_eq_true_eq] at ft ft'
        have := place_inj (c := g.columns) (by omega) (by omega) (hx.trans hx'.symm)
        exact apart k k' i i' b b' hi hi' this.1 this.2
  · have h := l.1.highlights
    refine ⟨h.fields, h.order, h.waiting, h.holds, h.frames, h.last, fun e he _ => ?_, fun f k hk => ?_, fun f x => ?_⟩
    · have : e ∈ s.highlight.queue := he
      rw [hq] at this; simp at this
    · have := ha _ hk; simp [HighlightRequest.isArm] at this
    · have := hfr f; unfold State.freeing at this x; exact absurd (this.symm.trans x) (by simp)
  · simp [State.regeometry, PlaneController.regeometry]

/-! ### The commit (R191) -/

theorem State.still_readGlyph (s : State) (g : Nat) : s.Still (s.readGlyph g) := .of_units rfl rfl rfl rfl rfl

theorem setupHolds_le (ws : List Word) : ∀ k : Fin 4, (setupHolds ws).get k ≤ 255 := by
  intro k
  have b : ∀ n, setupByte ws n ≤ 255 := fun n => by unfold setupByte byteOf; omega
  fin_cases k
  · exact b 20
  · exact b 21
  · exact b 22
  · exact b 23

theorem State.commitShares_sound {s : State} (l : s.Sound) (ws : List Word) (hq : s.highlight.queue = []) :
    (s.commitShares ws).Sound := by
  have h := l.1.highlights
  refine ⟨⟨⟨l.1.tabs.slots, l.1.tabs.heads, l.1.tabs.records, l.1.tabs.occupancy⟩, l.1.chains,
    l.1.bindings.congr (fun _ => rfl) (fun i x _ => x.1) l.1.bindings.free (fun _ => ⟨rfl, rfl⟩) rfl (fun _ => rfl) rfl rfl rfl rfl,
    l.1.spans.congr (fun _ => ⟨rfl, rfl, rfl, rfl⟩) (fun _ => rfl) rfl rfl, ?_, l.1.overlays⟩, l.2⟩
  refine ⟨h.fields, h.order, h.waiting, setupHolds_le ws, h.frames, h.last, fun e he _ => ?_, h.arms, h.freed⟩
  have : e ∈ s.highlight.queue := he
  rw [hq] at this; simp at this

theorem State.still_commitTrigger (s : State) : s.Still s.commitTrigger :=
  ⟨rfl, rfl, rfl, rfl, rfl, rfl, rfl, rfl, rfl, rfl, rfl, joinTrigger_filter _ rfl _⟩

theorem State.commit_sound {s : State} (l : s.Sound) (o : s.OneEach) (hd : s.control.device = .loading)
    (hg : ∀ x, s.plane.geometry = some x → x.Legal)
    (hl : s.highlight.queue = [] ∧ ∀ q ∈ s.highlight.requests, q.isArm = false) (ws : List Word) : (s.commit ws).Sound := by
  have id := o.device (.inr hd)
  have wk := o.work .t
  rw [id .t] at wk
  simp only [State.worksOf, FieldUnit.works, decide_false, Bool.toNat_false, reduceCtorEq] at wk
  have hc : s.field.command = none := by
    cases e : s.field.command with
    | none => rfl
    | some d => rw [e] at wk; simp only [Option.isSome_some, Bool.toNat_true] at wk; omega
  have hev : ∀ v, s.field.event = some v → v.after.completes = false := fun v e => by
    rw [e] at wk
    cases x : v.after.completes with
    | false => rfl
    | true => dsimp only at wk; rw [x] at wk; simp only [Bool.toNat_true] at wk; omega
  have hfr : ∀ f, s.freeing f = false := fun f => by
    unfold State.freeing
    split
    · rename_i e; exact absurd (hev _ e) (by simp [FieldAfter.completes])
    · rfl
  have hmv : s.moveWaiting = none := by
    unfold State.moveWaiting
    split
    · rename_i e; exact absurd (hev _ e) (by simp [FieldAfter.completes])
    · rfl
  have tail : ∀ u : State, u.Sound → u.highlight.queue = [] →
      (((((((u.commitShares ws).endStart .running .done).sendCause .a .device).sendCause .b .device).commitTrigger).startRing
        .a).startRing .b |>.startRing .t).Sound := fun u lu hu => by
    refine State.Still.sound ?_ (State.commitShares_sound lu ws hu)
    refine (((((((State.still_endStart _ _ _).trans (State.still_sendCause _ _ _)).trans (State.still_sendCause _ _ _)).trans
      (State.still_commitTrigger _)).trans (State.still_startRing _ _)).trans (State.still_startRing _ _)).trans
      (State.still_startRing _ _))
  unfold State.commit
  dsimp only
  split
  · exact tail _ (State.regeometry_sound l _ (fun x hx => (hg x hx).2.2.2.2) hl.1 hl.2 hc hfr hmv) hl.1
  · exact tail _ l hl.1

theorem execSetupReadEnd_sound {s t : State} (l : s.Sound) (o : s.OneEach) (inv : s.Inv)
    (h : execSetupReadEnd s = .next t) : t.Sound := by
  unfold execSetupReadEnd at h
  split at h <;> cases h
  · rename_i ws _ hs
    have hd := inv.loading (.inl (by rw [hs]; simp))
    unfold State.takeSetup
    dsimp only
    have st : s.Still { s with control := { s.control with loaderInput := none } } := .of_units rfl rfl rfl rfl rfl
    split
    · exact (st.trans (State.still_endStart _ _ _)).sound l
    · split
      · refine State.Still.sound ?_ l
        exact State.Still.trans (t := { s with control := { s.control with loaderInput := none, block := ws } })
          (.of_units rfl rfl rfl rfl rfl) (State.still_readGlyph _ _)
      · refine State.commit_sound (st.sound l) ?_ hd inv.geometry (inv.highlight (by rw [hd]; simp)) ws
        exact o.same rfl rfl rfl rfl rfl (.inl rfl)
  · exact l

theorem execGlyphWrite_sound {s t : State} (l : s.Sound) (o : s.OneEach) (inv : s.Inv)
    (h : execGlyphWrite s = .next t) : t.Sound := by
  unfold execGlyphWrite at h
  split at h
  · cases h; exact l
  · rename_i w hw
    have hd := inv.loading (.inr (by rw [hw]; simp))
    have st : s.Still (s.storeGlyph w) := .of_units rfl rfl rfl rfl rfl
    dsimp only at h
    split at h <;> cases h
    · exact (st.trans (State.still_readGlyph _ _)).sound l
    · refine State.commit_sound (st.sound l) ?_ hd inv.geometry (inv.highlight (by rw [hd]; simp)) _
      exact o.same rfl rfl rfl rfl rfl (.inl rfl)

/-! ### STOP (R80, R193) -/

theorem State.clearHighlights_sound {s : State} (l : s.Sound) : s.clearHighlights.Sound := by
  have h := l.1.highlights
  have wr := l.1.tabs.records
  have rc : ∀ f, s.clearHighlights.record f = { s.record f with tick := .steady } := fun f =>
    Tab.get_mapListed fieldSpec (fun v => { v with tick := .steady }) rfl _ f wr
  refine ⟨⟨⟨l.1.tabs.slots, l.1.tabs.heads, Tab.mapListed_wf fieldSpec (fun v => { v with tick := .steady }) _ wr, l.1.tabs.occupancy⟩, l.1.chains,
    l.1.bindings.congr (fun _ => rfl) (fun i x _ => x.1) l.1.bindings.free (fun f => by rw [rc]; exact ⟨rfl, rfl⟩) rfl (fun _ => rfl)
      rfl rfl rfl rfl,
    l.1.spans.congr (fun f => by rw [rc]; exact ⟨rfl, rfl, rfl, rfl⟩) (fun _ => rfl) rfl rfl, ?_, l.1.overlays⟩, ?_⟩
  · exact ⟨by simp [State.clearHighlights], by simp [State.clearHighlights], by simp [State.clearHighlights], h.holds, h.frames,
      h.last, by simp [State.clearHighlights], by simp [State.clearHighlights], fun f _ => .inr ⟨rfl, by simp [State.clearHighlights]⟩⟩
  · unfold State.One; simp [State.clearHighlights]

theorem State.stopRunning_sound {s : State} (l : s.Sound) (hc : ∀ f, s.freeing f = true → s.field.command = none) :
    s.stopRunning.Sound := by
  unfold State.stopRunning
  dsimp only
  generalize hu : ({ s with control := { s.control with device := .stopping, ignored := false } } : State) = u
  have st : s.Still u := by subst hu; exact .of_units rfl rfl rfl rfl rfl
  have a := State.still_abandonSweep u.clearHighlights
  have b := a.sound (State.clearHighlights_sound (st.sound l))
  have c := State.fieldFinish_sound b fun f hf => by
    rw [a.command]
    have e : u.clearHighlights.freeing f = true := (a.freeing f).symm.trans hf
    have e' : s.freeing f = true := by subst hu; exact e
    have := hc f e'
    subst hu; exact this
  exact ((((State.still_offRequest _ _).trans (State.still_offRequest _ _)).trans (State.still_offRequest _ _)).trans
    (State.still_stopTest _)).sound c

theorem State.deviceControlWrite_sound {s : State} (l : s.Sound) (hc : ∀ f, s.freeing f = true → s.field.command = none)
    (v : Half) : (s.deviceControlWrite v).Sound := by
  have same : ∀ u : State, s.Still u → u.Sound := fun u k => k.sound l
  unfold State.deviceControlWrite
  split
  · exact l
  · exact same _ (.of_units rfl rfl rfl rfl rfl)
  · exact same _ (.of_units rfl rfl rfl rfl rfl)
  · exact State.stopRunning_sound l hc
  · exact same _ (.of_units rfl rfl rfl rfl rfl)

/-! ### Reset (R19, R66, R81, R119, R132) -/

theorem chainFrom_none (slots : Tab Slot) (n : Nat) : chainFrom slots n none = [] := by cases n <;> rfl

theorem reset_laws : State.reset.Laws := by
  have sl : ∀ i, State.reset.slot i = Slot.cleared := fun i => by unfold State.slot Tab.get; split <;> rfl
  have rc : ∀ i, State.reset.record i = FieldRec.cleared := fun i => by unfold State.record Tab.get; split <;> rfl
  have hd : ∀ b, State.reset.quote.heads.get headSpec b = none := fun b => by unfold Tab.get; split <;> rfl
  have ch : ∀ b, State.reset.quote.chain b = [] := fun b => by
    unfold QuoteEngine.chain; rw [hd]; exact chainFrom_none _ _
  have so : ∀ i, State.reset.quote.slots.get slotSpec i = Slot.cleared := sl
  refine ⟨⟨Tab.nil_wf _, Tab.nil_wf _, Tab.nil_wf _, Tab.nil_wf _⟩, ?_, ?_, ?_, ?_, ?_⟩
  · refine ⟨fun b => by rw [ch]; simp, fun b i => by rw [ch, so]; simp [Slot.cleared], fun b i => by rw [ch]; simp, fun i j => by
      rw [so]; simp [Slot.cleared], fun i => by rw [so]; simp [Slot.cleared]⟩
  · refine ⟨fun i _ => sl i, fun i => by rw [sl]; simp [Slot.cleared], fun i j f => by rw [sl]; simp [Slot.cleared], fun f _ h => ?_,
      fun f i _ h => ?_, rfl, ?_, ?_, ?_, ?_, ?_, ?_⟩
    · rw [rc] at h; exact absurd rfl h
    · rw [sl] at h; simp [Slot.cleared] at h
    · intro k h; simp [State.reset, QuoteEngine.reset] at h
    · intro k h; simp [State.reset, FieldUnit.reset] at h
    · intro k i h; simp [State.reset, QuoteEngine.reset] at h
    · intro k i h; simp [State.reset, FieldUnit.reset] at h
    · intro k h; simp [State.reset, QuoteEngine.reset] at h
    · intro k h; simp [State.reset, FieldUnit.reset, State.freeing] at h
  · refine ⟨fun f h => ?_, fun f h => ?_, fun n hn f => ?_, fun m h => by
      simp [State.reset, FieldUnit.reset, State.moveWaiting] at h⟩
    · rw [rc] at h; exact absurd rfl h
    · rw [rc] at h; simp [FieldRec.cleared] at h
    · have : State.reset.field.occupancy.get occSpec n = none := by unfold Tab.get; split <;> rfl
      rw [this, rc]; simp [FieldRec.cleared]
  · refine ⟨by simp [State.reset, HighlightTimer.reset], by simp [State.reset, HighlightTimer.reset],
      by simp [State.reset, HighlightTimer.reset], fun k => ?_, by simp [State.reset, HighlightTimer.reset], rfl,
      by simp [State.reset, HighlightTimer.reset], by simp [State.reset, HighlightTimer.reset], fun f h => ?_⟩
    · fin_cases k <;> simp [State.reset, HighlightTimer.reset, Vector.get]
    · simp [State.reset, FieldUnit.reset, State.freeing] at h
  · simp [State.reset, PlaneController.reset]

theorem reset_sound : State.reset.Sound := ⟨reset_laws, by unfold State.One; simp [State.reset, HighlightTimer.reset]⟩

/-! ### All commands -/

/-- While an event that completes a command is under way, no BIND_FIELD or UNBIND_FIELD waits. -/
theorem State.OneEach.eventAlone {s : State} (o : s.OneEach) (e : FieldEvent) (he : s.field.event = some e)
    (h : e.after.completes = true) : s.field.command = none := by
  have m := o.atMostOne
  unfold State.worksOf FieldUnit.works at m
  rw [he] at m
  dsimp only at m
  rw [h] at m
  simp only [Bool.toNat_true] at m
  cases c : s.field.command with
  | none => rfl
  | some d => rw [c] at m; simp only [Option.isSome_some, Bool.toNat_true] at m; omega

/-- While a field is being freed, no BIND_FIELD or UNBIND_FIELD waits. -/
theorem State.OneEach.freeingAlone {s : State} (o : s.OneEach) (f : Nat) (h : s.freeing f = true) :
    s.field.command = none := by
  unfold State.freeing at h
  split at h
  · rename_i e; exact o.eventAlone _ e rfl
  · simp at h

/-- While a move waits, no BIND_FIELD or UNBIND_FIELD waits. -/
theorem State.OneEach.movingAlone {s : State} (o : s.OneEach) (h : s.moveWaiting ≠ none) : s.field.command = none := by
  unfold State.moveWaiting at h
  split at h
  · rename_i e; exact o.eventAlone _ e rfl
  · simp at h

theorem State.Lawful.sound {s : State} (l : s.Lawful) (inv : s.Inv) : s.Sound :=
  ⟨⟨⟨inv.stores.slots, inv.stores.heads, inv.stores.records, inv.stores.occupancy⟩, l.chains, l.bindings, l.spans,
    l.highlights.core, l.overlays⟩, l.highlights.one⟩

theorem State.Sound.lawful {s : State} (l : s.Sound) (o : s.OneEach) : s.Lawful :=
  ⟨o, l.1.chains, l.1.bindings, l.1.spans, l.1.highlights.ok l.2, l.1.overlays⟩

theorem State.still_inOff (s : State) (r : RingId) (f : RingUnit → RingUnit) : s.Still (s.inOff r f) := by
  unfold State.inOff
  split
  · exact s.still_modRing r f
  · exact .refl s

theorem State.still_raiseWrite (s : State) (v : Half) : s.Still (s.raiseWrite v) := by
  unfold State.raiseWrite
  dsimp only
  split <;> split <;> first
    | exact (State.still_sendCause _ _ _).trans (State.still_sendCause _ _ _)
    | exact State.still_sendCause _ _ _
    | exact .refl s

theorem exec_sound {c : Instr} {s t : State} (l : s.Sound) (o : s.OneEach) (inv : s.Inv) (h : exec c s = .next t) :
    t.Sound := by
  have hc := o.freeingAlone
  have same : ∀ u : State, s.Still u → u.Sound := fun u k => k.sound l
  have dropI : ∀ r, s.Still (s.dropInput r) := fun r => State.still_modRing _ _ _
  cases c <;> simp only [exec] at h
  case hardwareReset =>
    cases h
    exact State.Still.sound (s := State.reset) (.of_units rfl rfl rfl rfl rfl) reset_sound
  case plainRender => exact execPlainRender_sound l h
  case tickRender => exact execTickRender_sound l h
  case resetRender => exact execResetRender_sound l h
  case expiry => exact execExpiry_sound l h
  case sweepTrigger => exact execSweepTrigger_sound l h
  case sweepStep => exact execSweepStep_sound l h
  case spanQueueRoom => exact execSpanQueueRoom_sound l hc o.movingAlone h
  case moveField => exact execMoveField_sound l o (fun x hx => (inv.geometry x hx).2.2.2.2) h
  case styleField => exact execStyleField_sound l h
  case setPen => exact execSetPen_sound l h
  case bindField => exact execBindField_sound l o h
  case unbindField => exact execUnbindField_sound l o h
  case repaint => exact execRepaint_sound l h
  case lookupResult => exact execLookupResult_sound l h
  case appendCompletion => exact execAppendCompletion_sound l h
  case removalCompletion => exact execRemovalCompletion_sound l h
  case defineInstrument => exact execDefineInstrument_sound l h
  case removeInstrument => exact execRemoveInstrument_sound l o h
  case setSources => exact execSetSources_sound l h
  case update => exact execUpdate_sound l h
  case snapshot => exact execSnapshot_sound l h
  case condition => exact execCondition_sound l h
  case bindingLookup => exact execBindingLookup_sound l h
  case append => exact execAppend_sound l h
  case removal => exact execRemoval_sound l h
  case renderQueueRoom => exact execRenderQueueRoom_sound l h
  case armRequest => exact execArmRequest_sound l hc h
  case removeRequest => exact execRemoveRequest_sound l hc h
  case highlightExpiry => exact execHighlightExpiry_sound l (fun x => (inv.highlight x).1) h
  case spanWrite => exact execSpanWrite_sound l h
  case writeCells => exact execWriteCells_sound l h
  case fillCells => exact execFillCells_sound l h
  case setCursor => exact execSetCursor_sound l h
  case openOverlay => exact execOpenOverlay_sound l o h
  case closeOverlay => exact execCloseOverlay_sound l h
  case openingRow => exact execOpeningRow_sound l h
  case closingRow => exact execClosingRow_sound l h
  case setupReadEnd => exact execSetupReadEnd_sound l o inv h
  case glyphWrite => exact execGlyphWrite_sound l o inv h
  case statusReadEnd r =>
    unfold execStatusReadEnd at h; split at h <;> cases h
    exacts [same _ ((dropI r).trans (State.still_takeStatusWord _ _ _)), l]
  case bodyReadEnd r =>
    unfold execBodyReadEnd at h; split at h <;> cases h
    exacts [same _ ((dropI r).trans (State.still_takeBody _ _ _)), l]
  case writeBackEnd r =>
    unfold execWriteBackEnd at h; split at h <;> cases h
    exacts [same _ (((dropI r).trans (State.still_handBack _ _)).trans (State.still_fetchOn _ _)), l]
  case outcomeTaken r =>
    unfold execOutcomeTaken at h; split at h <;> cases h
    exacts [same _ ((dropI r).trans (State.still_takeOutcome _ _ _ _)), l]
  case ringFetchFault r =>
    unfold execRingFetchFault at h; split at h <;> cases h
    exacts [same _ ((dropI r).trans (State.still_haltRing _ _ _)), same _ ((dropI r).trans (State.still_haltRing _ _ _)), l]
  case writebackFault r =>
    unfold execWritebackFault at h; split at h <;> cases h
    exacts [same _ ((dropI r).trans (State.still_haltRing _ _ _)), l]
  case memoryRequest =>
    unfold execMemoryRequest at h; split at h <;> cases h
    exacts [l, same _ (.of_units rfl rfl rfl rfl rfl)]
  case busGrant =>
    unfold execBusGrant at h; split at h <;> cases h
    exacts [l, same _ (.of_units rfl rfl rfl rfl rfl)]
  case transferAcknowledge data =>
    have en : ∀ u : State, u.Still u.endTransaction := fun u => .of_units rfl rfl rfl rfl rfl
    unfold execTransferAcknowledge at h
    split at h
    · cases h; exact l
    · split at h <;> cases h
      · exact l
      · unfold State.answerWord
        split
        · exact same _ (.of_units rfl rfl rfl rfl rfl)
        · exact same _ ((State.still_returnCompletion _ _ _).trans (en _))
  case responseLimitExpiry =>
    have en : ∀ u : State, u.Still u.endTransaction := fun u => .of_units rfl rfl rfl rfl rfl
    unfold execResponseLimitExpiry at h
    split at h
    · cases h; exact l
    · split at h <;> cases h
      · exact l
      · exact same _ ((State.still_returnFault _ _).trans (en _))
  case fetchFault =>
    unfold execFetchFault at h; split at h <;> cases h
    exacts [same _ (State.still_endStart _ _ _), l]
  case fontFault =>
    unfold execFontFault at h; split at h <;> cases h
    exacts [same _ (State.still_endStart _ _ _), l]
  case glyphReadEnd =>
    unfold execGlyphReadEnd at h; split at h <;> cases h
    exacts [same _ (.of_units rfl rfl rfl rfl rfl), l]
  case selectorWrite => cases h; exact same _ (.of_units rfl rfl rfl rfl rfl)
  case writeIgnored => cases h; exact l
  case ringOn => unfold execRingOn at h; split at h <;> cases h; exacts [same _ (State.still_portControlWrite _ _ _), l]
  case ringOff => unfold execRingOff at h; split at h <;> cases h; exacts [same _ (State.still_portControlWrite _ _ _), l]
  case kick => unfold execKick at h; split at h <;> cases h; exacts [same _ (State.still_portControlWrite _ _ _), l]
  case attnPendingClear =>
    unfold execAttnPendingClear at h; split at h <;> cases h
    exacts [same _ (.of_units rfl rfl rfl rfl rfl), l]
  case attnEnableWrite =>
    unfold execAttnEnableWrite at h; split at h <;> cases h
    exacts [same _ (.of_units rfl rfl rfl rfl rfl), l]
  case attentionCauseSet =>
    unfold execAttentionCauseSet at h; split at h <;> cases h
    exacts [l, same _ (.of_units rfl rfl rfl rfl rfl)]
  case ringBaseWrite =>
    unfold execRingBaseWrite at h; split at h <;> cases h
    exacts [same _ (State.still_inOff _ _ _), l]
  case ringLengthWrite =>
    unfold execRingLengthWrite at h; split at h <;> cases h
    exacts [same _ (State.still_inOff _ _ _), l]
  case counterClear =>
    unfold execCounterClear at h; split at h <;> cases h
    exacts [same _ (State.still_modRing _ _ _), l]
  case start => unfold execStart at h; split at h <;> cases h; exacts [State.deviceControlWrite_sound l hc _, l]
  case stop => unfold execStop at h; split at h <;> cases h; exacts [State.deviceControlWrite_sound l hc _, l]
  case ignoredCommand =>
    unfold execIgnoredCommand at h; split at h <;> cases h
    exacts [State.deviceControlWrite_sound l hc _, l]
  case setupAddressWrite =>
    unfold execSetupAddressWrite at h
    split at h
    · split at h <;> cases h
      exacts [same _ (.of_units rfl rfl rfl rfl rfl), l]
    · cases h; exact l
  case raise => unfold execRaise at h; split at h <;> cases h; exacts [same _ (State.still_raiseWrite _ _), l]
  case probeSelect =>
    unfold execProbeSelect at h; split at h <;> cases h
    exacts [same _ (.of_units rfl rfl rfl rfl rfl), l]
  case ringStoppedReport =>
    unfold execRingStoppedReport at h; split at h <;> cases h
    · exact l
    · refine same _ (State.Still.trans ?_ (State.still_stopTest _)); exact .of_units rfl rfl rfl rfl rfl
  case overlayEndReport =>
    unfold execOverlayEndReport at h; split at h <;> cases h
    · exact l
    · refine same _ (State.Still.trans ?_ (State.still_stopTest _)); exact .of_units rfl rfl rfl rfl rfl
  case ringFrameEvent =>
    unfold execRingFrameEvent at h; split at h <;> cases h
    exacts [l, same _ (State.still_ringFrame _ _)]
  case silent =>
    unfold execSilent at h; split at h
    · cases h; exact l
    · split at h <;> cases h
      exacts [same _ (State.still_ringFrame _ _), l]
  case cursorChange =>
    unfold execCursorChange at h; split at h
    · cases h; exact l
    · split at h <;> cases h
      exacts [l, same _ (.of_units rfl rfl rfl rfl rfl)]
  case frameScanStart =>
    unfold execFrameScanStart at h; split at h
    · cases h; exact l
    · split at h <;> cases h
      exacts [same _ (.of_units rfl rfl rfl rfl rfl), l]
  case frameEvent => unfold execFrameEvent at h; split at h <;> cases h; exacts [raiseFrame_sound l, l]
  case blinkPhaseChange => unfold execBlinkPhaseChange at h; split at h <;> cases h; exacts [raiseFrame_sound l, l]

/-- Every command keeps the laws. -/
theorem exec_lawful {c : Instr} {s t : State} (inv : s.Inv) (l : s.Lawful) (h : exec c s = .next t) : t.Lawful := by
  refine (exec_sound (l.sound inv) l.each inv h).lawful (exec_oneEach l.each inv.loading l.overlays (fun f i d m e => ?_) h)
  obtain ⟨d', b, _⟩ := l.bindings.appended f i m
  have : d' = d := by have := b.1; rw [e] at this; exact (Option.some.inj this).symm
  subst this
  exact b.2.2.1

/-- What leaves the tables, the queues and the requests as they are keeps the laws. -/
theorem State.Still.lawful {s t : State} (k : s.Still t) (l : s.Lawful) (inv : s.Inv) (o : t.OneEach) : t.Lawful :=
  (k.sound (l.sound inv)).lawful o

end Sys2Proof.Machine
end

