-- ==== Sys2Proof/WellFormed.lean ====
section
/-! DEFINITION. Which terms of `Instr` are commands that can be sent: a PORT_CONTROL or DEVICE_CONTROL row carries a
value with its own bit set (R184, R189), and Ring T has no silence counter (R147). `exec` gives every term a meaning,
well formed or not. -/

namespace Sys2Proof

/-- The check of one command, constructor by constructor. -/
def Instr.wf : Instr → Bool
  | .hardwareReset => true
  | .selectorWrite _ _ => true
  | .writeIgnored _ _ => true
  | .ringOn _ v => v.getLsbD 0
  | .ringOff _ v => v.getLsbD 1
  | .kick _ v => v.getLsbD 2
  | .attnPendingClear _ _ => true
  | .attnEnableWrite _ _ => true
  | .ringBaseWrite _ _ => true
  | .ringLengthWrite _ _ => true
  | .counterClear _ _ => true
  | .start => true
  | .stop => true
  | .ignoredCommand v => v.getLsbD 0 || v.getLsbD 1
  | .setupAddressWrite _ => true
  | .raise _ => true
  | .probeSelect _ => true
  | .attentionCauseSet _ => true
  | .memoryRequest _ => true
  | .busGrant => true
  | .transferAcknowledge _ => true
  | .responseLimitExpiry => true
  | .statusReadEnd _ => true
  | .bodyReadEnd _ => true
  | .outcomeTaken _ => true
  | .writeBackEnd _ => true
  | .ringFetchFault _ => true
  | .writebackFault _ => true
  | .ringFrameEvent _ => true
  | .silent r => decide (r ≠ .t)
  | .update => true
  | .snapshot => true
  | .condition => true
  | .defineInstrument => true
  | .removeInstrument => true
  | .setSources => true
  | .renderQueueRoom => true
  | .bindingLookup => true
  | .append => true
  | .removal => true
  | .plainRender => true
  | .tickRender => true
  | .resetRender => true
  | .spanQueueRoom => true
  | .bindField => true
  | .lookupResult => true
  | .appendCompletion => true
  | .unbindField => true
  | .removalCompletion => true
  | .moveField => true
  | .styleField => true
  | .setPen => true
  | .expiry => true
  | .sweepTrigger => true
  | .sweepStep => true
  | .repaint => true
  | .armRequest => true
  | .removeRequest => true
  | .highlightExpiry => true
  | .spanWrite => true
  | .writeCells => true
  | .fillCells => true
  | .setCursor => true
  | .cursorChange => true
  | .openOverlay => true
  | .closeOverlay => true
  | .openingRow => true
  | .closingRow => true
  | .overlayEndReport => true
  | .ringStoppedReport => true
  | .setupReadEnd => true
  | .fetchFault => true
  | .glyphReadEnd => true
  | .fontFault => true
  | .glyphWrite => true
  | .frameScanStart => true
  | .frameEvent => true
  | .blinkPhaseChange => true

/-- The command is well formed. -/
abbrev Instr.WellFormed (i : Instr) : Prop := i.wf = true

end Sys2Proof
end

