-- ==== Sys2Proof/Tests/Slice0.lean ====
section
/-! SUPPORT. The model's own tests: the well-formedness smoke test, single steps from the worked examples of the spec,
and for every statement that has hypotheses a witness that meets them, clause by clause. -/

namespace Sys2Proof.Tests

open Sys2Proof Sys2Proof.Machine Sys2Proof.Statement

set_option maxRecDepth 20000

/-! ### Well-formedness -/

theorem test_wf_ring_on : ¬(Instr.ringOn .a 2).WellFormed ∧ (Instr.ringOn .a 1).WellFormed := by decide
theorem test_wf_ring_off : ¬(Instr.ringOff .a 1).WellFormed ∧ (Instr.ringOff .a 2).WellFormed := by decide
theorem test_wf_kick : ¬(Instr.kick .a 3).WellFormed ∧ (Instr.kick .a 4).WellFormed := by decide
theorem test_wf_ignored_command : ¬(Instr.ignoredCommand 4).WellFormed ∧ (Instr.ignoredCommand 3).WellFormed := by decide
theorem test_wf_silent : ¬(Instr.silent .t).WellFormed ∧ (Instr.silent .a).WellFormed := by decide
theorem test_no_row_has_bits : decodeTableWord 8 0 = none ∧ decodeTableWord 16 1 = none := by decide

/-! ### Small states -/

/-- A port with its selector at a register. -/
def at_ (p : Port) (n : BitVec 5) (s : State) : State := s.modPort p fun u => { u with selector := n }

/-- The machine after reset with one ring in a state and phase. -/
def ringIn (r : RingId) (st : RingState) (ph : FetchPhase) : State :=
  State.reset.modRing r fun u => { u with state := st, phase := ph }

/-- Something returned to a ring. -/
def given (r : RingId) (i : RingInput) (s : State) : State := s.modRing r fun u => { u with input := [i] }

/-- A frame event waiting at a ring. -/
def framed (r : RingId) (s : State) : State := s.modRing r fun u => { u with frames := [1] }

/-- The device in a state. -/
def dev (d : DeviceState) (s : State) : State := s.setDevice d

/-- A descriptor from its words. -/
def desc (w0 : Nat) (ws : List Nat) : Descriptor := ⟨BitVec.ofNat 32 w0, ws.map (BitVec.ofNat 32)⟩

/-- A word from four bytes, byte 0 first. -/
def le (a b c d : Nat) : Nat := a + 256 * b + 65536 * c + 16777216 * d

/-- The Quote Engine with a request at its front. -/
def quoting (q : QuoteRequest) (s : State) : State := { s with quote := { s.quote with inbox := [q] } }

/-- The Field Unit with a request at its front. -/
def fielding (q : FieldRequest) (s : State) : State := { s with field := { s.field with inbox := [q] } }

/-- The Plane Controller with a request at its front. -/
def planing (q : PlaneRequest) (s : State) : State := { s with plane := { s.plane with inbox := [q] } }

/-- A geometry of 32 columns and 8 rows. -/
def sized (s : State) : State := { s with plane := { s.plane with geometry := some ⟨32, 8⟩ } }

/-- The instrument with key 1 in slot 0: SYNCED at sequence 5, TRADING, source A, item 0 present, given bindings. -/
def slotOne (bs : List Nat) : Slot :=
  { Slot.cleared with
    occupied := true, key := 1, sources := ⟨true, false, false⟩, seqState := .synced, lastSeq := 5, bindings := bs,
    items := (Vector.replicate 8 none).set 0 (some ⟨10259, 2⟩) }

/-- A machine that holds the instrument of key 1. -/
def holding (bs : List Nat) (s : State) : State :=
  { s with quote := { s.quote with slots := [(0, slotOne bs)], heads := [(1, some 0)] } }

/-- A BOUND field 3 on slot 0, item 0, at row 1, columns 2 to 7. -/
def fieldThree (rule : ColourRule) : FieldRec :=
  ⟨.bound, 0, 0, 1, 2, 6, { Style.cleared with places := 2, rule := rule, upPen := 1, downPen := 2, stalePen := 3 }, .steady, 0⟩

/-- The cells of the span of field 3: 34 to 39. -/
def spanThree : Tab (Option Nat) := [(34, some 3), (35, some 3), (36, some 3), (37, some 3), (38, some 3), (39, some 3)]

/-- A machine in which field 3 is bound. -/
def bound (rule : ColourRule) : State :=
  let s := holding [3] (sized State.reset)
  { s with field := { s.field with records := [(3, fieldThree rule)], occupancy := spanThree } }

/-- A machine in which field 3 is SUSPENDED. -/
def suspended : State :=
  let s := holding [3] (sized State.reset)
  { s with field := { s.field with records := [(3, { fieldThree .tick with state := .suspended })] } }

/-- A full span-write queue. -/
def fullPlane (s : State) : State :=
  { s with plane := { s.plane with inbox := List.replicate 64 (.span ⟨0, 0, [⟨65, 1⟩]⟩) } }

/-- A Field Unit event under way. -/
def inEvent (spans : List SpanWrite) (after : FieldAfter) (s : State) : State :=
  { s with field := { s.field with event := some ⟨spans, after⟩ } }

/-- One request on its way to the Highlight Timer. -/
def asking (q : HighlightRequest) (s : State) : State := { s with highlight := { s.highlight with requests := [q] } }

/-- A full render queue. -/
def fullField (s : State) : State :=
  { s with field := { s.field with inbox := List.replicate 64 (.render (.plain 3)) } }

/-- A transaction in flight. -/
def carrying (k : TxKind) (moved : Nat) (ph : TxPhase) : State :=
  let tx : Transaction := ⟨k, 64, moved, [], ph⟩
  { State.reset with memory := { State.reset.memory with inFlight := some tx } }

/-- One overlay of 2 rows and 3 columns at row 1, column 2. -/
def overlayIn (st : OverlayState) : Overlay := ⟨1, 2, 2, 3, 0, st, ⟨65, 4⟩⟩

/-- A machine with overlays on its stack. -/
def stacked (os : List Overlay) (s : State) : State := { s with plane := { s.plane with stack := os } }

/-- A setup block that passes the checks: 32 columns, 8 rows, glyph height 8, half-period 2, a flags byte. -/
def block (flags : Nat) : List Word :=
  [le 32 8 8 2, le 1 2 0 flags, 5, 0x1000, 0x2000, le 0 3 5 1].map (BitVec.ofNat 32) ++ List.replicate 26 0

/-- The Setup Loader with something returned to it, in LOADING. -/
def loading (st : LoaderStage) (i : LoaderInput) : State :=
  let s := dev .loading State.reset
  { s with control := { s.control with stage := st, loaderInput := some i } }

/-- A glyph write on its way, in LOADING. -/
def writing (g : Nat) : State :=
  let s := dev .loading State.reset
  { s with control := { s.control with stage := .font g, block := block 1 }
           video := { s.video with glyphWrite := some ⟨g, Vector.replicate 16 1⟩ } }

/-- A START command's port and register. -/
def ready (d : DeviceState) : State := at_ .t 16 (dev d State.reset)

/-- A machine that shows its picture, with or without a frame under way. -/
def showing (scan : Option Scan) (counter : Nat) : State :=
  { State.reset with video := { State.reset.video with shown := true, scan := scan, blinkCounter := counter, blinkHalf := 2 } }

/-- The parts of the invariant, each decidable, put together. -/
theorem inv_of (s : State)
    (hs : Tab.WF slotSpec s.quote.slots ∧ Tab.WF headSpec s.quote.heads ∧ Tab.WF fieldSpec s.field.records ∧
      Tab.WF occSpec s.field.occupancy ∧ Tab.WF cellSpec s.plane.cells ∧ Tab.WF saveSpec s.plane.save ∧
      Tab.WF glyphSpec s.video.glyphs)
    (hr : ∀ u ∈ [s.rings.a, s.rings.b, s.rings.t], u.base.toNat % 64 = 0 ∧ u.phase ≠ .ready ∧
      (u.state = .on ∨ u.state = .silent ∨ u.state = .stopping → u.index < u.length) ∧ u.silenceCounter ≤ 4080)
    (ho : s.plane.stack.length ≤ 4 ∧ regionsFrom 0 s.plane.stack = true ∧ s.plane.inUse ≤ 3072 ∧
      ∀ o ∈ s.plane.stack, s.plane.Holds o)
    (hg : s.plane.geometry = none ∨ s.plane.geometry = some ⟨32, 8⟩)
    (hd : s.control.device ≠ .running →
      (s.highlight.queue = [] ∧ ∀ q ∈ s.highlight.requests, q.isArm = false) ∧ s.field.sweep.active = false)
    (hl : s.control.stage ≠ .idle ∨ s.video.glyphWrite ≠ none → s.control.device = .loading)
    (hc : s.fontUnderWay = true → setupFailure s.control.block = none)
    (hb : s.video.shown = true → s.video.blinkCounter < s.video.blinkHalf ∧ 2 ≤ s.video.blinkHalf) : s.Inv where
  stores := ⟨hs.1, hs.2.1, hs.2.2.1, hs.2.2.2.1, hs.2.2.2.2.1, hs.2.2.2.2.2.1, hs.2.2.2.2.2.2⟩
  ringA := have h := hr s.rings.a (by simp); ⟨h.1, h.2.1, h.2.2.1, h.2.2.2⟩
  ringB := have h := hr s.rings.b (by simp); ⟨h.1, h.2.1, h.2.2.1, h.2.2.2⟩
  ringT := have h := hr s.rings.t (by simp); ⟨h.1, h.2.1, h.2.2.1, h.2.2.2⟩
  overlays := ⟨ho.1, ho.2.1, ho.2.2.1, ho.2.2.2⟩
  geometry := by
    intro g h
    rcases hg with hg | hg
    · simp [hg] at h
    · rw [hg] at h
      obtain rfl := Option.some.inj h
      decide
  highlight := fun h => (hd h).1
  sweep := fun h => (hd h).2
  loading := hl
  checked := hc
  blink := hb

/-- The stores of a small state are canonical. -/
theorem stores_of (s : State)
    (hs : Tab.WF slotSpec s.quote.slots ∧ Tab.WF headSpec s.quote.heads ∧ Tab.WF fieldSpec s.field.records ∧
      Tab.WF occSpec s.field.occupancy ∧ Tab.WF cellSpec s.plane.cells ∧ Tab.WF saveSpec s.plane.save ∧
      Tab.WF glyphSpec s.video.glyphs) : s.StoresWF :=
  ⟨hs.1, hs.2.1, hs.2.2.1, hs.2.2.2.1, hs.2.2.2.2.1, hs.2.2.2.2.2.1, hs.2.2.2.2.2.2⟩

/-! ### Witnesses: the machine as a whole -/

theorem witness_StepRunsFrontCommand :
    { State.reset with pending := [Instr.start, .stop] }.pending = .start :: [.stop] ∧ State.reset.pending = [] ∧
    { State.reset with resetHeld := true }.resetHeld = true ∧ State.reset.resetHeld = false ∧
    State.reset.video.scan = none ∧ (showing (some ⟨some ⟨32, 8⟩, some 8, Cursor.reset, 2047⟩) 1).resetHeld = false ∧
    (showing (some ⟨some ⟨32, 8⟩, some 8, Cursor.reset, 2047⟩) 1).video.scan =
      some ⟨some ⟨32, 8⟩, some 8, Cursor.reset, 2047⟩ := by decide

theorem witness_StepKeepsInvariant : ∃ s t, s.Inv ∧ step s = .next t ∧ t ≠ s :=
  ⟨{ State.reset with pending := [.selectorWrite .t 16] }, _,
    inv_of _ (by decide) (by decide) (by decide) (by decide) (by decide) (by decide) (by decide) (by decide), rfl, by decide⟩

/-- What the tables of a machine with field 3 bound hold, entry by entry. -/
theorem bound_slot (r : ColourRule) (i : Nat) : (bound r).slot i = if i = 0 then slotOne [3] else Slot.cleared := by
  show Tab.get slotSpec [(0, slotOne [3])] i = _
  unfold Tab.get
  by_cases h : i = 0
  · subst h; rfl
  · simp [Tab.find, h, Ne.symm h, slotSpec]

theorem bound_record (r : ColourRule) (f : Nat) :
    (bound r).record f = if f = 3 then fieldThree r else FieldRec.cleared := by
  show Tab.get fieldSpec [(3, fieldThree r)] f = _
  unfold Tab.get
  by_cases h : f = 3
  · subst h; rfl
  · simp [Tab.find, h, Ne.symm h, fieldSpec]

theorem bound_cell (r : ColourRule) (n : Nat) :
    (bound r).field.occupancy.get occSpec n = if 34 ≤ n ∧ n < 40 then some 3 else none := by
  show Tab.get occSpec spanThree n = _
  unfold Tab.get
  by_cases h : 34 ≤ n ∧ n < 40
  · have : n = 34 ∨ n = 35 ∨ n = 36 ∨ n = 37 ∨ n = 38 ∨ n = 39 := by omega
    rcases this with rfl | rfl | rfl | rfl | rfl | rfl <;> rfl
  · have : ∀ k, 34 ≤ k → k < 40 → ¬k = n := fun k a b c => h (by omega)
    simp [Tab.find, spanThree, this, h, occSpec]

theorem bound_head (r : ColourRule) (b : Nat) :
    (bound r).quote.heads.get headSpec b = if b = 1 then some 0 else none := by
  show Tab.get headSpec [(1, some 0)] b = _
  unfold Tab.get
  by_cases h : b = 1
  · subst h; rfl
  · simp [Tab.find, h, Ne.symm h, headSpec]

theorem bound_chain (r : ColourRule) (b : Nat) : (bound r).quote.chain b = if b = 1 then [0] else [] := by
  unfold QuoteEngine.chain
  rw [bound_head]
  split
  · rfl
  · exact chainFrom_none _ _

/-- The laws of the tables and queues hold of a machine with an instrument and a field bound to it. -/
theorem witness_StepKeepsInvariant_laws : (bound .tick).Lawful := by
  have sl := bound_slot .tick
  have rc := bound_record .tick
  have sq : ∀ i, (bound .tick).quote.slots.get slotSpec i = if i = 0 then slotOne [3] else Slot.cleared := sl
  refine ⟨?_, ?_, ?_, ?_, ?_, ?_⟩
  · refine ⟨fun r => by cases r <;> rfl, fun r => by cases r <;> rfl, fun r _ => by cases r <;> rfl,
      fun _ r => by cases r <;> rfl, fun q tx h => ?_⟩
    rcases q with (_|_|_)|_ <;> rcases h with h | h <;> cases h
  · refine ⟨fun b => ?_, fun b i => ?_, fun b i => ?_, fun i j => ?_, fun i => ?_⟩
    · rw [bound_chain]; split <;> simp
    · rw [bound_chain, sq]
      by_cases hb : b = 1 <;> by_cases hi : i = 0
      · subst hb; subst hi; decide
      · simp [hb, hi, Slot.cleared]
      · subst hi
        have : bucketOf (slotOne [3]).key = 1 := by decide
        simp [hb, this, Ne.symm hb]
      · simp [hb, hi, Slot.cleared]
    · rw [bound_chain, sq]
      split
      · intro h; simp at h; subst h; rfl
      · simp
    · rw [sq, sq]
      by_cases hi : i = 0 <;> by_cases hj : j = 0 <;> simp [hi, hj, Slot.cleared]
    · rw [sq]
      by_cases hi : i = 0 <;> simp [hi, Slot.cleared, slotOne]
  · have nt : ∀ f, ¬(bound .tick).inTransit f := fun f h => by
      rcases h with ⟨i, h⟩ | h | h <;> simp [bound, holding, sized, State.reset, FieldUnit.reset, State.freeing] at h
    refine ⟨fun i h => ?_, fun i => ?_, fun i j f => ?_, fun f _ h => ?_, fun f i _ h => ?_, rfl, fun k h => ?_, fun l h => ?_,
      fun f i h => ?_, fun f i h => ?_, fun f h => ?_, fun f h => ?_⟩
    · rw [sl] at h ⊢
      by_cases hi : i = 0
      · subst hi; simp [slotOne] at h
      · simp [hi]
    · rw [sl]; by_cases hi : i = 0 <;> simp [hi, Slot.cleared, slotOne]
    · rw [sl, sl]; by_cases hi : i = 0 <;> by_cases hj : j = 0 <;> simp [hi, hj, Slot.cleared]
    · rw [rc] at h ⊢
      by_cases hf : f = 3
      · subst hf; decide
      · simp [hf, FieldRec.cleared] at h
    · rw [sl] at h
      by_cases hi : i = 0
      · simp [hi, slotOne] at h; rw [h, hi]; decide
      · simp [hi, Slot.cleared] at h
    · simp [bound, holding, sized, State.reset, QuoteEngine.reset] at h
    · simp [bound, holding, sized, State.reset, FieldUnit.reset] at h
    · simp [bound, holding, sized, State.reset, QuoteEngine.reset] at h
    · exact absurd (.inl ⟨i, h⟩) (nt f)
    · simp [bound, holding, sized, State.reset, QuoteEngine.reset] at h
    · exact absurd (.inr h) (nt f)
  · refine ⟨fun f h => ?_, fun f h => ?_, fun n hn f => ?_, fun m h => ?_⟩
    · rw [rc] at h ⊢
      by_cases hf : f = 3
      · subst hf; decide
      · simp [hf, FieldRec.cleared] at h
    · rw [rc] at h ⊢
      by_cases hf : f = 3
      · subst hf; decide
      · simp [hf, FieldRec.cleared] at h
    · rw [bound_cell, rc]
      by_cases hf : f = 3
      · subst hf
        have c : (bound .tick).spanCells (fieldThree .tick).row (fieldThree .tick).col (fieldThree .tick).width =
            [34, 35, 36, 37, 38, 39] := by decide
        have fr : (bound .tick).freeing 3 = false := rfl
        have mv : (bound .tick).moving 3 = false := rfl
        simp only [if_true, c, fr, mv]
        have b : (fieldThree .tick).state = .bound := rfl
        simp only [b, true_and, List.mem_cons, List.not_mem_nil, or_false]
        by_cases h : 34 ≤ n ∧ n < 40
        · simp [h]; omega
        · simp [h]; omega
      · have hf' : ¬3 = f := fun x => hf x.symm
        simp only [hf, if_false, FieldRec.cleared]
        split <;> simp [hf']
    · simp [bound, holding, sized, State.reset, FieldUnit.reset, State.moveWaiting] at h
  · refine ⟨by decide, by decide, by decide, by decide, by decide, by decide, by decide, ?_, by decide, fun f h => ?_⟩
    · intro f k h; simp [bound, holding, sized, State.reset, HighlightTimer.reset] at h
    · simp [bound, holding, sized, State.reset, FieldUnit.reset, State.freeing] at h
  · decide

theorem witness_DeviceStateMoves_reset : ∃ s t, s.Inv ∧ exec .hardwareReset s = .next t ∧ t.control.device ≠ s.control.device :=
  ⟨dev .running State.reset, _,
    inv_of _ (by decide) (by decide) (by decide) (by decide) (by decide) (by decide) (by decide) (by decide), rfl, by decide⟩
theorem witness_DeviceStateMoves_start : ∃ s t, s.Inv ∧ exec .start s = .next t ∧ t.control.device ≠ s.control.device :=
  ⟨ready .stopped, _,
    inv_of _ (by decide) (by decide) (by decide) (by decide) (by decide) (by decide) (by decide) (by decide), rfl, by decide⟩
theorem witness_DeviceStateMoves_setup :
    ∃ s t, s.Inv ∧ exec .setupReadEnd s = .next t ∧ t.control.device ≠ s.control.device :=
  ⟨loading .setup (.setupWords (block 0)), _,
    inv_of _ (by decide) (by decide) (by decide) (by decide) (by decide) (by decide) (by decide) (by decide), rfl, by decide⟩
theorem witness_DeviceStateMoves_fault :
    ∃ s t, s.Inv ∧ exec .fetchFault s = .next t ∧ t.control.device ≠ s.control.device :=
  ⟨loading .setup .fault, _,
    inv_of _ (by decide) (by decide) (by decide) (by decide) (by decide) (by decide) (by decide) (by decide), rfl, by decide⟩
theorem witness_DeviceStateMoves_stop : ∃ s t, s.Inv ∧ exec .stop s = .next t ∧ t.control.device ≠ s.control.device :=
  ⟨ready .running, _,
    inv_of _ (by decide) (by decide) (by decide) (by decide) (by decide) (by decide) (by decide) (by decide), rfl, by decide⟩
theorem witness_DeviceStateMoves_report :
    ∃ s t, s.Inv ∧ exec .overlayEndReport s = .next t ∧ t.control.device ≠ s.control.device :=
  ⟨(let s := dev .stopping State.reset
    { s with control := { s.control with overlayReports := 1 } }), _,
    inv_of _ (by decide) (by decide) (by decide) (by decide) (by decide) (by decide) (by decide) (by decide), rfl, by decide⟩

theorem witness_TablesChangedOnlyByTheirOwners :
    (∃ t, exec .start (ready .stopped) = .next t) ∧
    Instr.start ∉ [.hardwareReset, .update, .snapshot, .condition, .defineInstrument,
      .removeInstrument, .setSources, .append, .removal] ∧
    Instr.start ∉ [.hardwareReset, .spanWrite, .writeCells, .fillCells, .openOverlay, .closeOverlay, .openingRow,
      .closingRow, .setupReadEnd, .glyphWrite] := ⟨⟨_, rfl⟩, by decide, by decide⟩

/-- A lawful machine in LOADING with a glyph write to take, after which it is still LOADING. -/
theorem witness_TablesChangedOnlyByTheirOwners_loading :
    let g : Glyph := #v[1, 2, 3, 4, 5, 6, 7, 8, 9, 10, 11, 12, 13, 14, 15, 16]
    let s := dev .loading { State.reset with video := { State.reset.video with glyphWrite := some ⟨3, g⟩ } }
    s.Lawful ∧ s.control.device = .loading ∧
      ∃ t, exec .glyphWrite s = .next t ∧ t.control.device = .loading ∧ t.video.glyphs ≠ s.video.glyphs := by
  intro g s
  have k : State.reset.Still s := .of_units rfl rfl rfl rfl rfl
  exact ⟨(k.sound reset_sound).lawful (reset_oneEach.same rfl rfl rfl rfl rfl (.inr (.inr fun r => by cases r <;> rfl))),
    rfl, _, rfl, rfl, by decide⟩

/-! ### Witnesses: ports, attention, START and STOP -/

theorem witness_SelectorAndIgnoredWrites :
    (at_ .a 13 State.reset).selected .a = none ∧ (at_ .t 31 State.reset).selected .t = none ∧
    (at_ .a 1 State.reset).selected .a = some .portControl ∧ (at_ .t 16 State.reset).selected .t = some .deviceControl ∧
    (at_ .t 24 State.reset).selected .t = some .raise ∧ (at_ .t 25 State.reset).selected .t = some .probeSelect ∧
    { at_ .t 16 State.reset with resetHeld := true }.resetHeld = true := by decide

/-- The register that a port reaches follows its own selector, and there is none while RESET is asserted. -/
theorem witness_RegisterRightsAndReads_selected :
    (at_ .a 0 (at_ .t 16 State.reset)).resetHeld = false ∧
    (at_ .a 0 (at_ .t 16 State.reset)).selected .a = some .portStatus ∧
    (at_ .a 0 (at_ .t 16 State.reset)).selected .t = some .deviceControl ∧
    { at_ .t 16 State.reset with resetHeld := true }.resetHeld = true ∧
    { at_ .t 16 State.reset with resetHeld := true }.selected .t = none := by decide

theorem witness_RegisterRightsAndReads :
    registerAt .a 12 = some .haltReason ∧ registerAt .a 13 = none ∧ registerAt .t 15 = none ∧
    registerAt .t 16 = some .deviceControl ∧ registerAt .t 30 = some (.probeData 4) ∧ registerAt .t 31 = none ∧
    (at_ .b 0 State.reset).selected .b = some .portStatus ∧ (at_ .b 2 State.reset).selected .b = some .attnPending ∧
    (at_ .b 3 State.reset).selected .b = some .attnEnable ∧
    (at_ .b 4 State.reset).selected .b = some (.ringBase false) ∧
    (at_ .b 5 State.reset).selected .b = some (.ringBase true) ∧ (at_ .b 6 State.reset).selected .b = some .ringLength ∧
    ((at_ .b 7 State.reset).selected .b = some .ringIndex ∧ ((at_ .b 7 State.reset).rings.get .b).index < 256) ∧
    (at_ .b 11 State.reset).selected .b = some (.counter .rejected) ∧
    (at_ .b 12 State.reset).selected .b = some .haltReason ∧ (at_ .t 17 State.reset).selected .t = some .deviceStatus ∧
    (at_ .t 18 State.reset).selected .t = some (.setupAddress false) ∧
    (at_ .t 19 State.reset).selected .t = some (.setupAddress true) ∧
    (at_ .t 20 State.reset).selected .t = some .frameNumber ∧
    ((at_ .t 21 State.reset).selected .t = some .sweepStatus ∧ (at_ .t 21 State.reset).field.sweep.position ≤ 511) ∧
    (at_ .t 23 State.reset).selected .t = some .feedView ∧
    ((at_ .t 22 State.reset).selected .t = some .overlayStatus ∧ (at_ .t 22 State.reset).plane.stack.length ≤ 4) := by
  decide

theorem witness_RegisterRightsAndReads_probe :
    State.reset.probe.table = .none ∧
    { State.reset with probe := ⟨.field, 511⟩ }.probe.index.toNat < 512 ∧
    512 ≤ { State.reset with probe := ⟨.field, 512⟩ }.probe.index.toNat ∧
    256 ≤ { State.reset with probe := ⟨.instrument, 256⟩ }.probe.index.toNat ∧
    { State.reset with probe := ⟨.overlay, 1⟩ }.plane.stack.length < 1 ∧
    (∃ e, (⟨[⟨3, 9, false⟩], #v[0, 0, 0, 0], 5, [], []⟩ : HighlightTimer).entry 3 = some e ∧ e.expired = false) := by
  refine ⟨by decide, by decide, by decide, by decide, by decide, ⟨3, 9, false⟩, by decide⟩

theorem witness_RegisterRightsAndReads_records :
    (at_ .t 28 State.reset).selected .t = some (.probeData 2) ∧
    (let s := { bound .tick with probe := ⟨.field, 3⟩ }
     s.probe.table = .field ∧ s.probe.index.toNat < 512) ∧
    (let s := { bound .tick with probe := ⟨.instrument, 0⟩ }
     s.probe.table = .instrument ∧ s.probe.index.toNat < 256) ∧
    (let s := { stacked [overlayIn (.opening 1)] State.reset with probe := ⟨.overlay, 1⟩ }
     s.probe.table = .overlay ∧ 1 ≤ s.probe.index.toNat ∧ s.probe.index.toNat ≤ 4 ∧
       s.plane.stack[s.probe.index.toNat - 1]? = some (overlayIn (.opening 1))) := by decide

theorem witness_RingOnTurnsOffRingOn :
    ((at_ .a 1 State.reset).selected .a = some .portControl ∧ (1#16).getLsbD 0 = true ∧ (1#16).getLsbD 1 = false ∧
      (1#16).getLsbD 2 = false) ∧
    (((at_ .a 1 State.reset).rings.get .a).state = .off ∧ (at_ .a 1 State.reset).control.device ≠ .stopping) ∧
    ((at_ .a 1 (ringIn .a .halted .idle)).rings.get .a).state ≠ .off ∧
    (at_ .a 1 (dev .stopping State.reset)).control.device = .stopping := by decide

theorem witness_RingOffByStateAndPhase :
    ((2#16).getLsbD 0 = false ∧ (2#16).getLsbD 1 = true ∧ (2#16).getLsbD 2 = false) ∧
    (let s := at_ .t 1 (ringIn .t .on .waiting)
     s.selected .t = some .portControl ∧ (s.rings.get .t).state = .on ∧ (s.rings.get .t).phase = .waiting) ∧
    (let s := at_ .a 1 (ringIn .a .silent .handBack)
     (s.rings.get .a).state = .silent ∧ (s.rings.get .a).phase ≠ .idle ∧ (s.rings.get .a).phase ≠ .waiting) ∧
    ((at_ .a 1 (ringIn .a .halted .idle)).rings.get .a).state = .halted ∧
    ((at_ .a 1 State.reset).rings.get .a).state = .off ∧
    ((6#16).getLsbD 0 = false ∧ (6#16).getLsbD 1 = true ∧ (6#16).getLsbD 2 = true) ∧
    (let s := at_ .a 1 (ringIn .a .on .waiting)
     s.selected .a = some .portControl ∧ (s.rings.get .a).phase = .waiting ∧
       ((s.rings.get .a).state = .on ∨ (s.rings.get .a).state = .silent)) ∧
    (let s := at_ .a 1 (ringIn .a .on .body)
     ¬((s.rings.get .a).phase = .waiting ∧ ((s.rings.get .a).state = .on ∨ (s.rings.get .a).state = .silent))) ∧
    (let s := at_ .a 1 (ringIn .a .stopping .waiting)
     ¬((s.rings.get .a).phase = .waiting ∧ ((s.rings.get .a).state = .on ∨ (s.rings.get .a).state = .silent))) := by decide

/-- RING_OFF alone answers a next state, which the clause on RING_OFF with KICK compares with. -/
theorem witness_RingOffByStateAndPhase_alone : ∃ t, exec (.ringOff .a 2) (at_ .a 1 (ringIn .a .on .body)) = .next t :=
  ⟨_, rfl⟩

theorem witness_KickLooksAgain :
    (let s := at_ .b 1 (ringIn .b .silent .waiting)
     s.selected .b = some .portControl ∧ (4#16).getLsbD 0 = (4#16).getLsbD 1 ∧ (4#16).getLsbD 2 = true ∧
       (s.rings.get .b).phase = .waiting ∧ (s.rings.get .b).state = .silent) ∧
    ((7#16).getLsbD 0 = (7#16).getLsbD 1 ∧ (7#16).getLsbD 2 = true ∧
      ((at_ .b 1 State.reset).rings.get .b).phase ≠ .waiting) ∧
    ((3#16).getLsbD 0 = (3#16).getLsbD 1 ∧ (3#16).getLsbD 0 = true ∧ (3#16).getLsbD 2 = false) ∧
    ((5#16).getLsbD 0 = true ∧ (5#16).getLsbD 1 = false ∧ (5#16).getLsbD 2 = true) ∧
    (let s := at_ .b 1 State.reset
     s.selected .b = some .portControl ∧ (s.rings.get .b).state = .off ∧ s.control.device ≠ .stopping) ∧
    ((at_ .b 1 (ringIn .b .halted .idle)).rings.get .b).state ≠ .off ∧
    (at_ .b 1 (dev .stopping State.reset)).control.device = .stopping := by decide

/-- RING_ON alone and KICK alone answer next states, which the clauses on RING_ON with KICK compare with. -/
theorem witness_KickLooksAgain_both :
    (∃ t, exec (.ringOn .b 1) (at_ .b 1 State.reset) = .next t) ∧
    ∃ t, exec (.kick .b 4) (at_ .b 1 (ringIn .b .halted .idle)) = .next t := ⟨⟨_, rfl⟩, ⟨_, rfl⟩⟩

theorem witness_AttentionSetsAndLine :
    (at_ .b 2 State.reset).selected .b = some .attnPending ∧ (at_ .b 3 State.reset).selected .b = some .attnEnable ∧
    ((State.reset.sendCause .b .halt).ports.get .b).causes = .halt :: [] := by decide

theorem witness_RegisterWritesOfPorts :
    (let s := at_ .a 5 State.reset
     s.selected .a = some (.ringBase true) ∧ (s.rings.get .a).state = .off) ∧
    ((at_ .a 4 (ringIn .a .on .idle)).rings.get .a).state ≠ .off ∧
    (let s := at_ .a 6 State.reset
     s.selected .a = some .ringLength ∧ (s.rings.get .a).state = .off ∧ (6#16).toNat % 8 ≤ 6) ∧
    (7#16).toNat % 8 = 7 ∧ (at_ .a 9 State.reset).selected .a = some (.counter .duplicate) ∧
    (let s := at_ .t 18 State.reset
     s.selected .t = some (.setupAddress false) ∧ s.control.device = .stopped) ∧
    (at_ .t 18 (dev .running State.reset)).control.device ≠ .stopped ∧
    (at_ .t 24 State.reset).selected .t = some .raise ∧ (at_ .t 25 State.reset).selected .t = some .probeSelect := by
  decide

theorem witness_StartBeginsLoading :
    ((ready .stopped).selected .t = some .deviceControl ∧ (ready .stopped).control.device = .stopped) ∧
    ((3#16).getLsbD 0 = true ∧ (3#16).getLsbD 1 = true) ∧
    ((1#16).getLsbD 0 = true ∧ (1#16).getLsbD 1 = false ∧ (ready .loading).control.device ≠ .stopped) ∧
    ((2#16).getLsbD 0 = false ∧ (2#16).getLsbD 1 = true ∧ (ready .stopping).control.device = .stopping) := by decide

theorem witness_StopInLoadingAndStopping :
    ((ready .loading).selected .t = some .deviceControl ∧ (ready .loading).control.device = .loading ∧
      (ready .loading).memory.held.rings = ⟨none, none, none⟩) ∧
    { State.reset with control := { State.reset.control with ringReports := [.b] } }.control.ringReports = .b :: [] ∧
    { State.reset with control := { State.reset.control with overlayReports := 1 } }.control.overlayReports = 0 + 1 := by
  decide

theorem test_overlay_busy_by_state :
    (stacked [overlayIn .opened, overlayIn (.opening 0)] State.reset).overlayBusy = true ∧
    (stacked [overlayIn (.closing 1)] State.reset).overlayBusy = true ∧
    (stacked [overlayIn .opened] State.reset).overlayBusy = false := by decide

theorem witness_StopInRunning :
    ((ready .running).selected .t = some .deviceControl ∧ (ready .running).control.device = .running ∧
      Tab.WF fieldSpec (ready .running).field.records) ∧
    (let s := (ready .running).setSweep ⟨true, 4, true, true, 2, .nextPass⟩
     s.selected .t = some .deviceControl ∧ s.control.device = .running ∧ s.field.event = none ∧
       stopOutcomes s.field = [.outcome .done 0x01010002]) ∧
    (let s := asking (.remove 3) (inEvent [] (.freeAndComplete 3 9) (ready .running))
     s.field.event = some ⟨[], .freeAndComplete 3 9⟩ ∧ stopOutcomes s.field = [.outcome .done 9]) ∧
    (let s := asking (.remove 3) (inEvent [] (.complete .done 5) (ready .running))
     s.field.event = some ⟨[], .complete .done 5⟩ ∧ stopOutcomes s.field = [.outcome .done 5]) ∧
    (inEvent [⟨0, 0, []⟩] .nothing (ready .running)).field.event = some ⟨⟨0, 0, []⟩ :: [], .nothing⟩ := by decide

/-! ### Witnesses: the Setup Loader and the commit -/

theorem witness_SetupReadByChecks :
    (let s := loading .setup (.setupWords [])
     s.control.loaderInput = some (.setupWords []) ∧ s.control.stage = .setup ∧ setupFailure [] = some .geometry) ∧
    (let s := loading .setup (.setupWords (block 1))
     s.control.loaderInput = some (.setupWords (block 1)) ∧ s.control.stage = .setup ∧ setupFailure (block 1) = none ∧
       setupFontLoad (block 1) = true) ∧
    (setupFailure (block 0) = none ∧ setupFontLoad (block 0) = false) ∧
    (let s := loading .setup .fault
     s.control.loaderInput = some .fault ∧ s.control.stage = .setup) ∧
    (let s := loading (.font 511) .fault
     s.control.loaderInput = some .fault ∧ s.control.stage = .font 511) := by decide

theorem witness_FontLoadGlyphByGlyph :
    (let s := loading (.font 0) (.glyphWords [1, 2, 3, 4])
     s.control.loaderInput = some (.glyphWords [1, 2, 3, 4]) ∧ s.control.stage = .font 0) ∧
    (writing 510).video.glyphWrite = some ⟨510, Vector.replicate 16 1⟩ ∧
    (writing 511).video.glyphWrite = some ⟨511, Vector.replicate 16 1⟩ := by decide

theorem witness_CommitGivesEachBlockItsShare :
    (let s := loading .setup (.setupWords (block 0))
     s.control.loaderInput = some (.setupWords (block 0)) ∧ s.control.stage = .setup ∧
       setupFailure (block 0) = none ∧ setupFontLoad (block 0) = false ∧
       s.plane.geometry ≠ some (setupGeometry (block 0)) ∧ Tab.WF fieldSpec s.field.records) ∧
    (sized (loading .setup (.setupWords (block 0)))).plane.geometry = some ⟨setupByte (block 0) 0, setupByte (block 0) 1⟩ ∧
    (let s := fielding .step (loading .setup (.setupWords (block 0)))
     s.field.inbox = [] ++ .step :: [] ∧ FieldRequest.step ∉ ([] : List FieldRequest)) ∧
    FieldRequest.step ∉ (loading .setup (.setupWords (block 0))).field.inbox ∧
    (writing 511).video.glyphWrite = some ⟨511, Vector.replicate 16 1⟩ := by decide

/-! ### Witnesses: the Memory Master -/

theorem witness_RoundRobinGrant :
    (let m : MemoryMaster := { MemoryMaster.reset with
       held := ⟨⟨none, none, some ⟨.statusRead .t, 0, 0, [], .requesting⟩⟩, none⟩ }
     m.inFlight = none ∧ m.held.rings.get .t = some ⟨.statusRead .t, 0, 0, [], .requesting⟩ ∧
       RingId.t = nextRing (nextRing m.pointer) ∧ m.held.rings.get m.pointer = none ∧
       m.held.rings.get (nextRing m.pointer) = none) ∧
    (let m : MemoryMaster := { MemoryMaster.reset with held := ⟨⟨none, none, none⟩, some ⟨.setupRead, 0, 0, [], .requesting⟩⟩ }
     m.inFlight = none ∧ m.held = ⟨⟨none, none, none⟩, some ⟨.setupRead, 0, 0, [], .requesting⟩⟩) ∧
    (carrying .setupRead 0 .requesting).memory.inFlight.isSome = true ∧
    MemoryMaster.reset.held = ⟨⟨none, none, none⟩, none⟩ := by decide

theorem witness_MemoryRequestHeldOrGranted :
    (let s := (carrying .setupRead 0 .requesting).sendMemory (.ring .a) ⟨.statusRead .a, 0, 0, [], .requesting⟩
     s.memory.sent.get (.ring .a) = some ⟨.statusRead .a, 0, 0, [], .requesting⟩ ∧ s.memory.inFlight.isSome = true) ∧
    (let s := State.reset.sendMemory (.ring .a) ⟨.statusRead .a, 0, 0, [], .requesting⟩
     s.memory.sent.get (.ring .a) = some ⟨.statusRead .a, 0, 0, [], .requesting⟩ ∧ s.memory.inFlight = none ∧
       s.memory.held = ⟨⟨none, none, none⟩, none⟩) := by decide

theorem witness_RoundRobinGrant_turn :
    let m : MemoryMaster := { MemoryMaster.reset with
      held := ⟨⟨some ⟨.statusRead .a, 0, 0, [], .requesting⟩, none, some ⟨.statusRead .t, 0, 0, [], .requesting⟩⟩, none⟩ }
    m.inFlight = none ∧ (m.held.rings.get .t).isSome = true ∧
      ∀ q tx, m.held.rings.get q = some tx → tx.kind.requester = .ring q := by
  refine ⟨rfl, rfl, ?_⟩
  intro q tx h
  cases q
  · obtain rfl := Option.some.inj h; rfl
  · exact absurd h (by simp [PerRing.get])
  · obtain rfl := Option.some.inj h; rfl

theorem witness_BusTransfersAndTheirEnds :
    (carrying (.bodyRead .a) 13 .transferring).memory.inFlight = some ⟨.bodyRead .a, 64, 13, [], .transferring⟩ ∧
    13 + 1 < (TxKind.bodyRead .a).words ∧ (TxKind.bodyRead .a).words ≤ 14 + 1 ∧
    (carrying .glyphRead 0 .requesting).memory.inFlight = some ⟨.glyphRead, 64, 0, [], .requesting⟩ ∧
    (let tx : Transaction := ⟨.writeBack .b, 0 + 12, 1, [7, 9], .transferring⟩
     { State.reset with memory := { State.reset.memory with inFlight := some tx } }.memory.inFlight =
       some ⟨.writeBack .b, 0 + 12, 1, [7, 9], .transferring⟩) ∧
    (TxKind.bodyRead .a).isWrite = false ∧ State.reset.memory.inFlight = none := by decide

/-! ### Witnesses: the Ring Units -/

theorem witness_StatusReadEndByFlag :
    (let s := given .b (.statusEnd 0x80) (ringIn .b .on .status)
     (s.rings.get .b).input = .statusEnd 0x80 :: [] ∧ (s.rings.get .b).state ≠ .stopping ∧
       (0x80#32).getLsbD 7 = true) ∧
    (0x7F#32).getLsbD 7 = false ∧
    ((given .b (.statusEnd 0x80) (ringIn .b .stopping .status)).rings.get .b).state = .stopping := by decide

/-- A ring whose body read of a descriptor with a given kind has ended. -/
def bodyEnded (r : RingId) (kind : Nat) : State :=
  (given r (.bodyEnd []) (ringIn r .on .body)).modRing r fun u => { u with inFlight := .header (BitVec.ofNat 32 (256 * kind)) }

/-- The kind that such a ring finds. -/
def foundKind (r : RingId) (kind : Nat) : Nat :=
  (⟨((bodyEnded r kind).rings.get r).inFlight.word0, []⟩ : Descriptor).kind

theorem witness_BodyReadEndChecksKind :
    ((bodyEnded .a 3).rings.get .a).input = .bodyEnd [] :: [] ∧ foundKind .a 1 = 1 ∧ foundKind .a 3 = 3 ∧
    foundKind .a 0 = 0 ∧ foundKind .a 4 = 4 ∧ foundKind .a 15 = 15 ∧ foundKind .a 16 = 16 ∧ foundKind .t 29 = 29 ∧
    foundKind .t 30 = 30 ∧ isFeed .a = true := by decide

/-- The header of a descriptor is read at the bytes that 11.1 gives it. -/
theorem test_header_bytes :
    let d : Descriptor := ⟨0x01830280, [0x44332211, 0xFFCCBBAA]⟩
    d.kind = 2 ∧ d.pairCount = 3 ∧ d.notify = true ∧ d.conditionByte = 1 ∧ d.key = 0x44332211#32 ∧
    d.sequence = 0xCCBBAA#24 ∧ d.sequenceUpper = 255 ∧ d.half 1 1 = 0x4433 ∧ d.word 3 = 0 := by decide

theorem witness_OutcomeTakenCountsAndWritesBack :
    ((given .a (.outcome .appliedGap 5) (ringIn .a .on .owner)).rings.get .a).input = .outcome .appliedGap 5 :: [] := by
  decide

theorem witness_HandBack :
    (let s := dev .running (given .a .writeBackEnd (ringIn .a .on .handBack))
     (s.rings.get .a).input = .writeBackEnd :: [] ∧ (s.rings.get .a).state = .on ∧ s.control.device = .running) ∧
    (let s := dev .running (given .b .writeBackEnd (ringIn .b .silent .handBack))
     (s.rings.get .b).state = .silent ∧ isFeed .b = true ∧ s.control.device = .running) ∧
    ((given .t .writeBackEnd (ringIn .t .stopping .handBack)).rings.get .t).state = .stopping ∧
    (let s := given .a .writeBackEnd (ringIn .a .on .handBack)
     (s.rings.get .a).state = .on ∧ s.control.device ≠ .running) := by decide

theorem witness_MemoryFaultHaltsRing :
    (let s := given .a .fault (ringIn .a .on .status)
     (s.rings.get .a).input = .fault :: [] ∧ (s.rings.get .a).state = .on ∧ (s.rings.get .a).phase = .status) ∧
    (let s := given .t .fault (ringIn .t .stopping .handBack)
     (s.rings.get .t).state = .stopping ∧ (s.rings.get .t).phase = .handBack) := by decide

/-- A feed ring that counts silence, its counter and limit given. -/
def counting (c limit : Nat) (ph : FetchPhase) : State :=
  (dev .running (framed .a (ringIn .a .on ph))).modRing .a fun u => { u with silenceCounter := c, silenceLimit := limit }

theorem witness_FrameEventAtRingAndSilence :
    (let u := (counting 14 1 .waiting).rings.get .a
     u.frames = 1 :: [] ∧ u.state = .on ∧ u.phase = .waiting ∧ u.silenceCounter < 4080 ∧
       ¬(u.silenceLimit ≠ 0 ∧ 16 * u.silenceLimit ≤ 15)) ∧
    (let u := (counting 15 1 .waiting).rings.get .a
     u.frames = 1 :: [] ∧ u.state = .on ∧ u.silenceLimit ≠ 0 ∧ 16 * u.silenceLimit ≤ 16) ∧
    (counting 15 1 .waiting).control.device = .running ∧
    (let u := (counting 4080 0 .body).rings.get .a
     ¬(u.phase = .waiting ∧ (u.state = .on ∨ u.state = .silent)) ∧ u.silenceLimit = 0) ∧
    ((framed .t (ringIn .t .on .waiting)).rings.get .t).frames = 1 :: [] := by decide

/-! ### Witnesses: the Quote Engine -/

theorem witness_ComparisonAndCaseTables :
    compareSeq 7 7 = .equal ∧ compareSeq 0 0xFFFFFF = .inOrder ∧ compareSeq 2 0 = .gap ∧ compareSeq 8388607 0 = .gap ∧
    compareSeq 8388608 0 = .older ∧ compareSeq 16777214 5 = .older := by decide

/-- An UPDATE, a SNAPSHOT and a CONDITION of key 1, and an instrument command of a kind, key and parameter. -/
def quote (kind count cond key seq : Nat) : Descriptor :=
  desc (le 0 kind count cond) [key, seq, 0, le 0 2 0 0, 10261, le 1 2 0 0, 10265]

/-- The Quote Engine about to take an apply of Ring A, with instrument 1 held and field 3 on its list. -/
def applying (d : Descriptor) : State := quoting (.apply .a d) (bound .tick)

theorem witness_ApplyChecksAndRefusals :
    (State.reset.quote.lookup (quote 1 1 0 1 6).key = none ∧
      (holding [] State.reset).quote.lookup (quote 1 1 0 1 6).key = some (0, 0)) ∧
    (((holding [] State.reset).slot 0).sources.get .b = false ∧ ((holding [] State.reset).slot 0).sources.get .a = true) ∧
    (arbitrateUpdate ((holding [] State.reset).slot 0).seqState
        (compareSeq 6 ((holding [] State.reset).slot 0).lastSeq) = .accept .synced .applied ∧
      arbitrateUpdate ((holding [] State.reset).slot 0).seqState
        (compareSeq 5 ((holding [] State.reset).slot 0).lastSeq) = .refuse .duplicate) ∧
    ((applying (quote 1 7 0 1 6)).quote.wait = none ∧
      (applying (quote 1 7 0 1 6)).quote.inbox = .apply .a (quote 1 7 0 1 6) :: [] ∧ (quote 1 7 0 1 6).kind = 1 ∧
      (quote 1 7 0 1 6).updateForm = none) ∧
    ((quote 2 0 0 1 6).kind = 2 ∧ (quote 2 0 0 1 6).snapshotForm = none) ∧
    ((quote 3 1 1 1 6).kind = 3 ∧ (quote 3 1 1 1 6).conditionForm = none) ∧
    ((quote 1 1 0 1 5).updateForm.isSome = true ∧
      (applying (quote 1 1 0 1 5)).arbitrate .a (quote 1 1 0 1 5) arbitrateUpdate = .inr (0, .duplicate)) ∧
    ((quote 2 0 1 2 6).snapshotForm.isSome = true ∧
      (applying (quote 2 0 1 2 6)).arbitrate .a (quote 2 0 1 2 6) arbitrateSnapshot = .inr (0, .noKey)) ∧
    ((quote 3 0 2 1 4).conditionForm.isSome = true ∧
      (applying (quote 3 0 2 1 4)).arbitrate .a (quote 3 0 2 1 4) arbitrateUpdate = .inr (0, .stale)) := by decide

/-- BIND_FIELD of a field on key 1: item, width, row, column, display places. -/
def bind (f item width row col places : Nat) : Descriptor :=
  desc (le 0 19 0 0) [1, 0, 0, f + 65536 * item + 16777216 * width, le row col places 2, 0, 0]

theorem witness_UpdateAccepted :
    let d := quote 1 2 0 1 6
    (applying d).quote.wait = none ∧ (applying d).quote.inbox = .apply .a d :: [] ∧ d.kind = 1 ∧
      d.updateForm = some [⟨0, 2, 10261⟩, ⟨1, 2, 10265⟩] ∧
      (applying d).arbitrate .a d arbitrateUpdate = .inl (0, .synced, .applied) := by decide

/-- The item of a bound field, and of a field whose binding is under way; here a BIND_FIELD of field 4 on item 7. -/
theorem witness_UpdateAccepted_item :
    ((bound .tick).record 3).state ≠ .free ∧ (bound .tick).field.command = none ∧
    (let s := { bound .tick with field := { (bound .tick).field with command := some (bind 4 7 6 2 0 2) } }
     (s.record 4).state = .free ∧ s.field.command = some (bind 4 7 6 2 0 2) ∧ 4 = (bind 4 7 6 2 0 2).half 4 0 ∧
       5 ≠ (bind 4 7 6 2 0 2).half 4 0 ∧ (bind 4 7 6 2 0 2).byte 4 2 ≤ 7 ∧ s.fieldItem 4 = 7 ∧ s.fieldItem 3 = 0) := by decide

theorem witness_SnapshotAndConditionAccepted :
    (let d := quote 2 0 2 1 9
     (applying d).quote.wait = none ∧ (applying d).quote.inbox = .apply .a d :: [] ∧ d.kind = 2 ∧
       d.snapshotForm = some ([], .paused) ∧
       (applying d).arbitrate .a d arbitrateSnapshot = .inl (0, .synced, .applied)) ∧
    (let d := quote 3 0 1 1 8
     (applying d).quote.inbox = .apply .a d :: [] ∧ d.kind = 3 ∧ d.conditionForm = some .trading ∧
       (applying d).arbitrate .a d arbitrateUpdate = .inl (0, .gapped, .appliedGap)) := by decide

/-- A command of Ring T with a key and word 4. -/
def keyed (kind key par : Nat) : Descriptor := desc (le 0 kind 0 0) [key, 0, 0, par]

theorem witness_DefineAndRemoveInstrument :
    (let s := quoting (.define (keyed 16 0 1)) State.reset
     s.quote.wait = none ∧ s.quote.inbox = .define (keyed 16 0 1) :: [] ∧ (keyed 16 0 1).key = 0) ∧
    (maskOf ((keyed 16 1 8).byte 4 0) = none ∧ maskOf ((keyed 16 1 7).byte 4 0) = some ⟨true, true, true⟩) ∧
    (let s := quoting (.define (keyed 16 1 1)) (holding [] State.reset)
     (keyed 16 1 1).key ≠ 0 ∧ s.quote.lookup (keyed 16 1 1).key = some (0, 0)) ∧
    (let s := quoting (.define (keyed 16 2 1)) (holding [] State.reset)
     s.quote.lookup (keyed 16 2 1).key = none ∧ (s.slot 1).occupied = false ∧ ∀ j < 1, (s.slot j).occupied = true) ∧
    (let s := quoting (.remove (keyed 17 2 0)) (holding [3] State.reset)
     s.quote.inbox = .remove (keyed 17 2 0) :: [] ∧ s.quote.lookup (keyed 17 2 0).key = none) ∧
    (let s := quoting (.remove (keyed 17 1 0)) (holding [3] State.reset)
     s.quote.lookup (keyed 17 1 0).key = some (0, 0) ∧ (s.slot 0).bindings ≠ []) ∧
    ((quoting (.remove (keyed 17 1 0)) (holding [] State.reset)).slot 0).bindings = [] := by decide

/-- Instruments 1 and 0x101 in one chain, slots 0 and 1. -/
def chained : State :=
  { State.reset with quote := { State.reset.quote with
    slots := [(0, { slotOne [] with link := some 1 }), (1, { slotOne [] with key := 0x80000081 })], heads := [(1, some 0)] } }

theorem witness_DefineAndRemoveInstrument_chain :
    chained.StoresWF ∧ (holding [] State.reset).StoresWF ∧ (bucketOf 0x80000081 = 1 ∧
      chained.quote.lookup 0x80000081 = some (1, 1) ∧ (chained.quote.chain 1)[0]? = some 0 ∧
      (chained.quote.chain 1).getLast? = some 1) :=
  ⟨stores_of _ (by decide), stores_of _ (by decide), by decide⟩

/-- A machine whose instrument table is full. -/
def full : State :=
  { State.reset with quote := { State.reset.quote with
    slots := (List.range 256).map fun i => (i, { Slot.cleared with occupied := true, key := 3 }) } }

theorem witness_DefineAndRemoveInstrument_full :
    full.quote.lookup 2 = none ∧ ∀ i < 256, (full.slot i).occupied = true := by decide

theorem witness_SetSources :
    (let s := quoting (.setSources (keyed 18 1 0)) (bound .tick)
     s.quote.wait = none ∧ s.quote.inbox = .setSources (keyed 18 1 0) :: [] ∧ maskOf ((keyed 18 1 0).byte 4 0) = none) ∧
    (let s := quoting (.setSources (keyed 18 2 1)) (bound .tick)
     maskOf ((keyed 18 2 1).byte 4 0) = some ⟨true, false, false⟩ ∧ s.quote.lookup (keyed 18 2 1).key = none) ∧
    (let s := quoting (.setSources (keyed 18 1 2)) (bound .tick)
     maskOf ((keyed 18 1 2).byte 4 0) = some ⟨false, true, false⟩ ∧ s.quote.lookup (keyed 18 1 2).key = some (0, 0)) := by
  decide

theorem witness_RoomSendsNextRequest :
    (let s := { bound .tick with quote := { (bound .tick).quote with wait := some ⟨[.plain 3], .a, .applied, 5⟩ } }
     s.quote.wait = some ⟨.plain 3 :: [], .a, .applied, 5⟩ ∧ s.field.inbox.countP FieldRequest.isRender < 64) ∧
    64 ≤ (fullField (bound .tick)).field.inbox.countP FieldRequest.isRender ∧
    (let s := inEvent [⟨0, 0, []⟩] (.complete .done 5) (bound .tick)
     s.field.event = some ⟨⟨0, 0, []⟩ :: [], .complete .done 5⟩ ∧ s.plane.inbox.countP PlaneRequest.isSpan < 64 ∧
       s.highlight.requests = []) ∧
    (let s := asking (.remove 3) (inEvent [⟨0, 0, []⟩] .nothing (bound .tick))
     s.field.event = some ⟨⟨0, 0, []⟩ :: [], .nothing⟩ ∧ s.highlight.requests ≠ []) ∧
    (inEvent [⟨0, 0, []⟩, ⟨1, 0, []⟩] .nothing (bound .tick)).field.event = some ⟨⟨0, 0, []⟩ :: [⟨1, 0, []⟩], .nothing⟩ ∧
    64 ≤ (fullPlane (bound .tick)).plane.inbox.countP PlaneRequest.isSpan ∧
    (inEvent [⟨0, 0, []⟩] (.freeAndComplete 3 5) (bound .tick)).field.event =
      some ⟨⟨0, 0, []⟩ :: [], .freeAndComplete 3 5⟩ := by decide

/-- A unit whose event waits holds another request back. -/
theorem witness_RoomSendsNextRequest_held :
    (let s := { applying (quote 1 1 0 1 6) with quote :=
      { (applying (quote 1 1 0 1 6)).quote with wait := some ⟨[.plain 3], .b, .applied, 5⟩ } }
     s.quote.wait ≠ none ∧ s.quote.inbox = [.apply .a (quote 1 1 0 1 6)]) ∧
    (let s := inEvent [⟨0, 0, []⟩] .nothing (fielding (.render (.plain 3)) (bound .tick))
     s.field.event ≠ none ∧ s.field.inbox = [.render (.plain 3)]) := by decide

/-- A sweep step that waits for its span write: at a position below 511, at 511, and of a sweep that STOP abandoned. -/
theorem witness_RoomSendsNextRequest_sweep :
    (let s := (inEvent [⟨0, 0, []⟩] (.sweepAdvance true) (bound .tick)).setSweep ⟨true, 510, false, false, 2, .none⟩
     s.field.event = some ⟨⟨0, 0, []⟩ :: [], .sweepAdvance true⟩ ∧ s.plane.inbox.countP PlaneRequest.isSpan < 64 ∧
       s.highlight.requests = [] ∧ s.field.sweep.active = true ∧ s.field.sweep.position < 511) ∧
    (let s := (inEvent [⟨0, 0, []⟩] (.sweepAdvance true) (bound .tick)).setSweep ⟨true, 511, false, false, 2, .thisPass false⟩
     s.field.event = some ⟨⟨0, 0, []⟩ :: [], .sweepAdvance true⟩ ∧ s.plane.inbox.countP PlaneRequest.isSpan < 64 ∧
       s.highlight.requests = [] ∧ s.field.sweep.active = true ∧ s.field.sweep.position = 511 ∧
       s.field.sweep.rerun = false ∧ s.field.sweep.repaint ≠ .nextPass) ∧
    ((inEvent [⟨0, 0, []⟩] (.sweepAdvance true) (bound .tick)).setSweep ⟨false, 511, false, false, 0, .none⟩).field.sweep.active
      = false := by decide

theorem witness_BindingRequests :
    (let s := quoting (.lookup 1) (holding [] State.reset)
     s.quote.wait = none ∧ s.quote.inbox = .lookup 1 :: []) ∧
    (quoting (.append 3 0) (holding [] State.reset)).quote.inbox = .append 3 0 :: [] ∧
    (let s := quoting (.removal 3) (holding [3] State.reset)
     s.quote.inbox = .removal 3 :: [] ∧ Tab.WF slotSpec s.quote.slots) := by decide

/-! ### Witnesses: the Field Unit -/

theorem witness_ShiftedMagnitude : 6 ≤ 6 ∧ 2 < (⟨10259, 6⟩ : Item).scale.val := by decide

theorem witness_PenSelection :
    (fieldThree .plain).style.rule = .plain ∧ (fieldThree .sign).style.rule = .sign ∧
    (fieldThree .tick).style.rule = .tick ∧ 0 < (1#32).toInt ∧ (0xFFFFFFFF#32).toInt < 0 ∧ ¬0 < (0#32).toInt := by decide

theorem witness_FormatterText :
    1 ≤ 20 ∧ (format (some ⟨10259, 2⟩) 4 { Style.cleared with places := 2 } 0).overflow = true ∧
    (⟨0, 0⟩ : Item).value = 0 ∧ { Style.cleared with blankZero := true }.blankZero = true ∧
    ¬((⟨10259, 2⟩ : Item).value = 0 ∧ Style.cleared.blankZero = true) ∧ Style.cleared.squeeze = false ∧
    { Style.cleared with squeeze := true }.squeeze = true ∧
    -- "102.59" is 6 long and "102.5" fits in 5; "102" does not fit in 2
    ("102.5".length ≤ 5 ∧ 5 < "102.59".length) ∧ 2 < "102".length := by decide

theorem witness_FormatterText_squeezed :
    format (some ⟨10259, 2⟩) 5 { Style.cleared with places := 2, squeeze := true } 0 = ⟨[49, 48, 50, 46, 53], false⟩ ∧
    format (some ⟨10259, 2⟩) 2 { Style.cleared with places := 2, squeeze := true } 0 = ⟨[35, 35], true⟩ := by decide

theorem witness_PlainAndDiscardedRenders :
    (let s := fielding (.render (.plain 3)) (bound .sign)
     s.field.event = none ∧ s.field.inbox = .render (.plain 3) :: [] ∧ (s.record 3).state = .bound ∧
       s.highlight.requests = [] ∧ s.plane.inbox.countP PlaneRequest.isSpan < 64) ∧
    64 ≤ (fullPlane (fielding (.render (.plain 3)) (bound .sign))).plane.inbox.countP PlaneRequest.isSpan ∧
    (let s := fielding (.expiry 3) (bound .sign)
     s.field.inbox = .expiry 3 :: [] ∧ s.highlight.entry 3 = none) ∧
    64 ≤ (fullPlane (fielding (.expiry 3) (bound .sign))).plane.inbox.countP PlaneRequest.isSpan ∧
    (let s := fielding (.render (.reset 3)) suspended
     s.field.event = none ∧ (s.record 3).state ≠ .bound ∧ s.field.inbox = .render (.reset 3) :: []) ∧
    (fielding (.render (.tick 511 none 0)) suspended).field.inbox = .render (.tick 511 none 0) :: [] := by decide

/-- A highlight entry of field 3. -/
def queued (expired : Bool) (s : State) : State :=
  { s with highlight := { s.highlight with queue := [⟨3, 4, expired⟩] } }

theorem witness_TickChangingRenders :
    (let s := dev .running (fielding (.render (.tick 3 (some 5) 6)) (bound .tick))
     s.field.event = none ∧ s.field.records.WF fieldSpec ∧ (s.record 3).state = .bound ∧
       s.plane.inbox.countP PlaneRequest.isSpan < 64 ∧ (s.record 3).style.rule = .tick ∧
       s.control.device = .running ∧ s.field.inbox = .render (.tick 3 (some 5) 6) :: [] ∧ s.highlight.requests = []) ∧
    (fielding (.render (.reset 3)) (bound .tick)).field.inbox = .render (.reset 3) :: [] ∧
    ((queued true (fielding (.expiry 3) (bound .tick))).highlight.entry 3 = some ⟨3, 4, true⟩ ∧
      (queued false (fielding (.expiry 3) (bound .tick))).highlight.entry 3 = some ⟨3, 4, false⟩) ∧
    (fielding (.render (.tick 3 none 6)) (bound .tick)).control.device ≠ .running ∧
    ¬(fullPlane (fielding (.render (.tick 3 none 6)) (bound .tick))).plane.inbox.countP PlaneRequest.isSpan < 64 ∧
    ((fielding (.render (.tick 3 none 6)) (bound .sign)).record 3).style.rule ≠ .tick := by decide

theorem witness_BindFieldChecks :
    (let s := fielding (.bind (bind 512 0 6 1 2 2)) (bound .tick)
     s.field.event = none ∧ s.field.inbox = .bind (bind 512 0 6 1 2 2) :: [] ∧ s.highlight.requests = [] ∧
       512 ≤ (bind 512 0 6 1 2 2).half 4 0) ∧
    ((bind 511 0 21 1 2 2).half 4 0 < 512 ∧ (bind 511 0 21 1 2 2).bindForm = none) ∧
    ((bind 3 0 20 1 2 6).bindForm.isSome = true ∧ ((bound .tick).record 3).state ≠ .free) ∧
    ((bind 511 7 1 1 2 6).bindForm.isSome = true ∧ ((bound .tick).record 511).state = .free) := by decide

/-- A BIND_FIELD in progress, and what the Quote Engine returns for it. -/
def inProgress (d : Descriptor) (q : FieldRequest) (s : State) : State :=
  { s with field := { s.field with command := some d, inbox := [q] } }

theorem witness_BindingCompletes :
    (let s := inProgress (bind 4 0 6 2 0 2) (.lookupResult .notFound) (bound .tick)
     s.field.event = none ∧ s.field.inbox = .lookupResult .notFound :: [] ∧ s.field.command = some (bind 4 0 6 2 0 2) ∧
       s.highlight.requests = []) ∧
    (let s := bound .tick
     (2 < s.rows ∧ 26 < s.columns ∧ 26 + 6 ≤ s.columns) ∧
       (∀ i < 6, s.field.occupancy.get occSpec (2 * s.columns + (26 + i)) = none) ∧ ¬(27 + 6 ≤ s.columns) ∧
       ¬∀ i < 6, s.field.occupancy.get occSpec (1 * s.columns + (7 + i)) = none) ∧
    (let s := inProgress (bind 4 0 6 2 26 2) (.appendDone 4 0) (bound .tick)
     s.field.inbox = .appendDone ((bind 4 0 6 2 26 2).half 4 0) 0 :: [] ∧ (bind 4 0 6 2 26 2).bindForm.isSome = true ∧
       (bind 4 0 6 2 26 2).half 4 0 < 512 ∧ s.highlight.requests = [] ∧ s.plane.inbox.countP PlaneRequest.isSpan < 64 ∧
       ¬(fullPlane s).plane.inbox.countP PlaneRequest.isSpan < 64) := by decide

theorem witness_BindingCompletes_stores : (bound .tick).StoresWF := stores_of _ (by decide)

/-- A field command of a kind for a field, with bytes 2 and 3 of word 4 and word 5. -/
def fieldCmd (kind f b2 b3 w5 w6 : Nat) : Descriptor :=
  desc (le 0 kind 0 0) [0, 0, 0, f + 65536 * b2 + 16777216 * b3, w5, w6, 0, 32]

theorem witness_UnbindFieldAndRemoval :
    (let s := fielding (.unbind (fieldCmd 20 512 0 0 0 0)) (bound .tick)
     s.field.event = none ∧ s.field.inbox = .unbind (fieldCmd 20 512 0 0 0 0) :: [] ∧ s.highlight.requests = [] ∧
       512 ≤ (fieldCmd 20 512 0 0 0 0).half 4 0) ∧
    ((fieldCmd 20 511 0 0 0 0).half 4 0 < 512 ∧ ((bound .tick).record 511).state = .free) ∧
    ((fieldCmd 20 3 0 0 0 0).half 4 0 = 3 ∧ ((bound .tick).record 3).state ≠ .free) ∧
    (let s := inProgress (fieldCmd 20 3 1 0 0 0) (.removalDone 3) (bound .tick)
     s.field.inbox = .removalDone 3 :: [] ∧ s.field.command = some (fieldCmd 20 3 1 0 0 0) ∧ (s.record 3).state = .bound ∧
       (fieldCmd 20 3 1 0 0 0).byte 4 2 ≠ 0 ∧ s.plane.inbox.countP PlaneRequest.isSpan < 64 ∧
       ¬(fullPlane s).plane.inbox.countP PlaneRequest.isSpan < 64) ∧
    (let s := asking (.remove 3) (inEvent [] (.freeAndComplete 3 9) (bound .tick))
     s.field.event = some ⟨[], .freeAndComplete 3 9⟩ ∧ s.highlight.requests = [.remove 3]) := by decide

theorem witness_MoveField :
    (let s := fielding (.move (fieldCmd 21 512 0 6 0 0)) (bound .tick)
     s.field.event = none ∧ s.field.inbox = .move (fieldCmd 21 512 0 6 0 0) :: [] ∧ s.highlight.requests = [] ∧
       512 ≤ (fieldCmd 21 512 0 6 0 0).half 4 0) ∧
    ((fieldCmd 21 511 0 6 0 0).half 4 0 < 512 ∧ ((bound .tick).record 511).state = .free) ∧
    (let d := fieldCmd 21 3 0 21 0 0
     d.half 4 0 = 3 ∧ ((bound .tick).record 3).state ≠ .free ∧ ¬d.byte 4 3 ≤ 20) ∧
    (let d := fieldCmd 21 3 0 20 (le 7 12 0 0) 0
     let s := bound .tick
     (1 ≤ d.byte 4 3 ∧ d.byte 4 3 ≤ 20 ∧ d.byte 5 0 < s.rows ∧ d.byte 5 1 < s.columns ∧ d.byte 5 1 + d.byte 4 3 ≤ s.columns) ∧
       (∀ i < d.byte 4 3, s.field.occupancy.get occSpec (d.byte 5 0 * s.columns + (d.byte 5 1 + i)) = none) ∧
       d.half 4 0 < 512 ∧ (s.record (d.half 4 0)).state = .bound ∧ s.plane.inbox.countP PlaneRequest.isSpan < 64 ∧
       64 ≤ (fullPlane s).plane.inbox.countP PlaneRequest.isSpan ∧ (suspended.record (d.half 4 0)).state = .suspended) ∧
    (let s := { bound .tick with field := { (bound .tick).field with records := [(4, fieldThree .tick)], occupancy := [(0, some 3)] } }
     ∃ g, s.field.occupancy.get occSpec (0 * s.columns + (0 + 0)) = some g ∧ g ≠ 4) ∧
    (let s := inEvent [⟨1, 2, [⟨32, 0⟩]⟩] (.moveTo ⟨3, 7, 12, 20⟩) (bound .tick)
     s.field.event = some ⟨[⟨1, 2, [⟨32, 0⟩]⟩], .moveTo ⟨3, 7, 12, 20⟩⟩ ∧ 3 < 512 ∧ s.highlight.requests = [] ∧
       s.plane.inbox.countP PlaneRequest.isSpan < 64) := by
  refine ⟨by decide, by decide, by decide, by decide, ⟨3, by decide⟩, by decide⟩

theorem witness_MoveField_stores :
    (fullPlane (bound .tick)).StoresWF ∧ suspended.StoresWF ∧
    (inEvent [⟨1, 2, [⟨32, 0⟩]⟩] (.moveTo ⟨3, 7, 12, 20⟩) (bound .tick)).StoresWF :=
  ⟨stores_of _ (by decide), stores_of _ (by decide), stores_of _ (by decide)⟩

theorem witness_StyleField :
    (let s := fielding (.style (fieldCmd 22 512 0 0 0 0)) (bound .tick)
     s.field.event = none ∧ s.field.inbox = .style (fieldCmd 22 512 0 0 0 0) :: [] ∧ s.highlight.requests = [] ∧
       s.plane.inbox.countP PlaneRequest.isSpan < 64 ∧ ¬(fullPlane s).plane.inbox.countP PlaneRequest.isSpan < 64 ∧
       512 ≤ (fieldCmd 22 512 0 0 0 0).half 4 0) ∧
    (suspended.record 3).state ≠ .free ∧ (suspended.record 3).state ≠ .bound ∧
    ((fieldCmd 22 511 0 0 0 0).half 4 0 < 512 ∧ ((bound .tick).record 511).state = .free) ∧
    ((fieldCmd 22 3 0 0 (le 0 0 7 0) 0).style = none ∧ ((bound .tick).record 3).state ≠ .free) ∧
    (let st := ((bound .tick).record 3).style
     ∃ new, (fieldCmd 22 3 0 0 (le 0 0 6 2) 0).style = some new ∧
       ¬((st.rule = .tick ∧ new.rule ≠ .tick) ∨ new.hold ≠ st.hold)) ∧
    (let st := ((bound .tick).record 3).style
     ∃ new, (fieldCmd 22 3 0 0 (le 0 0 6 2) 3).style = some new ∧ new.hold ≠ st.hold) := by
  refine ⟨by decide, by decide, by decide, by decide, by decide, ⟨_, rfl, by decide⟩, ⟨_, rfl, by decide⟩⟩

theorem witness_StyleField_stores :
    (fielding (.style (fieldCmd 22 3 0 0 (le 0 0 6 2) 0)) (bound .tick)).StoresWF ∧
    (fielding (.style (fieldCmd 22 3 0 0 (le 0 0 6 2) 0)) suspended).StoresWF :=
  ⟨stores_of _ (by decide), stores_of _ (by decide)⟩

theorem witness_SetPenAndSetCursor :
    (let s := fielding (.setPen (fieldCmd 23 32 0 0 0 0)) (bound .tick)
     s.field.event = none ∧ s.field.inbox = .setPen (fieldCmd 23 32 0 0 0 0) :: [] ∧ s.highlight.requests = [] ∧
       32 ≤ (fieldCmd 23 32 0 0 0 0).byte 4 0) ∧
    ((fieldCmd 23 31 0 0 0x300 0).byte 4 0 < 32 ∧ (fieldCmd 23 31 0 0 0x300 0).half 5 0 / 256 % 4 = 3) ∧
    (fieldCmd 23 31 0 0 0xFFFF 0).half 5 0 / 256 % 4 = 3 ∧ (fieldCmd 23 31 0 0 0x2FF 0).half 5 0 / 256 % 4 ≠ 3 ∧
    (let d := desc (le 0 29 0 0) [0, 0, 0, le 7 31 2 0]
     let s := planing (.setCursor d) (sized State.reset)
     s.plane.inbox = .setCursor d :: [] ∧ d.byte 4 2 ≤ 2 ∧ d.byte 4 0 < s.rows ∧ d.byte 4 1 < s.columns) ∧
    (3 ≤ (desc 0 [0, 0, 0, le 0 0 3 0]).byte 4 2 ∧ (sized State.reset).rows ≤ (desc 0 [0, 0, 0, le 8 0 0 0]).byte 4 0) ∧
    (let s := { State.reset with video := { State.reset.video with cursorChanges := [⟨1, 2, .blink⟩] } }
     s.video.cursorChanges = ⟨1, 2, .blink⟩ :: [] ∧ s.control.device ≠ .loading ∧
       (dev .loading s).control.device = .loading) := by decide

/-- A sweep at a position. -/
def sweeping (active : Bool) (position : Nat) (s : State) : State :=
  s.setSweep { s.field.sweep with active := active, position := position }

theorem witness_SweepAndRepaint :
    (let s := dev .running (fielding .trigger (bound .tick))
     s.field.event = none ∧ s.field.inbox = .trigger :: [] ∧ s.control.device = .running ∧ s.field.sweep.active = false) ∧
    (sweeping true 3 (dev .running (fielding .trigger (bound .tick)))).field.sweep.active = true ∧
    (fielding .trigger (bound .tick)).control.device ≠ .running ∧
    (let s := sweeping true 510 (fielding .step (bound .tick))
     s.field.inbox = .step :: [] ∧ s.highlight.requests = [] ∧ s.plane.inbox.countP PlaneRequest.isSpan < 64 ∧
       s.field.sweep.active = true ∧ (s.record s.field.sweep.position).state ≠ .bound ∧ s.field.sweep.position < 511) ∧
    (let s := sweeping true 3 (fielding .step (bound .tick))
     (s.record s.field.sweep.position).state = .bound ∧ s.field.sweep.position < 511 ∧
       s.plane.inbox.countP PlaneRequest.isSpan < 64 ∧ ¬(fullPlane s).plane.inbox.countP PlaneRequest.isSpan < 64) ∧
    (let s := sweeping true 511 (fielding .step (bound .tick))
     s.field.sweep.position = 511 ∧ (s.record 511).state ≠ .bound ∧ s.field.sweep.rerun = false ∧
       s.field.sweep.repaint ≠ .nextPass) ∧
    (sweeping false 0 (fielding .step (bound .tick))).field.sweep.active = false ∧
    (fielding .repaint (bound .tick)).field.inbox = .repaint :: [] := by decide

theorem witness_HighlightQueue :
    (let s := asking (.arm 3 1) (bound .tick)
     s.highlight.requests = .arm 3 1 :: [] ∧ s.field.event = none) ∧
    (asking (.arm 3 1) (inEvent [] .nothing (bound .tick))).field.event = some ⟨[], .nothing⟩ ∧
    (let s := asking (.remove 3) (inEvent [] (.complete .done 5) (bound .tick))
     s.highlight.requests = .remove 3 :: [] ∧ s.field.event = some ⟨[], .complete .done 5⟩) ∧
    (asking (.remove 3) (inEvent [⟨0, 0, []⟩] .nothing (bound .tick))).field.event = some ⟨⟨0, 0, []⟩ :: [], .nothing⟩ ∧
    (asking (.remove 3) (inEvent [] (.freeAndComplete 3 9) (bound .tick))).field.event = some ⟨[], .freeAndComplete 3 9⟩ ∧
    (let h : HighlightTimer := ⟨[⟨3, 2, true⟩] ++ [⟨4, 7, false⟩] ++ [⟨5, 8, false⟩], #v[0, 3, 5, 255], 6, [], [7]⟩
     let s := { dev .running (bound .tick) with highlight := h }
     s.highlight.frames = 7 :: [] ∧ s.control.device = .running ∧
       (∀ e ∈ [(⟨3, 2, true⟩ : HighlightEntry)], e.expired = true) ∧
       (∀ e ∈ [(⟨4, 7, false⟩ : HighlightEntry)], e.expired = false ∧ e.expiry = 7) ∧
       ∀ e ∈ [(⟨5, 8, false⟩ : HighlightEntry)].head?, e.expired = false ∧ e.expiry ≠ 7) ∧
    (bound .tick).control.device ≠ .running := by decide

/-! ### Witnesses: the plane, overlays and video -/

theorem witness_OverlayCoversTable :
    (let o := overlayIn (.opening 1)
     (o.top ≤ 1 ∧ 1 < o.top + o.height ∧ o.left ≤ 4 ∧ 4 < o.left + o.width) ∧ 1 < o.top + 1 ∧ ¬(2 < o.top + 1)) ∧
    ¬(5 < (overlayIn .opened).left + (overlayIn .opened).width) := by decide

theorem witness_SpanWriteIsBaseLayerWrite :
    (let s := stacked [overlayIn (.opening 0), overlayIn .opened] (sized State.reset)
     s.plane.stack = [overlayIn (.opening 0)] ++ overlayIn .opened :: [] ∧
       (∀ u ∈ [overlayIn (.opening 0)], u.covers 1 2 = false) ∧ (overlayIn .opened).covers 1 2 = true) ∧
    (∀ u ∈ (stacked [overlayIn .opened] (sized State.reset)).plane.stack, u.covers 0 2 = false) ∧
    (let s := planing (.span ⟨0, 31, [⟨65, 1⟩, ⟨66, 1⟩]⟩) (sized State.reset)
     s.plane.inbox = .span ⟨0, 31, [⟨65, 1⟩, ⟨66, 1⟩]⟩ :: [] ∧ s.control.device = .stopped) ∧
    (let s := planing (.span ⟨0, 31, [⟨65, 1⟩]⟩) (sized (dev .loading State.reset))
     s.plane.inbox = .span ⟨0, 31, [⟨65, 1⟩]⟩ :: [] ∧ s.control.device = .loading) := by decide

/-- WRITE_CELLS at a row and column, a count and a layer; and FILL_CELLS with a repeat. -/
def writeText (row col count layer : Nat) : Descriptor := desc (le 0 24 0 0) [le row col count layer, 0, 0, 0x00420041]
def fillText (row col layer rep : Nat) : Descriptor := desc (le 0 25 0 0) [le row col 0 layer, 0, 0, rep + 65536 * 65]

theorem witness_TextCommands :
    (let s := planing (.writeCells (writeText 7 31 24 0)) (sized State.reset)
     s.plane.inbox = .writeCells (writeText 7 31 24 0) :: [] ∧ (writeText 7 31 24 0).byte 1 3 = 0 ∧
       (textOf .writeCells (writeText 7 31 24 0)).isSome = true ∧ (writeText 7 31 24 0).byte 1 0 < s.rows ∧
       (writeText 7 31 24 0).byte 1 1 < s.columns ∧ s.plane.stack = []) ∧
    (2 ≤ (writeText 0 0 1 2).byte 1 3 ∧ textOf .writeCells (writeText 0 0 25 0) = none ∧
      textOf .fillCells (fillText 0 0 0 6144) = none) ∧
    (let s := planing (.fillCells (fillText 1 2 1 0)) (sized State.reset)
     s.plane.inbox = .fillCells (fillText 1 2 1 0) :: [] ∧ (fillText 1 2 1 0).byte 1 3 = 1 ∧
       textOf .fillCells (fillText 1 2 1 0) = some [⟨65, 0⟩] ∧ s.plane.stack = []) ∧
    (stacked [overlayIn .opened] (sized State.reset)).plane.stack = [] ++ [overlayIn .opened] ∧
    ¬((writeText 8 0 1 0).byte 1 0 < (sized State.reset).rows) := by decide

theorem witness_TextCommands_inv :
    (planing (.fillCells (fillText 1 2 1 0)) (stacked [overlayIn .opened] (sized State.reset))).Inv ∧
    (planing (.writeCells (writeText 7 31 24 0)) (sized State.reset)).Inv :=
  ⟨inv_of _ (by decide) (by decide) (by decide) (by decide) (by decide) (by decide) (by decide) (by decide),
    inv_of _ (by decide) (by decide) (by decide) (by decide) (by decide) (by decide) (by decide) (by decide)⟩

/-- OPEN_OVERLAY of a rectangle. -/
def openAt (top left height width : Nat) : Descriptor := desc (le 0 26 0 0) [0, 0, 0, le top left height width, 65]

theorem witness_OverlayCommands :
    (let s := planing (.openOverlay (openAt 7 31 1 1)) (sized State.reset)
     s.plane.inbox = .openOverlay (openAt 7 31 1 1) :: [] ∧ 7 + 1 ≤ s.rows ∧ 31 + 1 ≤ s.columns ∧
       s.plane.stack.length ≠ 4 ∧ 1 * 1 ≤ 3072 - s.plane.inUse) ∧
    (stacked [overlayIn .opened, overlayIn .opened, overlayIn .opened, overlayIn .opened] State.reset).plane.stack.length = 4 ∧
    3072 - (stacked [{ overlayIn .opened with height := 48, width := 64 }] State.reset).plane.inUse < 1 * 1 ∧
    (planing .closeOverlay State.reset).plane.inbox = .closeOverlay :: [] ∧ State.reset.plane.stack = [] ∧
    (stacked [overlayIn .opened] State.reset).plane.stack = [] ++ [overlayIn .opened] := by decide

theorem witness_OverlayRowsSaveAndRestore :
    (planing .row (stacked [overlayIn (.opening 1)] (sized State.reset))).Inv ∧
    (planing .row (stacked [overlayIn (.closing 0)] (sized State.reset))).Inv ∧
    (let s := planing .row (stacked [overlayIn (.opening 1)] (sized State.reset))
     s.plane.inbox = .row :: [] ∧ s.plane.stack = [] ++ [overlayIn (.opening 1)] ∧ 1 < (overlayIn (.opening 1)).height ∧
       (overlayIn (.opening 1)).state = .opening 1 ∧ 1 + 1 = (overlayIn (.opening 1)).height) ∧
    ((overlayIn (.closing 0)).state = .closing 0 ∧ 0 + 1 < (overlayIn (.closing 0)).height) ∧
    (let p := (sized State.reset).plane
     let o := overlayIn .opened
     Tab.WF cellSpec p.cells ∧ Tab.WF saveSpec p.save ∧ o.top ≤ 2 ∧ 2 < o.top + o.height ∧ o.offset + o.area ≤ 3072 ∧
       2 * p.columns + (o.left + o.width) ≤ 6144) :=
  ⟨inv_of _ (by decide) (by decide) (by decide) (by decide) (by decide) (by decide) (by decide) (by decide),
    inv_of _ (by decide) (by decide) (by decide) (by decide) (by decide) (by decide) (by decide) (by decide),
    by decide, by decide, by decide⟩

theorem witness_FrameScanAndFrameEvent :
    ((showing none 0).video.shown = true ∧ (showing none 0).video.scan = none) ∧
    ((showing (some ⟨none, none, Cursor.reset, 0⟩) 1).video.scan.isSome = true ∧ 1 + 1 = (showing none 1).video.blinkHalf) ∧
    State.reset.video.shown = false ∧
    (let f : Scan := ⟨some ⟨32, 8⟩, some 8, Cursor.reset, 0⟩
     f.geometry = some ⟨32, 8⟩ ∧ f.glyphHeight = some 8 ∧ 7 < 8 ∧ 31 < 32 ∧ f.total = 2048) := by decide

theorem witness_DotsAreDrawnByPenPhaseAndCursor :
    15 < 16 ∧ 7 < 8 ∧
    (let f : Scan := ⟨some ⟨32, 8⟩, some 8, Cursor.reset, 2047⟩
     let s := showing (some f) 0
     s.video.shown = true ∧ s.video.scan = some f ∧ f.geometry = some ⟨32, 8⟩ ∧ f.glyphHeight = some 8 ∧
       f.place f.drawn = some (7, 7, 31) ∧ s.dotColour 7 31 7 7 = some ⟨0, 0, 0⟩) := by decide

/-! ### Single steps -/

/-- The state after a command; every command answers a next state. -/
def after (c : Instr) (s : State) : State :=
  match exec c s with
  | .next t => t
  | .fault _ => s
  | .refused _ => s

/-- The text of a render, as characters. -/
def textOf_ (v : Word) (scale : Fin 7) (width : Nat) (st : Style) : String :=
  String.ofList ((format (some ⟨v, scale⟩) width st 0).glyphs.map fun g => Char.ofNat g.toNat)

theorem test_format_truncates : textOf_ 10259 2 8 { Style.cleared with places := 1 } = "   102.5" := by decide
theorem test_format_extends : textOf_ 7 0 6 { Style.cleared with places := 2, plus := true } = " +7.00" := by decide
theorem test_format_negative_zero : textOf_ (-7) 2 4 Style.cleared = "   0" := by decide
theorem test_format_overflow : textOf_ 10259 2 5 { Style.cleared with places := 2 } = "#####" := by decide
theorem test_format_squeeze : textOf_ 10259 2 5 { Style.cleared with places := 2, squeeze := true } = "102.5" := by decide

theorem test_ring_on_reads_descriptor_zero :
    let t := after (.ringOn .a 1) (at_ .a 1 (dev .running State.reset))
    (t.rings.get .a).state = .on ∧ (t.rings.get .a).phase = .status ∧
      t.memory.sent.get (.ring .a) = some ⟨.statusRead .a, 0, 0, [], .requesting⟩ := by decide

theorem test_ring_length_seven_is_ignored :
    after (.ringLengthWrite .a 7) (at_ .a 6 State.reset) = at_ .a 6 State.reset := by decide

theorem test_ring_base_low_bits_are_zero :
    ((after (.ringBaseWrite .a 0xFFFF) (at_ .a 4 State.reset)).rings.get .a).base = 0xFFC0 := by decide

theorem test_attention_line :
    let t := after (.attentionCauseSet .a) ((at_ .a 3 State.reset).sendCause .a .halt)
    (t.ports.get .a).attnPending = 0x10 ∧ (after (.attnEnableWrite .a 0xFF) t).attentionLine .a = true ∧
      ((after (.attnEnableWrite .a 0xFF) t).ports.get .a).attnEnable = 0x7F := by decide

theorem test_status_read_asks_for_body :
    (after (.statusReadEnd .b) (given .b (.statusEnd 0x80) (ringIn .b .on .status))).memory.sent.get (.ring .b) =
      some ⟨.bodyRead .b, 4, 0, [], .requesting⟩ := by decide

theorem test_update_is_duplicate :
    ((after .update (applying (quote 1 1 0 1 5))).rings.get .a).input = [.outcome .duplicate 0] := by decide

theorem test_update_sends_tick_render :
    let t := after .update (applying (quote 1 1 0 1 6))
    t.field.inbox = [.render (.tick 3 (some 102590000) 102610000)] ∧ (t.slot 0).lastSeq = 6 ∧
      (t.rings.get .a).input = [.outcome .applied 0x100] := by decide

theorem test_define_takes_lowest_slot :
    let t := after .defineInstrument (quoting (.define (keyed 16 0x12345678 3)) (holding [] State.reset))
    (t.slot 1).key = 0x12345678 ∧ (t.slot 1).sources = ⟨true, true, false⟩ ∧ t.quote.heads.get headSpec 8 = some 1 ∧
      (t.rings.get .t).input = [.outcome .done 0x801] := by decide

theorem test_remove_unlinks :
    let t := after .removeInstrument (quoting (.remove (keyed 17 0x80000081 0)) chained)
    t.slot 1 = Slot.cleared ∧ (t.slot 0).link = none ∧ (t.rings.get .t).input = [.outcome .done 0x01000101] := by decide

theorem test_bind_asks_for_lookup :
    (after .bindField (fielding (.bind (bind 4 0 6 2 0 2)) (bound .tick))).quote.inbox = [.lookup 1] := by decide

theorem test_append_completion_binds :
    let t := after .appendCompletion (inProgress (bind 4 0 6 2 0 2) (.appendDone 4 0) (bound .tick))
    (t.record 4).state = .bound ∧ t.field.occupancy.get occSpec 69 = some 4 ∧
      t.field.occupancy.get occSpec 70 = none ∧ (t.rings.get .t).input = [.outcome .done 0x01000004] := by decide

theorem test_render_of_stale_field_uses_stale_pen :
    (after .plainRender (fielding (.render (.plain 3)) (bound .tick))).plane.inbox =
      [.span ⟨1, 2, [⟨49, 3⟩, ⟨48, 3⟩, ⟨50, 3⟩, ⟨46, 3⟩, ⟨53, 3⟩, ⟨57, 3⟩]⟩] := by decide

theorem test_unmoved_tick_keeps_pen_and_arms_nothing :
    (after .tickRender (dev .running (fielding (.render (.tick 3 (some 5) 5)) (bound .tick)))).highlight.requests = [] := by
  decide

theorem test_arm_orders_by_remaining_frames :
    let h : HighlightTimer := ⟨[⟨5, 7, false⟩, ⟨6, 20, false⟩], #v[0, 3, 5, 255], 4, [.arm 3 2], []⟩
    (after .armRequest { bound .tick with highlight := h }).highlight.queue =
      [⟨5, 7, false⟩, ⟨3, 9, false⟩, ⟨6, 20, false⟩] := by decide

theorem test_span_under_overlay_goes_to_save_slot :
    let t := after .spanWrite (planing (.span ⟨1, 1, [⟨65, 1⟩, ⟨66, 1⟩]⟩) (stacked [overlayIn .opened] (sized State.reset)))
    t.plane.cells.get cellSpec 33 = ⟨65, 1⟩ ∧ t.plane.cells.get cellSpec 34 = ⟨0, 0⟩ ∧
      t.plane.save.get saveSpec 0 = ⟨66, 1⟩ := by decide

theorem test_span_past_geometry_is_dropped :
    (after .spanWrite (planing (.span ⟨0, 31, [⟨65, 1⟩, ⟨66, 1⟩]⟩) (sized State.reset))).plane.cells = [(31, ⟨65, 1⟩)] := by
  decide

theorem test_text_is_protected_and_clipped :
    ((after .writeCells (planing (.writeCells (writeText 1 1 2 0)) (bound .tick))).rings.get .t).input =
      [.outcome .done 0x00010001] := by decide

theorem test_overlay_opens_and_reports :
    let s := planing .row (stacked [overlayIn (.opening 1)] (sized State.reset))
    let t := after .openingRow s
    t.plane.stack = [overlayIn .opened] ∧ t.plane.cells.get cellSpec 66 = ⟨65, 4⟩ ∧
      (t.rings.get .t).input = [.outcome .done 0x00060001] := by decide

theorem test_sweep_passes_over_free_field :
    let t := after .sweepStep (sweeping true 4 (fielding .step (bound .tick)))
    t.field.sweep.position = 5 ∧ t.field.inbox = [.step] := by decide

theorem test_left_over_step_is_first_of_new_pass :
    let t := after .setupReadEnd ((fielding .step (loading .setup (.setupWords (block 0)))).setSweep ⟨false, 0, false, true, 0, .none⟩)
    let u := after .sweepTrigger t
    t.field.inbox = [.trigger, .step] ∧ u.field.inbox = [.step] ∧ u.field.sweep.active = true ∧
      (after .sweepStep u).field.sweep.position = 1 := by decide

theorem test_move_waits_for_its_blanking_write :
    let s := fullPlane (fielding (.move (fieldCmd 21 3 0 20 (le 7 12 0 0) 0)) (bound .tick))
    let t := after .moveField s
    let u := after .spanQueueRoom { t with plane := { t.plane with inbox := [] } }
    t.record 3 = fieldThree .tick ∧ t.field.occupancy = [] ∧ after .spanQueueRoom t = t ∧
      (u.record 3).row = 7 ∧ u.field.occupancy.length = 20 ∧ u.plane.inbox.length = 2 ∧ u.field.event = none ∧
      (u.rings.get .t).input = [.outcome .done 0x01000003] := by decide

theorem test_left_over_span_write_is_taken_in_stopped :
    let s := planing (.span ⟨1, 1, [⟨65, 1⟩]⟩) (sized (dev .stopped State.reset))
    (after .spanWrite s).plane.cells = [(33, ⟨65, 1⟩)] ∧ (after .spanWrite s).plane.inbox = [] := by decide

/-- In LOADING the span write is taken or waits, by the free value. -/
theorem test_left_over_span_write_in_loading :
    let s := planing (.span ⟨1, 1, [⟨65, 1⟩]⟩) (sized (dev .loading State.reset))
    (s.takeSpan ⟨1, 1, [⟨65, 1⟩]⟩).plane.cells = [(33, ⟨65, 1⟩)] ∧ (s.takeSpan ⟨1, 1, [⟨65, 1⟩]⟩).plane.inbox = [] ∧
    exec .spanWrite s = .next (if Config.spansWaitInLoading = true then s else s.takeSpan ⟨1, 1, [⟨65, 1⟩]⟩) := by
  refine ⟨by decide, by decide, ?_⟩
  have h := State.spansWait_loading (s := planing (.span ⟨1, 1, [⟨65, 1⟩]⟩) (sized (dev .loading State.reset))) rfl
  rw [← h]
  exact execSpanWrite_span (s := planing (.span ⟨1, 1, [⟨65, 1⟩]⟩) (sized (dev .loading State.reset))) (rest := []) rfl

theorem test_step_waits_for_its_span_write :
    let s := fullPlane (sweeping true 3 (fielding .step (bound .tick)))
    let t := after .sweepStep s
    let u := after .spanQueueRoom { t with plane := { t.plane with inbox := [] } }
    t.field.event.isSome = true ∧ t.field.sweep.position = 3 ∧ t.field.inbox = [] ∧
      u.field.sweep.position = 4 ∧ u.field.sweep.rendered = 1 ∧ u.field.inbox = [.step] := by decide

theorem test_frame_event_turns_blink_phase :
    let t := after .frameEvent (showing (some ⟨none, none, Cursor.reset, 0⟩) 1)
    t.video.blinkPhase = true ∧ t.video.blinkCounter = 0 ∧ t.highlight.frames = [1] := by decide

theorem test_setup_failure_ends_start :
    let t := after .setupReadEnd (loading .setup (.setupWords []))
    t.control.device = .stopped ∧ t.control.lastStart = .geometry ∧ (t.ports.get .t).causes = [.startDone] := by decide

theorem test_start_reads_setup_block :
    (after .start (ready .stopped)).memory.sent.get .loader = some ⟨.setupRead, 0, 0, [], .requesting⟩ := by decide

theorem test_stop_with_all_rings_off_ends_at_once :
    let t := after .stop (ready .running)
    t.control.device = .stopped ∧ (t.ports.get .t).causes = [.stopDone] ∧ (t.ports.get .a).causes = [.device] := by decide

theorem test_write_back_drives_word_three_first :
    let tx : Transaction := ⟨.writeBack .b, 0x10C, 0, [7, 9], .transferring⟩
    let s := { State.reset with memory := { State.reset.memory with inFlight := some tx } }
    s.busAddress = some 0x10C ∧ s.busData = some 7 ∧ (after (.transferAcknowledge 0) s).busAddress = some 0x100 ∧
      (after (.transferAcknowledge 0) s).busData = some 9 := by decide

theorem test_absent_item_takes_steady_pen :
    selectPen { Style.cleared with rule := .tick, steadyPen := 4, upPen := 1, downPen := 2 } false .up none = 4 := by decide

theorem test_scan_draws_one_more_cell :
    let f : Scan := ⟨some ⟨32, 8⟩, some 8, Cursor.reset, 255⟩
    step (showing (some f) 1) = .next (showing (some { f with drawn := 256 }) 1) ∧ f.place 255 = some (0, 7, 31) ∧
      f.place 256 = some (1, 0, 0) ∧ f.place 2048 = none := ⟨rfl, by decide⟩

theorem test_nothing_is_driven_before_the_first_start :
    State.reset.colourOutput 0 = ⟨0, 0, 0⟩ ∧ State.reset.blanked = true ∧ State.reset.syncDriven = false := by decide

theorem test_new_geometry_drops_cursor_changes :
    let s := loading .setup (.setupWords (block 0))
    let t := after .setupReadEnd { s with video := { s.video with cursorChanges := [⟨40, 100, .steady⟩] } }
    t.control.device = .running ∧ t.video.cursorChanges = [] ∧ t.video.cursor = Cursor.reset := by decide

theorem test_window_is_dead_while_reset_is_held :
    let t := { after .hardwareReset (dev .running State.reset) with video := { VideoGenerator.reset with frameNumber := 5 } }
    after (.ringOn .a 1) t = t ∧ t.windowRead .t = 0 ∧ (after (.selectorWrite .t 20) t).windowRead .t = 5 ∧
      t.idle.resetHeld = false := by decide

end Sys2Proof.Tests
end

/-! The quote map (Section 1): the bucket of a key (R4) and the condition of staleness (R17). -/

namespace Sys2Proof.Machine

/-! ### The bucket of a key -/

/-- The arithmetic byte of the model is the eight-bit field of the word, so R4's fold can be taken on bit vectors. -/
theorem byteOf_eq_toNat_extractLsb' (w : Word) (k : Nat) : byteOf w k = (w.extractLsb' (8 * k) 8).toNat := by
  rw [byteOf, BitVec.extractLsb'_toNat, Nat.shiftRight_eq_div_pow]

theorem bucketOf_eq_toNat_fold (key : Word) : bucketOf key =
    ((key.extractLsb' 0 8 ^^^ key.extractLsb' 8 8 ^^^ key.extractLsb' 16 8 ^^^ key.extractLsb' 24 8).setWidth 7).toNat := by
  rw [BitVec.toNat_setWidth]
  simp only [bucketOf, byteOf_eq_toNat_extractLsb', BitVec.toNat_xor, Nat.reduceMul, Nat.reducePow]

/-- Settles O30: the formula is the byte bridge under the exclusive-OR, the bound is `bucketOf_lt`, and the two worked
keys are evaluated. -/
theorem bucketIsFoldOfKey : Obligations.BucketIsFoldOfKey :=
  ⟨bucketOf_eq_toNat_fold, bucketOf_lt, by decide, by decide⟩

/-! ### Staleness -/

theorem someLive_eq_true_iff (mask : PerRing Bool) (rings : PerRing RingUnit) :
    someLive mask rings = true ↔ ∃ r, mask.get r = true ∧ (rings.get r).state = .on := by
  simp only [someLive, Bool.or_eq_true, Bool.and_eq_true, decide_eq_true_eq]
  constructor
  · rintro ((live | live) | live)
    exacts [⟨.a, live⟩, ⟨.b, live⟩, ⟨.t, live⟩]
  · rintro ⟨r, live⟩
    cases r with
    | a => exact .inl (.inl live)
    | b => exact .inl (.inr live)
    | t => exact .inr live

theorem someLive_eq_false_iff (mask : PerRing Bool) (rings : PerRing RingUnit) :
    someLive mask rings = false ↔ ∀ r, mask.get r = true → (rings.get r).state ≠ .on := by
  rw [← Bool.not_eq_true, someLive_eq_true_iff]
  simp only [not_exists, not_and, ne_eq]

theorem SeqState.ne_synced_iff (q : SeqState) : q ≠ .synced ↔ q = .gapped ∨ q = .unsequenced := by
  cases q <;> decide

/-- Settles O31: the three disjuncts of the model's test are read off one by one, the last through
`someLive_eq_false_iff`. -/
theorem stalenessCondition : Obligations.StalenessCondition := by
  intro v rings
  simp only [isStale, Bool.or_eq_true, decide_eq_true_eq, Bool.not_eq_true', someLive_eq_false_iff,
    SeqState.ne_synced_iff, or_assoc]

end Sys2Proof.Machine

/-! The two decisions an apply rests on: what step 4 of R22 decides (R26 to R28), and what passes the form check (R23). -/

namespace Sys2Proof.Machine

/-! ### The sequence comparison (R26) -/

/-- R26's distance, which the model takes on 24-bit words, as arithmetic modulo 2^24. -/
theorem toNat_sequence_sub (seq last : BitVec 24) :
    (seq - last).toNat = (seq.toNat + 16777216 - last.toNat) % 16777216 := by
  have bound := last.isLt
  rw [BitVec.toNat_sub]
  congr 1
  omega

theorem compareSeq_of_eq_zero {seq last : BitVec 24} (h : (seq - last).toNat = 0) : compareSeq seq last = .equal := by
  simp [compareSeq, h]

theorem compareSeq_of_eq_one {seq last : BitVec 24} (h : (seq - last).toNat = 1) : compareSeq seq last = .inOrder := by
  simp [compareSeq, h]

theorem compareSeq_of_newer {seq last : BitVec 24} (least : 2 ≤ (seq - last).toNat)
    (most : (seq - last).toNat ≤ 8388607) : compareSeq seq last = .gap := by
  rw [compareSeq, if_neg (by omega), if_neg (by omega), if_pos (by omega)]

theorem compareSeq_of_older {seq last : BitVec 24} (least : 8388608 ≤ (seq - last).toNat) :
    compareSeq seq last = .older := by
  rw [compareSeq, if_neg (by omega), if_neg (by omega), if_neg (by omega)]

/-! ### The case tables (R27, R28) -/

@[simp] theorem arbitrateUpdate_unsequenced (c : SeqCompare) :
    arbitrateUpdate .unsequenced c = .accept .gapped .appliedGap := rfl

@[simp] theorem arbitrateSnapshot_unsequenced (c : SeqCompare) :
    arbitrateSnapshot .unsequenced c = .accept .synced .applied := rfl

@[simp] theorem arbitrateSnapshot_gapped (c : SeqCompare) :
    arbitrateSnapshot .gapped c = .accept .synced .applied := rfl

/-- The rows SYNCED and GAPPED of R27 differ in one cell only, where an in-order descriptor keeps the state. -/
theorem arbitrateUpdate_of_sequenced {q : SeqState} (h : q = .synced ∨ q = .gapped) :
    arbitrateUpdate q .equal = .refuse .duplicate ∧ arbitrateUpdate q .inOrder = .accept q .applied ∧
    arbitrateUpdate q .gap = .accept .gapped .appliedGap ∧ arbitrateUpdate q .older = .refuse .stale := by
  rcases h with rfl | rfl <;> exact ⟨rfl, rfl, rfl, rfl⟩

theorem synced_of_arbitrateUpdate_accept_synced {q : SeqState} {c : SeqCompare} {st : Status}
    (h : arbitrateUpdate q c = .accept .synced st) : q = .synced := by
  cases q with
  | synced => rfl
  | unsequenced => simp at h
  | gapped => cases c <;> simp [arbitrateUpdate] at h

/-- Every acceptance in the table of R28 is an APPLIED that leaves the instrument SYNCED. -/
theorem arbitrateSnapshot_accept {q new : SeqState} {c : SeqCompare} {st : Status}
    (h : arbitrateSnapshot q c = .accept new st) : new = .synced ∧ st = .applied := by
  cases q with
  | unsequenced | gapped =>
    obtain ⟨rfl, rfl⟩ := Verdict.accept.inj h
    exact ⟨rfl, rfl⟩
  | synced => cases c <;> simp_all [arbitrateSnapshot]

/-- Settles O32: the four ranges are `compareSeq_of_…` once the distance is arithmetic, the cells are read off the
tables, and the two closing claims are `arbitrateSnapshot_accept` and `synced_of_arbitrateUpdate_accept_synced`. -/
theorem comparisonAndCaseTables : Obligations.ComparisonAndCaseTables := by
  refine ⟨⟨fun seq last => ?ranges, fun _ _ => ⟨rfl, rfl⟩⟩, arbitrateUpdate_unsequenced,
    fun q => arbitrateUpdate_of_sequenced, fun c => ⟨arbitrateSnapshot_unsequenced c, arbitrateSnapshot_gapped c⟩,
    rfl, rfl, rfl, rfl, fun q c new h => ?gap, fun q c st => synced_of_arbitrateUpdate_accept_synced⟩
  case ranges =>
    rw [← toNat_sequence_sub]
    exact ⟨compareSeq_of_eq_zero, compareSeq_of_eq_one, fun d => compareSeq_of_newer d.1 d.2,
      fun d => compareSeq_of_older d.1⟩
  case gap => exact absurd (arbitrateSnapshot_accept h).2 (by decide)

/-! ### One pair (R178) -/

/-- Pair `k` of the descriptor lies in words 2k + 4 and 2k + 5; being a `Pair` it is in range. -/
theorem Descriptor.pair_eq_some_iff {d : Descriptor} {k : Nat} {p : Pair} :
    d.pair k = some p ↔
      p.item.val = d.byte (2 * k + 4) 0 ∧ p.scale.val = d.byte (2 * k + 4) 1 ∧ p.value = d.word (2 * k + 5) := by
  obtain ⟨⟨item, hi⟩, ⟨scale, hs⟩, value⟩ := p
  constructor
  · intro h
    unfold Descriptor.pair at h
    split_ifs at h
    cases h
    exact ⟨rfl, rfl, rfl⟩
  · rintro ⟨rfl, rfl, rfl⟩
    rw [Descriptor.pair, dif_pos hi, dif_pos hs]

theorem Descriptor.pair_isSome_iff {d : Descriptor} {k : Nat} :
    (d.pair k).isSome = true ↔ d.byte (2 * k + 4) 0 ≤ 7 ∧ d.byte (2 * k + 4) 1 ≤ 6 := by
  rw [Option.isSome_iff_exists]
  constructor
  · rintro ⟨p, hp⟩
    obtain ⟨item, scale, -⟩ := Descriptor.pair_eq_some_iff.mp hp
    omega
  · rintro ⟨item, scale⟩
    exact ⟨⟨⟨_, Nat.lt_succ_of_le item⟩, ⟨_, Nat.lt_succ_of_le scale⟩, _⟩,
      Descriptor.pair_eq_some_iff.mpr ⟨rfl, rfl, rfl⟩⟩

/-! ### The pairs within the count (R23, 4 to 6) -/

theorem Descriptor.pairsFrom_succ_eq_some_iff {d : Descriptor} {k n : Nat} {ps : List Pair} :
    d.pairsFrom k (n + 1) = some ps ↔
      ∃ p rest, ps = p :: rest ∧ d.pair k = some p ∧ d.pairsFrom (k + 1) n = some rest := by
  simp only [Descriptor.pairsFrom]
  split
  next p rest headRead restRead => simp [headRead, restRead, eq_comm]
  next unread =>
    constructor
    · exact fun h => nomatch h
    · rintro ⟨p, rest, -, headRead, restRead⟩
      exact (unread p rest headRead restRead).elim

/-- Reading pairs answers exactly the list of the pairs read one by one. -/
theorem Descriptor.pairsFrom_eq_some_iff {d : Descriptor} {k n : Nat} {ps : List Pair} :
    d.pairsFrom k n = some ps ↔ ps.length = n ∧ ∀ (j : Nat) (_ : j < ps.length), d.pair (k + j) = some ps[j] := by
  induction n generalizing k ps with
  | zero => cases ps <;> simp [Descriptor.pairsFrom]
  | succ n ih =>
    cases ps with
    | nil => simp [Descriptor.pairsFrom_succ_eq_some_iff]
    | cons p rest =>
      have shift (j : Nat) : k + 1 + j = k + (j + 1) := by omega
      simp only [Descriptor.pairsFrom_succ_eq_some_iff, List.cons.injEq, List.length_cons, Nat.succ_inj, ih, shift]
      constructor
      · rintro ⟨_, _, ⟨rfl, rfl⟩, headRead, length, restRead⟩
        refine ⟨length, fun j hj => ?_⟩
        cases j with
        | zero => exact headRead
        | succ j => exact restRead j (Nat.lt_of_succ_lt_succ hj)
      · rintro ⟨length, read⟩
        exact ⟨p, rest, ⟨rfl, rfl⟩, read 0 (Nat.succ_pos _), length, fun j hj => read (j + 1) (Nat.succ_lt_succ hj)⟩

theorem Descriptor.pairsFrom_isSome_iff {d : Descriptor} {k n : Nat} :
    (d.pairsFrom k n).isSome = true ↔ ∀ j < n, (d.pair (k + j)).isSome = true := by
  constructor
  · intro h j hj
    obtain ⟨ps, hps⟩ := Option.isSome_iff_exists.mp h
    obtain ⟨rfl, read⟩ := Descriptor.pairsFrom_eq_some_iff.mp hps
    exact Option.isSome_of_eq_some (read j hj)
  · intro h
    refine Option.isSome_iff_exists.mpr ⟨List.ofFn fun j : Fin n => (d.pair (k + j)).get (h j j.isLt), ?_⟩
    exact Descriptor.pairsFrom_eq_some_iff.mpr ⟨by simp, by simp⟩

theorem Descriptor.pairs_eq_some_iff {d : Descriptor} {ps : List Pair} :
    d.pairs = some ps ↔ d.pairsFrom 0 d.pairCount = some ps ∧ (ps.map Pair.item).Nodup := by
  unfold Descriptor.pairs
  split
  next read =>
    rw [read, Option.some.injEq]
    constructor
    · intro h
      split_ifs at h with nodup
      cases h
      exact ⟨rfl, nodup⟩
    · rintro ⟨rfl, nodup⟩
      rw [if_pos nodup]
  next unread => simp [unread]

/-- What the items and scales in the bytes within the pair count have to satisfy: R23's entries 4 to 6. -/
def Descriptor.PairsInForm (d : Descriptor) : Prop :=
  (∀ k < d.pairCount, d.byte (2 * k + 4) 0 ≤ 7 ∧ d.byte (2 * k + 4) 1 ≤ 6) ∧
  (∀ j k, j < k → k < d.pairCount → d.byte (2 * j + 4) 0 ≠ d.byte (2 * k + 4) 0)

/-- `ps` are the items, scales and values that words 4 and up hold within the pair count. -/
def Descriptor.Carries (d : Descriptor) (ps : List Pair) : Prop :=
  ps.length = d.pairCount ∧ ∀ (k : Nat) (_ : k < ps.length),
    ps[k].item.val = d.byte (2 * k + 4) 0 ∧ ps[k].scale.val = d.byte (2 * k + 4) 1 ∧ ps[k].value = d.word (2 * k + 5)

theorem Descriptor.pairsFrom_zero_eq_some_iff {d : Descriptor} {ps : List Pair} :
    d.pairsFrom 0 d.pairCount = some ps ↔ d.Carries ps := by
  simp only [Descriptor.pairsFrom_eq_some_iff, Descriptor.pair_eq_some_iff, Nat.zero_add, Descriptor.Carries]

/-- That the items of the list differ is that the item bytes differ. -/
theorem Descriptor.Carries.nodup_items_iff {d : Descriptor} {ps : List Pair} (carried : d.Carries ps) :
    (ps.map Pair.item).Nodup ↔
      ∀ j k, j < k → k < d.pairCount → d.byte (2 * j + 4) 0 ≠ d.byte (2 * k + 4) 0 := by
  obtain ⟨length, contents⟩ := carried
  rw [List.Nodup, List.pairwise_map, List.pairwise_iff_getElem, ← length]
  constructor
  · intro distinct j k hjk hk same
    have hj := hjk.trans hk
    refine distinct j k hj hk hjk (Fin.ext ?_)
    rw [(contents j hj).1, (contents k hk).1, same]
  · intro distinct j k hj hk hjk same
    refine distinct j k hjk hk ?_
    rw [← (contents j hj).1, ← (contents k hk).1, same]

theorem Descriptor.carries_of_pairs {d : Descriptor} {ps : List Pair} (h : d.pairs = some ps) : d.Carries ps :=
  Descriptor.pairsFrom_zero_eq_some_iff.mp (Descriptor.pairs_eq_some_iff.mp h).1

theorem Descriptor.pairs_isSome_iff {d : Descriptor} : d.pairs.isSome = true ↔ d.PairsInForm := by
  have inRange_iff : (d.pairsFrom 0 d.pairCount).isSome = true ↔
      ∀ k < d.pairCount, d.byte (2 * k + 4) 0 ≤ 7 ∧ d.byte (2 * k + 4) 1 ≤ 6 := by
    simp only [Descriptor.pairsFrom_isSome_iff, Descriptor.pair_isSome_iff, Nat.zero_add]
  rw [Descriptor.PairsInForm, ← inRange_iff, Option.isSome_iff_exists]
  constructor
  · rintro ⟨ps, hps⟩
    obtain ⟨read, nodup⟩ := Descriptor.pairs_eq_some_iff.mp hps
    exact ⟨Option.isSome_of_eq_some read, (Descriptor.carries_of_pairs hps).nodup_items_iff.mp nodup⟩
  · rintro ⟨readable, distinct⟩
    obtain ⟨ps, read⟩ := Option.isSome_iff_exists.mp readable
    have carried := Descriptor.pairsFrom_zero_eq_some_iff.mp read
    exact ⟨ps, Descriptor.pairs_eq_some_iff.mpr ⟨read, carried.nodup_items_iff.mpr distinct⟩⟩

/-! ### The form check of each kind (R23) -/

theorem Descriptor.pairsForm_eq_some_iff {d : Descriptor} {least most : Nat} {ps : List Pair} :
    d.pairsForm least most = some ps ↔
      (d.sequenceUpper = 0 ∧ least ≤ d.pairCount ∧ d.pairCount ≤ most) ∧ d.pairs = some ps := by
  rw [Descriptor.pairsForm, Option.ite_none_right_eq_some]

theorem Descriptor.pairsForm_isSome_iff {d : Descriptor} {least most : Nat} :
    (d.pairsForm least most).isSome = true ↔
      (d.sequenceUpper = 0 ∧ d.PairsInForm) ∧ least ≤ d.pairCount ∧ d.pairCount ≤ most := by
  simp only [Option.isSome_iff_exists, Descriptor.pairsForm_eq_some_iff, exists_and_left]
  rw [← Option.isSome_iff_exists, Descriptor.pairs_isSome_iff]
  tauto

theorem Descriptor.carries_of_pairsForm {d : Descriptor} {least most : Nat} {ps : List Pair}
    (h : d.pairsForm least most = some ps) : d.Carries ps :=
  Descriptor.carries_of_pairs (Descriptor.pairsForm_eq_some_iff.mp h).2

theorem conditionOf_eq_some_iff {b : Nat} {c : Condition} :
    conditionOf b = some c ↔ c = .trading ∧ b = 1 ∨ c = .paused ∧ b = 2 := by
  unfold conditionOf
  split
  · simp [eq_comm]
  · simp [eq_comm]
  next not_one not_two => simp [show b ≠ 1 from not_one, show b ≠ 2 from not_two]

theorem conditionOf_isSome_iff {b : Nat} : (conditionOf b).isSome = true ↔ b = 1 ∨ b = 2 := by
  simp [Option.isSome_iff_exists, conditionOf_eq_some_iff, exists_or]

/-- The condition that passes is TRADING for byte 1 alone and PAUSED for byte 2 alone. -/
theorem conditionOf_given {b : Nat} {c : Condition} (h : conditionOf b = some c) :
    (c = .trading ↔ b = 1) ∧ (c = .paused ↔ b = 2) := by
  obtain ⟨rfl, rfl⟩ | ⟨rfl, rfl⟩ := conditionOf_eq_some_iff.mp h <;> decide

theorem Descriptor.updateForm_eq_some_iff {d : Descriptor} {ps : List Pair} :
    d.updateForm = some ps ↔ d.conditionByte = 0 ∧ d.pairsForm 1 6 = some ps := by
  rw [Descriptor.updateForm, Option.ite_none_right_eq_some]

theorem Descriptor.updateForm_isSome_iff {d : Descriptor} :
    d.updateForm.isSome = true ↔ (d.sequenceUpper = 0 ∧ d.PairsInForm) ∧
      1 ≤ d.pairCount ∧ d.pairCount ≤ 6 ∧ d.conditionByte = 0 := by
  simp only [Option.isSome_iff_exists, Descriptor.updateForm_eq_some_iff, exists_and_left]
  rw [← Option.isSome_iff_exists, Descriptor.pairsForm_isSome_iff]
  tauto

theorem Descriptor.snapshotForm_eq_some_iff {d : Descriptor} {ps : List Pair} {c : Condition} :
    d.snapshotForm = some (ps, c) ↔ d.pairsForm 0 6 = some ps ∧ conditionOf d.conditionByte = some c := by
  unfold Descriptor.snapshotForm
  split <;> simp_all

theorem Descriptor.snapshotForm_isSome_iff {d : Descriptor} :
    d.snapshotForm.isSome = true ↔ (d.sequenceUpper = 0 ∧ d.PairsInForm) ∧
      d.pairCount ≤ 6 ∧ (d.conditionByte = 1 ∨ d.conditionByte = 2) := by
  simp only [Option.isSome_iff_exists, Prod.exists, Descriptor.snapshotForm_eq_some_iff, exists_and_left,
    exists_and_right]
  simp only [← Option.isSome_iff_exists, Descriptor.pairsForm_isSome_iff, conditionOf_isSome_iff, Nat.zero_le,
    true_and, and_assoc]

theorem Descriptor.conditionForm_eq_some_iff {d : Descriptor} {c : Condition} :
    d.conditionForm = some c ↔ (d.pairsForm 0 0).isSome = true ∧ conditionOf d.conditionByte = some c := by
  unfold Descriptor.conditionForm
  split
  next pairs given => simp [pairs, given]
  next refused =>
    constructor
    · exact fun h => nomatch h
    · rintro ⟨readable, given⟩
      obtain ⟨ps, pairs⟩ := Option.isSome_iff_exists.mp readable
      exact (refused ps c pairs given).elim

theorem Descriptor.conditionForm_isSome_iff {d : Descriptor} :
    d.conditionForm.isSome = true ↔ (d.sequenceUpper = 0 ∧ d.PairsInForm) ∧
      d.pairCount = 0 ∧ (d.conditionByte = 1 ∨ d.conditionByte = 2) := by
  rw [Option.isSome_iff_exists]
  simp only [Descriptor.conditionForm_eq_some_iff, exists_and_left]
  rw [← Option.isSome_iff_exists, Descriptor.pairsForm_isSome_iff, conditionOf_isSome_iff]
  simp only [Nat.zero_le, true_and, Nat.le_zero, and_assoc]

/-- Settles O33: each kind's check is the shared check of the pairs with its range of the count, and its condition byte;
what passes is what the pairs and the condition byte were read as. -/
theorem formCheck : Obligations.FormCheck := by
  intro d
  refine ⟨Descriptor.updateForm_isSome_iff, Descriptor.snapshotForm_isSome_iff, Descriptor.conditionForm_isSome_iff,
    fun ps h => ?update, fun ps c h => ?snapshot, fun c h => ?condition⟩
  case update => exact Descriptor.carries_of_pairsForm (Descriptor.updateForm_eq_some_iff.mp h).2
  case snapshot =>
    obtain ⟨pairs, given⟩ := Descriptor.snapshotForm_eq_some_iff.mp h
    exact ⟨Descriptor.carries_of_pairsForm pairs, conditionOf_given given⟩
  case condition => exact conditionOf_given (Descriptor.conditionForm_eq_some_iff.mp h).2

end Sys2Proof.Machine

/-! The formatter's shift of a value's magnitude to the display places (R62). -/

namespace Sys2Proof.Machine

/-! ### The three cases of R62, by the places against the scale -/

theorem Item.shifted_of_lt {i : Item} {p : Nat} (h : p < i.scale.val) :
    i.shifted p = i.value.toInt.natAbs / 10 ^ (i.scale.val - p) := if_pos h

theorem Item.shifted_of_ge {i : Item} {p : Nat} (h : i.scale.val ≤ p) :
    i.shifted p = i.value.toInt.natAbs * 10 ^ (p - i.scale.val) := if_neg h.not_gt

@[simp] theorem Item.shifted_scale (i : Item) : i.shifted i.scale.val = i.value.toInt.natAbs := by
  simp [Item.shifted_of_ge]

/-! ### Its largest value -/

/-- The bound is met by −2^31, whose magnitude no positive word has. -/
theorem natAbs_toInt_le (v : Word) : v.toInt.natAbs ≤ 2 ^ 31 := by
  have least := v.le_toInt
  have most := v.toInt_lt
  omega

theorem Item.shifted_le {i : Item} {p : Nat} (h : p ≤ 6) : i.shifted p ≤ 2 ^ 31 * 10 ^ 6 := by
  have magnitude := natAbs_toInt_le i.value
  rcases Nat.lt_or_ge p i.scale.val with fewer | enough
  · calc i.shifted p
        = i.value.toInt.natAbs / 10 ^ (i.scale.val - p) := Item.shifted_of_lt fewer
      _ ≤ i.value.toInt.natAbs := Nat.div_le_self ..
      _ ≤ 2 ^ 31 * 10 ^ 6 := by omega
  · have places : p - i.scale.val ≤ 6 := (Nat.sub_le ..).trans h
    calc i.shifted p
        = i.value.toInt.natAbs * 10 ^ (p - i.scale.val) := Item.shifted_of_ge enough
      _ ≤ 2 ^ 31 * 10 ^ 6 := Nat.mul_le_mul magnitude (Nat.pow_le_pow_right (by decide) places)

/-- Settles O40: the three cases are `Item.shifted_of_lt`, `Item.shifted_of_ge` and `Item.shifted_scale`, the bound is
`Item.shifted_le`, and the value that meets it and the worked value of R62 are computed. -/
theorem shiftedMagnitude : Obligations.ShiftedMagnitude := by
  refine ⟨fun i p => ?cases, fun i p => Item.shifted_le, by decide, by decide, by decide, by decide⟩
  case cases =>
    split_ifs with fewer more
    · exact Item.shifted_of_lt fewer
    · exact Item.shifted_of_ge more.le
    · obtain rfl : p = i.scale.val := by omega
      exact i.shifted_scale

end Sys2Proof.Machine

/-! The pen of a render: by staleness and the colour rule (R71), and of an absent item (R72). -/

namespace Sys2Proof.Machine

section
variable {st : Style} {tick : Tick}

/-! ### Stale: the column of R71 that no rule changes -/

@[simp] theorem selectPen_stale (i : Option Item) : selectPen st true tick i = st.stalePen := rfl

/-! ### Fresh: the three rows of R71, and an absent item (R72) -/

theorem selectPen_fresh_plain (rule : st.rule = .plain) (i : Option Item) :
    selectPen st false tick i = st.steadyPen := by
  simp [selectPen, rule]

theorem selectPen_fresh_sign (rule : st.rule = .sign) (v : Item) : selectPen st false tick (some v) =
    if 0 < v.value.toInt then st.upPen else if v.value.toInt < 0 then st.downPen else st.steadyPen := by
  simp [selectPen, rule]

theorem selectPen_fresh_tick (rule : st.rule = .tick) (v : Item) : selectPen st false tick (some v) =
    match tick with
    | .up => st.upPen
    | .down => st.downPen
    | .steady => st.steadyPen := by
  cases tick with
  | steady | up | down => simp [selectPen, rule]

/-- R72: of the three rules only SIGN and TICK read the item, and each sends an absent one to STEADY. -/
@[simp] theorem selectPen_fresh_absent : selectPen st false tick none = st.steadyPen := by
  cases rule : st.rule with
  | plain => exact selectPen_fresh_plain rule none
  | sign | tick => simp [selectPen, rule]

end

/-- Settles O42: the stale column is `selectPen_stale`, the fresh one is a lemma per colour rule, and an absent item is
`selectPen_fresh_absent` under every rule. -/
theorem penSelection : Obligations.PenSelection :=
  fun _ _ i => ⟨selectPen_stale i, fun plain => selectPen_fresh_plain plain i, selectPen_fresh_absent,
    fun v byTick => selectPen_fresh_tick byTick v,
    fun bySign => ⟨selectPen_fresh_absent, selectPen_fresh_sign bySign⟩⟩

end Sys2Proof.Machine

/-! When an overlay effectively covers a cell: the rectangle, then the case table by the overlay's state (R112). -/

namespace Sys2Proof.Machine

@[simp] theorem Overlay.inside_iff {o : Overlay} {row col : Nat} : o.inside row col = true ↔
    o.top ≤ row ∧ row < o.top + o.height ∧ o.left ≤ col ∧ col < o.left + o.width :=
  decide_eq_true_iff

/-! ### Outside the rectangle: no state covers -/

theorem Overlay.inside_of_covers {o : Overlay} {row col : Nat} (h : o.covers row col = true) :
    o.inside row col = true :=
  Bool.and_elim_left h

/-! ### Within the rectangle: a row of the case table for each state -/

section
variable {o : Overlay} {row col k : Nat}

theorem Overlay.covers_of_opened (state : o.state = .opened) : o.covers row col = o.inside row col := by
  simp [Overlay.covers, state]

theorem Overlay.covers_of_opening (state : o.state = .opening k) :
    o.covers row col = true ↔ o.inside row col = true ∧ row < o.top + k := by
  simp [Overlay.covers, state]

theorem Overlay.covers_of_closing (state : o.state = .closing k) :
    o.covers row col = true ↔ o.inside row col = true ∧ o.top + k ≤ row := by
  simp [Overlay.covers, state]

end

/-- Settles O53: outside the rectangle is `Overlay.inside_of_covers`; within it, each state has its row of the table. -/
theorem overlayCoversTable : Obligations.OverlayCoversTable := by
  intro o row col inside
  refine ⟨fun outside => ?outside, fun within state => ?opened, fun k within state => ?opening,
    fun k within state => ?closing⟩
  case outside =>
    exact Bool.eq_false_iff.mpr fun covers => outside (Overlay.inside_iff.mp (Overlay.inside_of_covers covers))
  case opened => rw [Overlay.covers_of_opened state, Overlay.inside_iff.mpr within]
  case opening => rw [Overlay.covers_of_opening state, and_iff_right (Overlay.inside_iff.mpr within)]
  case closing => rw [Overlay.covers_of_closing state, and_iff_right (Overlay.inside_iff.mpr within), Nat.not_lt]

end Sys2Proof.Machine

/-! Turning a ring on: what a change of ring state takes with it (R158, R166), and RING_ON (R156). -/

namespace Sys2Proof.Machine

open Sys2Proof.Statement

/-! ### A change of ring state -/

/-- A ring that moves to another state, in the terms the obligations use: FEED is sent, and what is sent to the Field
Unit and to the Control Unit depends on the two states alone (R158, R166). -/
theorem State.changeRing_of_ne {s : State} {r : RingId} {new : RingState} (moves : (s.rings.get r).state ≠ new) :
    s.changeRing r new = { s with
      rings := s.rings.set r { s.rings.get r with state := new }
      ports := feedSent s.ports r
      field := if (s.rings.get r).state = .on ∨ new = .on then
          { s.field with inbox := s.field.inbox ++ [.trigger] }
        else s.field
      control := if new = .off ∨ new = .halted then
          { s.control with ringReports := s.control.ringReports ++ [r] }
        else s.control } := by
  simp only [State.changeRing_eq, feedSent, withCause, ne_eq, moves, not_false_eq_true, and_true, true_and]

/-! ### RING_ON at the Ring Unit -/

/-- The Ring Unit that RING_ON makes of an OFF one; it looks at descriptor 0 at once when the device is running. -/
def RingUnit.turnedOn (u : RingUnit) (running : Bool) : RingUnit :=
  { u with index := 0, silenceCounter := 0, haltReason := .none, state := .on,
           phase := if running then .status else .idle }

theorem State.takeRingOn_of_ignored {s : State} {r : RingId}
    (ignored : (s.rings.get r).state ≠ .off ∨ s.control.device = .stopping) : s.takeRingOn r = s :=
  if_neg fun ⟨off, notStopping⟩ => ignored.elim (· off) notStopping

/-- The whole next state of RING_ON taken in OFF (R156): a clearing of the ring's index, counter and halt reason, a
change to ON, and, when the device is running, the entry to READY. -/
theorem State.takeRingOn_of_off {s : State} {r : RingId} (off : (s.rings.get r).state = .off)
    (notStopping : s.control.device ≠ .stopping) : s.takeRingOn r = { s with
      rings := s.rings.set r ((s.rings.get r).turnedOn s.running)
      ports := feedSent s.ports r
      field := { s.field with inbox := s.field.inbox ++ [.trigger] }
      memory := if s.running then
          asked s.memory (.ring r) ⟨.statusRead r, (s.rings.get r).base.toNat, 0, [], .requesting⟩
        else s.memory } := by
  have changed : (s.modRing r fun u =>
      { u with index := 0, silenceCounter := 0, haltReason := .none, phase := .idle }).changeRing r .on = { s with
        rings := s.rings.set r ((s.rings.get r).turnedOn false)
        ports := feedSent s.ports r
        field := { s.field with inbox := s.field.inbox ++ [.trigger] } } := by
    rw [State.changeRing_of_ne (by simp [State.modRing, off])]
    simp [State.modRing, RingUnit.turnedOn]
  rw [State.takeRingOn, if_pos ⟨off, notStopping⟩]
  dsimp only
  rw [changed]
  cases running : s.running with
  | false => exact if_neg (ne_true_of_eq_false running)
  | true =>
    refine (if_pos running).trans ?_
    simp [State.enterReady_eq, RingUnit.turnedOn, asked]

/-! ### RING_ON at the port -/

/-- A PORT_CONTROL write with RING_ON alone is RING_ON taken by the port's Ring Unit (R184). -/
theorem exec_ringOn_alone {p : Port} {v : Half} {s : State} (selected : s.selected p = some .portControl)
    (on : v.getLsbD 0 = true) (notOff : v.getLsbD 1 = false) (noKick : v.getLsbD 2 = false) :
    exec (.ringOn p v) s = .next (s.takeRingOn p) := by
  have written : s.portControlWrite p v = s.takeRingOn p := by
    simp only [State.portControlWrite, State.ringSwitch, on, notOff, noKick, Bool.false_eq_true, if_false]
  calc exec (.ringOn p v) s = execRingOn p v s := rfl
    _ = .next (s.portControlWrite p v) := if_pos ⟨selected, on⟩
    _ = .next (s.takeRingOn p) := by rw [written]

/-- Settles O10: RING_ON alone is `State.takeRingOn`, whose next state is `State.takeRingOn_of_off` in OFF and the same
state elsewhere. -/
theorem ringOnTurnsOffRingOn : Obligations.RingOnTurnsOffRingOn := by
  intro p v s selected on notOff noKick
  rw [Answers, exec_ringOn_alone selected on notOff noKick]
  refine ⟨fun off notStopping => ⟨_, rfl, ?_⟩, fun ignored => by rw [State.takeRingOn_of_ignored ignored]⟩
  rw [State.takeRingOn_of_off off notStopping]
  simp [State.running, RingUnit.turnedOn, Accompanied]

end Sys2Proof.Machine

/-! The Ring Units' operations with all they leave: the end of a status read, the taking of an outcome, the hand-back, a
memory fault and the silence work of a frame event (R150 to R155, R159, R162), and what the obligations say of them. -/

namespace Sys2Proof.Machine

open Sys2Proof.Statement

/-- A command that answers `t` answers whatever holds of `t`. -/
theorem answers_of {c : Instr} {s t : State} {P : State → Prop} (run : exec c s = .next t) (left : P t) :
    Answers c s P := ⟨t, run, left⟩

/-! ### Becoming OFF, and the end of a status read (R150, R157) -/

/-- A ring that becomes OFF, in one step with its phase. -/
theorem State.setPhase_changeRing_off {s : State} {r : RingId} (live : (s.rings.get r).state ≠ .off) (p : FetchPhase) :
    (s.setPhase r p).changeRing r .off = { s with
      rings := s.rings.set r { s.rings.get r with state := .off, phase := p }
      ports := feedSent s.ports r
      field := if (s.rings.get r).state = .on then { s.field with inbox := s.field.inbox ++ [.trigger] } else s.field
      control := { s.control with ringReports := s.control.ringReports ++ [r] } } := by
  rw [changeRing_of_ne (by simpa [setPhase] using live)]
  simp [setPhase, modRing]

/-- A returned item that is taken leaves the rest. -/
theorem State.dropInput_eq {s : State} {r : RingId} {i : RingInput} {rest : List RingInput}
    (front : (s.rings.get r).input = i :: rest) :
    s.dropInput r = { s with rings := s.rings.set r { s.rings.get r with input := rest } } := by
  simp [dropInput, modRing, front]

/-- Settles O24: a STOPPING ring becomes OFF by `State.setPhase_changeRing_off`; the two other cases change the unit and
send at most a request. -/
theorem statusReadEndByFlag : Obligations.StatusReadEndByFlag := by
  intro r s w rest front u
  have run : exec (.statusReadEnd r) s = .next ((s.dropInput r).takeStatusWord r w) := by
    simp [exec, execStatusReadEnd, front]
  simp only [Answers, run, State.dropInput_eq front, State.takeStatusWord]
  refine ⟨fun stopping => ⟨_, rfl, ?_⟩, fun notStopping owned => ⟨_, rfl, ?_⟩, fun notStopping free => ⟨_, rfl, ?_⟩⟩
  · have live : (s.rings.get r).state = .stopping := stopping
    simp only [PerRing.get_set_self, live, if_true]
    rw [State.setPhase_changeRing_off]
    · simp [u, Accompanied]
    · simp [live]
  · have live : (s.rings.get r).state ≠ .stopping := notStopping
    simp [live, ownedWord, owned, u, asked, State.modRing, State.sendMemory, RingUnit.descriptorAddress]
  · have live : (s.rings.get r).state ≠ .stopping := notStopping
    simp only [PerRing.get_set_self, live, ownedWord, free, if_false, Bool.false_eq_true]
    simp [u, State.setPhase, State.modRing]

/-! ### The hand-back (R155) -/

/-- The Ring Unit after steps 1 to 4 of a hand-back. -/
def RingUnit.handedBack (u : RingUnit) (r : RingId) : RingUnit :=
  { u with
    inFlight := .none, index := (u.index + 1) % u.length,
    silenceCounter := if isFeed r then 0 else u.silenceCounter,
    state := if isFeed r = true ∧ u.state = .silent then .on else u.state }

/-- The ports after a hand-back but for FEED: DONE when NOTIFY asks for it. -/
def RingUnit.doneSent (u : RingUnit) (ports : PerRing PortUnit) (r : RingId) : PerRing PortUnit :=
  if u.inFlight.word0.getLsbD 23 then withCause ports r .done else ports

theorem State.handBack_eq (s : State) (r : RingId) : s.handBack r =
    let u := s.rings.get r
    let returns : Prop := isFeed r = true ∧ u.state = .silent
    { s with
      rings := s.rings.set r (u.handedBack r)
      ports := if returns then withCause (u.doneSent s.ports r) .t .feed else u.doneSent s.ports r
      field := if returns then { s.field with inbox := s.field.inbox ++ [.trigger] } else s.field } := by
  unfold handBack
  cases feed : isFeed r <;> cases done : (s.rings.get r).inFlight.notify <;>
    by_cases silent : (s.rings.get r).state = .silent <;>
    simp_all [RingUnit.handedBack, RingUnit.doneSent, changeRing_eq, InFlight.notify, sendCause, modRing, modPort,
      withCause, RingUnit.length]

/-- Step 5 of a hand-back in the three cases of R155. -/
theorem State.fetchOn_fetches {s : State} {r : RingId} (fetches : (s.rings.get r).state.fetches = true)
    (running : s.control.device = .running) : s.fetchOn r = s.enterReady r := by
  simp [fetchOn, fetches, State.running, running]

theorem State.fetchOn_stopping {s : State} {r : RingId} (stopping : (s.rings.get r).state = .stopping) :
    s.fetchOn r = (s.setPhase r .idle).changeRing r .off := by
  simp [fetchOn, stopping, RingState.fetches]

theorem State.fetchOn_idle {s : State} {r : RingId} (notStopping : (s.rings.get r).state ≠ .stopping)
    (still : (s.rings.get r).state.fetches = false ∨ s.control.device ≠ .running) : s.fetchOn r = s.setPhase r .idle := by
  have off : ((s.rings.get r).state.fetches && s.running) = false := by
    rcases still with still | still
    · simp [still]
    · simp [State.running, still]
  simp [fetchOn, off, notStopping]

/-- Settles O27: the hand-back is `State.handBack_eq`, and its last step has a lemma for each of the three cases. -/
theorem handBack : Obligations.HandBack := by
  intro r s rest front u done index quiet
  have run : exec (.writeBackEnd r) s = .next (((s.dropInput r).handBack r).fetchOn r) := by
    simp [exec, execWriteBackEnd, front]
  simp only [Answers, run, State.dropInput_eq front, State.handBack_eq, PerRing.get_set_self, PerRing.set_set]
  have unit : u = s.rings.get r := rfl
  refine ⟨fun on running => ⟨_, rfl, ?_⟩, fun silent feed running => ⟨_, rfl, ?_⟩, fun stopping => ⟨_, rfl, ?_⟩,
    fun still => ⟨_, rfl, ?_⟩⟩
  · rw [State.fetchOn_fetches]
    · simp [State.enterReady_eq, RingUnit.handedBack, RingUnit.doneSent, ← unit, on, asked, statusReadOf, done, index,
        quiet, RingUnit.length]
    · simp [RingUnit.handedBack, ← unit, on, RingState.fetches]
    · exact running
  · rw [State.fetchOn_fetches]
    · simp [State.enterReady_eq, RingUnit.handedBack, RingUnit.doneSent, ← unit, silent, feed, asked, statusReadOf, done,
        index, RingUnit.length, Accompanied]
    · simp [RingUnit.handedBack, ← unit, silent, feed, RingState.fetches]
    · exact running
  · rw [State.fetchOn_stopping, State.setPhase_changeRing_off]
    · simp [RingUnit.handedBack, RingUnit.doneSent, ← unit, stopping, done, index, quiet, RingUnit.length, Accompanied]
    · simp [RingUnit.handedBack, ← unit, stopping]
    · simp [RingUnit.handedBack, ← unit, stopping]
  · have notSilent : u.state ≠ .silent := by rcases still with h | h | h <;> simp [h]
    rw [State.fetchOn_idle]
    · simp [RingUnit.handedBack, RingUnit.doneSent, ← unit, notSilent, done, index, quiet, RingUnit.length, State.setPhase,
        State.modRing]
    · rcases still with h | h | h <;> simp [RingUnit.handedBack, ← unit, h]
    · rcases still with h | h | h <;> simp [RingUnit.handedBack, ← unit, h, RingState.fetches]

/-! ### A memory fault (R162, R163) -/

theorem State.haltRing_eq {s : State} {r : RingId} (why : HaltReason) (live : (s.rings.get r).state ≠ .halted) :
    s.haltRing r why = { s with
      rings := s.rings.set r { s.rings.get r with inFlight := .none, haltReason := why, phase := .idle, state := .halted }
      ports := withCause (feedSent s.ports r) r .halt
      field := if (s.rings.get r).state = .on then { s.field with inbox := s.field.inbox ++ [.trigger] } else s.field
      control := { s.control with ringReports := s.control.ringReports ++ [r] } } := by
  unfold haltRing
  dsimp only
  rw [changeRing_of_ne (by simpa using live)]
  simp [modRing, sendCause, modPort, withCause]

/-- Settles O28: each of the two fault commands halts the ring, which is `State.haltRing_eq`. -/
theorem memoryFaultHaltsRing : Obligations.MemoryFaultHaltsRing := by
  intro r s rest front live u halted
  have notHalted : ((s.dropInput r).rings.get r).state ≠ .halted := by
    rw [State.dropInput_eq front]
    rcases live with h | h | h <;> simp [h]
  have left (why : HaltReason) : halted why ((s.dropInput r).haltRing r why) := by
    simp only [halted]
    rw [State.haltRing_eq why notHalted, State.dropInput_eq front]
    simp [u, Accompanied]
  refine ⟨fun phase => ⟨_, ?_, left .fetch⟩, fun phase => ⟨_, ?_, left .writeback⟩⟩
  · rcases phase with h | h <;> simp [exec, execRingFetchFault, front, show (s.rings.get r).phase = _ from h]
  · simp [exec, execWritebackFault, front, show (s.rings.get r).phase = _ from phase]

end Sys2Proof.Machine

/-! The bytes of a word and of the descriptor header (R169, R177), the end of a body read (R152), and the taking of an
outcome with its counter, its attention causes and its write-back (R154, R161). -/

namespace Sys2Proof.Machine

open Sys2Proof.Statement

/-! ### Bytes, halves and bits of a word -/

section
variable (b0 b1 b2 b3 : Nat)

@[simp] theorem byteOf_ofBytes_zero : byteOf (ofBytes b0 b1 b2 b3) 0 = b0 % 256 := by
  rw [byteOf, ofBytes_toNat]; omega

@[simp] theorem byteOf_ofBytes_one : byteOf (ofBytes b0 b1 b2 b3) 1 = b1 % 256 := by
  rw [byteOf, ofBytes_toNat]; omega

@[simp] theorem byteOf_ofBytes_two : byteOf (ofBytes b0 b1 b2 b3) 2 = b2 % 256 := by
  rw [byteOf, ofBytes_toNat]; omega

@[simp] theorem byteOf_ofBytes_three : byteOf (ofBytes b0 b1 b2 b3) 3 = b3 % 256 := by
  rw [byteOf, ofBytes_toNat]; omega

end

theorem byteOf_lt (w : Word) (k : Nat) : byteOf w k < 256 := Nat.mod_lt _ (by decide)

@[simp] theorem byteOf_mod (w : Word) (k : Nat) : byteOf w k % 256 = byteOf w k := Nat.mod_eq_of_lt (byteOf_lt w k)

theorem halfOf_eq_bytes (w : Word) {k : Nat} (h : k < 2) : halfOf w k = byteOf w (2 * k) + 256 * byteOf w (2 * k + 1) := by
  obtain rfl | rfl : k = 0 ∨ k = 1 := by omega
  all_goals simp only [halfOf, byteOf]; omega

theorem toNat_eq_bytes (w : Word) :
    w.toNat = byteOf w 0 + 256 * byteOf w 1 + 65536 * byteOf w 2 + 16777216 * byteOf w 3 := by
  have bound := w.isLt
  simp only [byteOf]; omega

/-- Bit `i` of a word as arithmetic. -/
theorem getLsbD_iff_toNat {n : Nat} (w : BitVec n) (i : Nat) : w.getLsbD i = true ↔ w.toNat / 2 ^ i % 2 = 1 := by
  rw [← BitVec.testBit_toNat, Nat.testBit_eq_decide_div_mod_eq, decide_eq_true_iff]

/-! ### The descriptor header (R177) -/

theorem Descriptor.notify_iff (d : Descriptor) : d.notify = true ↔ 128 ≤ d.byte 0 2 := by
  simp only [Descriptor.notify, getLsbD_iff_toNat, Descriptor.byte, Descriptor.word, List.getD_cons_zero, byteOf]
  omega

theorem Descriptor.sequence_toNat (d : Descriptor) :
    d.sequence.toNat = d.byte 2 0 + 256 * d.byte 2 1 + 65536 * d.byte 2 2 := by
  simp only [Descriptor.sequence, BitVec.toNat_setWidth, Descriptor.byte, byteOf]
  omega

/-! ### Passing a descriptor on (R152) -/

theorem kindLegal_iff {k : Nat} : kindLegal k = true ↔ (1 ≤ k ∧ k ≤ 3) ∨ (16 ≤ k ∧ k ≤ 29) := by
  simp [kindLegal]

/-- A descriptor reaches one of the three owner blocks and nothing else. -/
theorem State.passOn_frame (s : State) (r : RingId) (d : Descriptor) : s.passOn r d =
    { s with quote := (s.passOn r d).quote, field := (s.passOn r d).field, plane := (s.passOn r d).plane } := by
  unfold State.passOn
  split <;> rfl

theorem kindLegal_cases {k : Nat} (legal : kindLegal k = true) :
    ((k = 1 ∨ k = 2 ∨ k = 3) ∨ (k = 16 ∨ k = 17 ∨ k = 18)) ∨ (k = 19 ∨ k = 20 ∨ k = 21 ∨ k = 22 ∨ k = 23 ∨ k = 28) ∨
      (k = 24 ∨ k = 25 ∨ k = 26 ∨ k = 27 ∨ k = 29) := by
  have := kindLegal_iff.mp legal
  omega

/-- A descriptor of a legal kind reaches the block that owns the kind: the Quote Engine, the Field Unit or the Plane
Controller. -/
theorem State.passOn_delivered (s : State) (r : RingId) (d : Descriptor) (legal : kindLegal d.kind = true) :
    DeliveredTo s (s.passOn r d) r d := by
  unfold State.passOn
  rcases kindLegal_cases legal with (apply | instrument) | field | plane
  · rcases apply with kind | kind | kind <;> simp [DeliveredTo, kind, State.sendQuote]
  · rcases instrument with kind | kind | kind <;> simp [DeliveredTo, kind, State.sendQuote]
  · rcases field with kind | kind | kind | kind | kind | kind <;>
      simp [DeliveredTo, kind, State.sendField, State.sendFields]
  · rcases plane with kind | kind | kind | kind | kind <;> simp [DeliveredTo, kind, State.sendPlanes]

/-! ### The taking of an outcome (R154, R161) -/

theorem RingUnit.counter_setCounter (u : RingUnit) (c d : Counter) (v : Half) :
    (u.setCounter c v).counter d = if d = c then v else u.counter d := by
  cases c <;> cases d <;> rfl

@[simp] theorem RingUnit.counter_withPhase (u : RingUnit) (p : FetchPhase) (c : Counter) :
    ({ u with phase := p } : RingUnit).counter c = u.counter c := by
  cases c <;> rfl

@[simp] theorem RingUnit.counter_withInput (u : RingUnit) (l : List RingInput) (c : Counter) :
    ({ u with input := l } : RingUnit).counter c = u.counter c := by
  cases c <;> rfl

/-- A counter that is written is all that changes. -/
theorem RingUnit.setCounter_frame (u : RingUnit) (c : Counter) (v : Half) : u.setCounter c v =
    { u with
      applied := (u.setCounter c v).applied, duplicate := (u.setCounter c v).duplicate,
      stale := (u.setCounter c v).stale, rejected := (u.setCounter c v).rejected } := by
  cases c <;> rfl

theorem State.outcomeAttention_eq (s : State) (r : RingId) (st : Status) : s.outcomeAttention r st = { s with
    ports := if st.counter = .rejected then withCause s.ports r .reject
      else if st = .appliedGap then
        (if r = .t then withCause s.ports .t .gap else withCause (withCause s.ports r .gap) .t .gap)
      else s.ports } := by
  unfold State.outcomeAttention
  by_cases gap : st = .appliedGap
  · subst gap
    cases r <;> simp [Status.counter, isFeed, State.sendCause, State.modPort, withCause]
  · by_cases rejected : st.counter = .rejected <;>
      simp [gap, rejected, State.sendCause, State.modPort, withCause]

/-- The taking of an outcome with all it leaves. -/
theorem State.takeOutcome_eq (s : State) (r : RingId) (st : Status) (w : Word) : s.takeOutcome r st w = { s with
    rings := s.rings.set r { (s.rings.get r).count st with phase := .handBack }
    ports := (s.outcomeAttention r st).ports
    memory := asked s.memory (.ring r)
      ⟨.writeBack r, (s.rings.get r).base.toNat + 64 * (s.rings.get r).index + 12, 0,
        [w, backWord (s.rings.get r).inFlight.word0 st], .requesting⟩ } := by
  simp [State.takeOutcome, State.outcomeAttention_eq, State.modRing, State.sendMemory, asked, RingUnit.descriptorAddress]

/-! ### The codes of the statuses (11.1) -/

theorem Status.code_lt (st : Status) : st.code < 128 := by
  cases st <;> decide

theorem Status.counter_iff (st : Status) :
    (st.counter = .applied ↔ st = .applied ∨ st = .appliedGap ∨ st = .done) ∧
    (st.counter = .duplicate ↔ st = .duplicate) ∧ (st.counter = .stale ↔ st = .stale) ∧
    (st.counter = .rejected ↔ 5 ≤ st.code ∧ st ≠ .done) := by
  cases st <;> decide

theorem byteOf_backWord (w0 : Word) (st : Status) {k : Nat} (h : k < 4) :
    byteOf (backWord w0 st) k = if k = 0 then st.code else byteOf w0 k := by
  have small := st.code_lt
  obtain rfl | rfl | rfl | rfl : k = 0 ∨ k = 1 ∨ k = 2 ∨ k = 3 := by omega
  · rw [backWord, byteOf_ofBytes_zero]; exact Nat.mod_eq_of_lt (by omega)
  all_goals simp [backWord]

/-- The ownership flag of a word by its status byte. -/
theorem getLsbD_seven (w : Word) : w.getLsbD 7 = true ↔ 128 ≤ byteOf w 0 := by
  rw [getLsbD_iff_toNat, byteOf]; omega

theorem backWord_notOwned (w0 : Word) (st : Status) : (backWord w0 st).getLsbD 7 = false := by
  have small := st.code_lt
  have status : byteOf (backWord w0 st) 0 = st.code := byteOf_backWord w0 st (by decide)
  rw [← Bool.not_eq_true, getLsbD_seven]
  omega

/-- Settles O26: the taking is `State.takeOutcome_eq` with `RingUnit.counter_setCounter`, the write-back word is
`byteOf_backWord`, and the codes are evaluated. -/
theorem outcomeTakenCountsAndWritesBack : Obligations.OutcomeTakenCountsAndWritesBack := by
  refine ⟨fun r s st w rest front => answers_of
    (t := (s.dropInput r).takeOutcome r st w) ?run ?_, fun w0 st => ⟨?_, backWord_notOwned w0 st, ?_⟩, rfl,
    Status.counter_iff⟩
  case run => simp only [exec, execOutcomeTaken, front]
  · rw [State.takeOutcome_eq, State.outcomeAttention_eq, State.dropInput_eq front]
    simp only [PerRing.get_set_self, PerRing.set_set, RingUnit.counter_withInput, true_and, RingUnit.count]
    refine ⟨?_, fun c => ?_⟩
    · rw [RingUnit.setCounter_frame]
    · refine (RingUnit.counter_withPhase _ _ _).trans ((RingUnit.counter_setCounter _ _ _ _).trans ?_)
      split_ifs with same
      · rw [same, RingUnit.counter_withInput]
      · exact RingUnit.counter_withInput _ _ _
  · exact byteOf_backWord w0 st (by decide)
  · intro k least most
    rw [byteOf_backWord w0 st (by omega), if_neg (by omega)]

/-! ### The end of a body read (R152) -/

/-- Settles O25: a refused kind is taken as an outcome, `State.takeOutcome_eq`; any other is delivered by
`State.passOn_delivered`; the header is read off the bytes of its words. -/
theorem bodyReadEndChecksKind : Obligations.BodyReadEndChecksKind := by
  refine ⟨?_, fun d => ⟨rfl, fun _ => rfl, ?_, ?_, rfl, rfl, d.notify_iff, rfl,
    rfl, toNat_eq_bytes _, d.sequence_toNat, rfl⟩⟩
  · intro r s ws rest front u d legal refused
    have run : exec (.bodyReadEnd r) s = .next ((s.dropInput r).takeBody r ws) := by
      simp only [exec, execBodyReadEnd, front]
    have unit : s.rings.get r = u := rfl
    have reading : (⟨u.inFlight.word0, ws⟩ : Descriptor) = d := rfl
    have illegal : kindLegal d.kind = false ↔ ¬legal := by rw [← Bool.not_eq_true, kindLegal_iff]
    have refusal (st : Status) (rejected : st.counter = .rejected) :
        refused st (({ s with rings := s.rings.set r { u with input := rest, inFlight := .fetched d } } : State).takeOutcome
          r st 0) := by
      rw [State.takeOutcome_eq, State.outcomeAttention_eq]
      simp [refused, rejected, RingUnit.count, RingUnit.setCounter, RingUnit.counter, InFlight.word0]
    simp only [Answers, run, State.takeBody, State.dropInput_eq front, State.modRing, PerRing.get_set_self, PerRing.set_set,
      unit, reading]
    refine ⟨fun bad => ⟨_, rfl, ?_⟩, fun good command feed => ⟨_, rfl, ?_⟩, fun good reaches => ⟨_, rfl, ?_⟩⟩
    · rw [illegal.mpr bad]
      exact refusal .badForm rfl
    · rw [kindLegal_iff.mpr good, if_neg (by decide), if_pos ⟨command, feed⟩]
      exact refusal .wrongPort rfl
    · have owned : ¬(16 ≤ d.kind ∧ isFeed r = true) := by
        rintro ⟨command, feed⟩
        rcases reaches with quote | rfl
        · omega
        · exact absurd feed (by decide)
      rw [kindLegal_iff.mpr good, if_neg (by decide), if_neg owned]
      have delivered := State.passOn_delivered (({ s with
        rings := s.rings.set r { u with input := rest, inFlight := .fetched d } } : State).setPhase r .owner) r d
        (kindLegal_iff.mpr good)
      refine ⟨?_, delivered⟩
      rw [State.passOn_frame]
      simp [State.setPhase, State.modRing]
  · intro w k _
    exact byteOf_eq_toNat_extractLsb' _ _
  · intro w k h
    exact halfOf_eq_bytes _ h

end Sys2Proof.Machine

/-! A frame event at a Ring Unit: it counts silence, and a WAITING ring looks again (R151, R159). -/

namespace Sys2Proof.Machine

open Sys2Proof.Statement

/-! ### The silence work -/

theorem State.countsSilence_iff {s : State} {r : RingId} :
    s.countsSilence r = true ↔ r ≠ .t ∧ s.control.device = .running ∧ (s.rings.get r).state = .on := by
  cases r <;> simp [countsSilence, isFeed, running]

theorem State.reachesSilence_iff {s : State} {r : RingId} : s.reachesSilence r = true ↔ s.countsSilence r = true ∧
    (s.rings.get r).silenceLimit ≠ 0 ∧ 16 * (s.rings.get r).silenceLimit ≤ (s.rings.get r).silenceNext := by
  simp [reachesSilence, and_assoc]

/-- The silence counter that a frame event leaves. -/
def State.silenceAfter (s : State) (r : RingId) : Nat :=
  if s.countsSilence r then (s.rings.get r).silenceNext else (s.rings.get r).silenceCounter

/-- A frame event that does not bring the ring to its limit changes the counter alone. -/
theorem State.silenceFrame_below {s : State} {r : RingId} (below : s.reachesSilence r = false) :
    s.silenceFrame r = { s with
      rings := s.rings.set r { s.rings.get r with silenceCounter := s.silenceAfter r } } := by
  unfold silenceFrame silenceAfter
  dsimp only
  rw [if_neg (ne_true_of_eq_false below)]
  split_ifs
  · rfl
  · exact congrArg (fun rings => { s with rings }) (PerRing.set_get s.rings r).symm

/-- The frame event that brings the ring to its limit makes it SILENT. -/
theorem State.silenceFrame_reached {s : State} {r : RingId} (reached : s.reachesSilence r = true) :
    s.silenceFrame r = { s with
      rings := s.rings.set r { s.rings.get r with silenceCounter := (s.rings.get r).silenceNext, state := .silent }
      ports := withCause (withCause s.ports .t .feed) r .silent
      field := { s.field with inbox := s.field.inbox ++ [.trigger] } } := by
  have counts := (reachesSilence_iff.mp reached).1
  obtain ⟨feed, _, on⟩ := countsSilence_iff.mp counts
  have isFeed : isFeed r = true := by
    cases r with
    | a | b => rfl
    | t => exact absurd rfl feed
  simp [silenceFrame, reached, counts, changeRing_eq, modRing, on, isFeed, sendCause, modPort, withCause]

/-! ### The frame event -/

/-- The state in which a Ring Unit has taken the frame event at its front. -/
def State.frameTaken (s : State) (r : RingId) : State :=
  s.modRing r fun u => { u with frames := u.frames.tail }

@[simp] theorem State.frameTaken_countsSilence (s : State) (r : RingId) :
    (s.frameTaken r).countsSilence r = s.countsSilence r := by
  rw [Bool.eq_iff_iff, countsSilence_iff, countsSilence_iff]
  simp [frameTaken]

@[simp] theorem State.frameTaken_reachesSilence (s : State) (r : RingId) :
    (s.frameTaken r).reachesSilence r = s.reachesSilence r := by
  rw [Bool.eq_iff_iff, reachesSilence_iff, reachesSilence_iff, frameTaken_countsSilence]
  simp [frameTaken, RingUnit.silenceNext]

theorem exec_ringFrameEvent {s : State} {r : RingId} {n : Half} {rest : List Half}
    (front : (s.rings.get r).frames = n :: rest) :
    exec (.ringFrameEvent r) s = .next (((s.frameTaken r).silenceFrame r).lookAgain r) := by
  simp only [exec, execRingFrameEvent, front]; rfl

/-- SILENT is the frame event in the case that it brings the ring to its limit (log entry 9). -/
theorem exec_silent_reached {s : State} {r : RingId} (reached : s.reachesSilence r = true) :
    exec (.silent r) s = exec (.ringFrameEvent r) s := by
  simp only [exec, execSilent, execRingFrameEvent, reached, if_true]

/-- Settles O29: below the limit the frame event is `State.silenceFrame_below` and at it `State.silenceFrame_reached`; what
follows is the looking again. -/
theorem frameEventAtRingAndSilence : Obligations.FrameEventAtRingAndSilence := by
  refine ⟨?below, ?reached⟩
  case below =>
    intro r s n rest front u counts c counted uncounted notReached v
    have counter : c = s.silenceAfter r := by
      unfold State.silenceAfter
      split_ifs with h
      · exact counted (State.countsSilence_iff.mp h)
      · exact uncounted fun h' => h (State.countsSilence_iff.mpr h')
    have below : s.reachesSilence r = false := by
      rw [← Bool.not_eq_true, State.reachesSilence_iff]
      rintro ⟨h, limit, reach⟩
      refine notReached ⟨State.countsSilence_iff.mp h, limit, ?_⟩
      rwa [counter, State.silenceAfter, if_pos h]
    have framed : (s.frameTaken r).silenceFrame r = { s with rings := s.rings.set r v } := by
      have after : (s.frameTaken r).silenceAfter r = c := by
        rw [counter, State.silenceAfter, State.silenceAfter, State.frameTaken_countsSilence]
        simp [State.frameTaken, RingUnit.silenceNext]
      rw [State.silenceFrame_below (by simpa using below), after]
      simp [State.frameTaken, front, v, u]
    have run := exec_ringFrameEvent front
    rw [framed, State.lookAgain_eq] at run
    refine ⟨fun waiting live => answers_of run ?_, fun rests => answers_of run ?_⟩
    · simp [v, waiting, live, State.enterReady_eq, asked, statusReadOf]
    · simp [v, rests]
  case reached =>
    intro r s n rest front feed running on limit u c reach
    have reached : s.reachesSilence r = true :=
      State.reachesSilence_iff.mpr ⟨State.countsSilence_iff.mpr ⟨feed, running, on⟩, limit, reach⟩
    refine ⟨exec_silent_reached reached, answers_of ((exec_silent_reached reached).trans (exec_ringFrameEvent front)) ?_⟩
    rw [State.silenceFrame_reached (by simpa using reached), State.lookAgain_eq]
    have next : (s.rings.get r).silenceNext = c := rfl
    by_cases waiting : u.phase = .waiting
    · have waits : (s.rings.get r).phase = .waiting := waiting
      simp [State.frameTaken, front, waits, State.enterReady_eq, asked, statusReadOf, u, RingUnit.silenceNext, c]
    · have waits : (s.rings.get r).phase ≠ .waiting := waiting
      simp [State.frameTaken, front, waits, u, RingUnit.silenceNext, c]

end Sys2Proof.Machine

/-! The parts of the machine, what a command leaves of each of them, and which parts a command may write. The device's
table, the owners of the stores and the invariant of form are all read off this one account of the commands. -/

namespace Sys2Proof.Machine

/-! ### The parts and their share of the invariant -/

/-- The parts of the machine that a command may write: the instrument table with its heads; the plane's cells, save area,
stack and geometry; palette, glyph height and shown flag; the glyph store; the pens; the cursor; the START under way with
the device state; the Ring Units; the field table with its occupancy map; the sweep; the highlights; the blink counter. -/
inductive Part where
  | instruments | board | picture | glyphs | pens | cursor | start | rings | fields | sweep | highlights | blink

/-- What the invariant says of a part. -/
def Part.Ok : Part → State → Prop
  | .instruments, s => Tab.WF slotSpec s.quote.slots ∧ Tab.WF headSpec s.quote.heads
  | .board, s => Tab.WF cellSpec s.plane.cells ∧ Tab.WF saveSpec s.plane.save ∧ s.plane.StackOk ∧
      ∀ g, s.plane.geometry = some g → g.Legal
  | .glyphs, s => Tab.WF glyphSpec s.video.glyphs
  | .start, s => (s.control.stage ≠ .idle ∨ s.video.glyphWrite ≠ none → s.control.device = .loading) ∧
      (s.fontUnderWay = true → setupFailure s.control.block = none)
  | .rings, s => ∀ r, (s.rings.get r).Ok
  | .fields, s => Tab.WF fieldSpec s.field.records ∧ Tab.WF occSpec s.field.occupancy
  | .sweep, s => s.control.device ≠ .running → s.field.sweep.active = false
  | .highlights, s => s.control.device ≠ .running →
      s.highlight.queue = [] ∧ ∀ q ∈ s.highlight.requests, q.isArm = false
  | .blink, s => s.video.shown = true → s.video.blinkCounter < s.video.blinkHalf ∧ 2 ≤ s.video.blinkHalf
  | .picture, _ | .pens, _ | .cursor, _ => True

/-- The invariant, part by part. -/
theorem State.inv_iff {s : State} : s.Inv ↔ ∀ p : Part, p.Ok s := by
  constructor
  · intro inv p
    have stores := inv.stores
    cases p with
    | instruments => exact ⟨stores.slots, stores.heads⟩
    | board => exact ⟨stores.cells, stores.save, inv.overlays, inv.geometry⟩
    | glyphs => exact stores.glyphs
    | start => exact ⟨inv.loading, inv.checked⟩
    | rings => exact fun r => match r with
        | .a => inv.ringA
        | .b => inv.ringB
        | .t => inv.ringT
    | fields => exact ⟨stores.records, stores.occupancy⟩
    | sweep => exact inv.sweep
    | highlights => exact inv.highlight
    | blink => exact inv.blink
    | picture | pens | cursor => trivial
  · intro ok
    obtain ⟨slots, heads⟩ := ok .instruments
    obtain ⟨cells, save, overlays, geometry⟩ := ok .board
    obtain ⟨loading, checked⟩ := ok .start
    obtain ⟨records, occupancy⟩ := ok .fields
    exact ⟨⟨slots, heads, records, occupancy, cells, save, ok .glyphs⟩, ok .rings .a, ok .rings .b, ok .rings .t, overlays,
      geometry, ok .highlights, ok .sweep, loading, checked, ok .blink⟩

/-! ### What is left of a part -/

/-- A part left as it was. A part that the Ring Units, the Field Unit, the Highlight Timer or the frame write all the time
is left within its share of the invariant. -/
def Part.Kept : Part → State → State → Prop
  | .instruments, s, t => t.quote.slots = s.quote.slots ∧ t.quote.heads = s.quote.heads
  | .board, s, t => t.plane.cells = s.plane.cells ∧ t.plane.save = s.plane.save ∧ t.plane.stack = s.plane.stack ∧
      t.plane.geometry = s.plane.geometry
  | .picture, s, t => t.video.palette = s.video.palette ∧ t.video.glyphHeight = s.video.glyphHeight ∧
      t.video.shown = s.video.shown
  | .glyphs, s, t => t.video.glyphs = s.video.glyphs
  | .pens, s, t => t.video.pens = s.video.pens
  | .cursor, s, t => t.video.cursor = s.video.cursor
  | .start, s, t => t.control.device = s.control.device ∧ t.control.stage = s.control.stage ∧
      t.control.block = s.control.block ∧ t.video.glyphWrite = s.video.glyphWrite
  | .rings, s, t => Part.Ok .rings s → Part.Ok .rings t
  | .fields, s, t => Part.Ok .fields s → Part.Ok .fields t
  | .sweep, s, t => Part.Ok .sweep s → Part.Ok .sweep t
  | .highlights, s, t => Part.Ok .highlights s → Part.Ok .highlights t
  | .blink, s, t => Part.Ok .blink s → Part.Ok .blink t

theorem Part.Kept.refl (p : Part) (s : State) : p.Kept s s := by
  cases p <;> simp [Part.Kept]

theorem Part.Kept.trans {p : Part} {s t u : State} (h : p.Kept s t) (g : p.Kept t u) : p.Kept s u := by
  cases p with
  | rings | fields | sweep | highlights | blink => exact fun ok => g (h ok)
  | _ => simp only [Part.Kept] at h g ⊢; simp only [g, h, and_self]

theorem PlaneController.StackOk.congr {p q : PlaneController} (h : p.StackOk) (stack : q.stack = p.stack)
    (geometry : q.geometry = p.geometry) : q.StackOk := by
  have use : q.inUse = p.inUse := by simp only [PlaneController.inUse, PlaneController.topOverlay, stack]
  refine ⟨stack ▸ h.depth, stack ▸ h.regions, use ▸ h.room, fun o ho => ?_⟩
  have holds := h.rectangles o (stack ▸ ho)
  simpa only [PlaneController.Holds, PlaneController.rows, PlaneController.columns, geometry] using holds

theorem Part.Kept.ok {p : Part} {s t : State} (h : p.Kept s t) (ok : p.Ok s) : p.Ok t := by
  cases p with
  | rings | fields | sweep | highlights | blink => exact h ok
  | picture | pens | cursor => trivial
  | instruments => exact ⟨h.1 ▸ ok.1, h.2 ▸ ok.2⟩
  | board =>
    obtain ⟨cells, save, stack, geometry⟩ := h
    obtain ⟨wfCells, wfSave, stackOk, legal⟩ := ok
    exact ⟨cells ▸ wfCells, save ▸ wfSave, stackOk.congr stack geometry, geometry ▸ legal⟩
  | glyphs =>
    have same : t.video.glyphs = s.video.glyphs := h
    simpa only [Part.Ok, same] using ok
  | start =>
    obtain ⟨device, stage, block, glyphWrite⟩ := h
    simpa only [Part.Ok, State.fontUnderWay, device, stage, block, glyphWrite] using ok

/-- From `s` to `t` the queue of commands stays, and every part that is not among `written` is kept. -/
structure State.Keeps (written : List Part) (s t : State) : Prop where
  queue : t.pending = s.pending
  parts : ∀ p, p ∉ written → p.Kept s t

namespace State.Keeps

variable {w : List Part} {s t u : State}

theorem refl (w : List Part) (s : State) : Keeps w s s := ⟨rfl, fun p _ => .refl p s⟩

theorem trans (h : Keeps w s t) (g : Keeps w t u) : Keeps w s u :=
  ⟨g.queue.trans h.queue, fun p hp => (h.parts p hp).trans (g.parts p hp)⟩

/-- What writes no part writes none beside those of any list. -/
theorem widen (h : Keeps [] s t) : Keeps w s t := ⟨h.queue, fun p _ => h.parts p (List.not_mem_nil)⟩

/-- A part that is written and in the end kept need not be counted among those written. -/
theorem narrow {v : List Part} (h : Keeps w s t) (more : ∀ p ∈ w, p ∉ v → p.Kept s t) : Keeps v s t := by
  classical
  exact ⟨h.queue, fun p hp => if q : p ∈ w then more p q hp else h.parts p q⟩

/-- What holds of both outcomes of a choice holds of the choice. -/
theorem ite {c : Prop} [Decidable c] (g : Keeps w s u) (h : Keeps w s t) : Keeps w s (if c then t else u) := by
  split
  · exact h
  · exact g

/-- The invariant after a command: only the parts it writes are left to show. -/
theorem inv (h : Keeps w s t) (inv : s.Inv) (written : ∀ p ∈ w, p.Ok t) : t.Inv := by
  classical
  refine State.inv_iff.mpr fun p => ?_
  by_cases hp : p ∈ w
  · exact written p hp
  · exact (h.parts p hp).ok (State.inv_iff.mp inv p)

end State.Keeps

/-! ### Changes outside the parts -/

/-- Everything that the parts but the Ring Units are read from. -/
structure View where
  pending : List Instr
  slots : Tab Slot
  heads : Tab (Option Nat)
  cells : Tab CellValue
  save : Tab CellValue
  stack : List Overlay
  geometry : Option Geometry
  glyphs : Tab Glyph
  palette : Vector Colour 16
  pens : Vector Pen 32
  glyphHeight : Option Nat
  cursor : Cursor
  shown : Bool
  blink : Nat × Nat
  glyphWrite : Option GlyphWrite
  device : DeviceState
  stage : LoaderStage
  block : List Word
  records : Tab FieldRec
  occupancy : Tab (Option Nat)
  sweeping : Bool
  entries : List HighlightEntry
  requests : List HighlightRequest

/-- The view of a state. -/
def State.view (s : State) : View where
  pending := s.pending
  slots := s.quote.slots
  heads := s.quote.heads
  cells := s.plane.cells
  save := s.plane.save
  stack := s.plane.stack
  geometry := s.plane.geometry
  glyphs := s.video.glyphs
  palette := s.video.palette
  pens := s.video.pens
  glyphHeight := s.video.glyphHeight
  cursor := s.video.cursor
  shown := s.video.shown
  blink := (s.video.blinkCounter, s.video.blinkHalf)
  glyphWrite := s.video.glyphWrite
  device := s.control.device
  stage := s.control.stage
  block := s.control.block
  records := s.field.records
  occupancy := s.field.occupancy
  sweeping := s.field.sweep.active
  entries := s.highlight.queue
  requests := s.highlight.requests

/-- A change that the view does not show, and that keeps the Ring Units within their bounds, writes no part. -/
theorem State.Keeps.of_view {s t : State} (same : t.view = s.view) (rings : Part.Kept .rings s t) : State.Keeps [] s t := by
  simp only [State.view, View.mk.injEq, Prod.mk.injEq] at same
  obtain ⟨pending, slots, heads, cells, save, stack, geometry, glyphs, palette, pens, glyphHeight, cursor, shown,
    ⟨counter, half⟩, glyphWrite, device, stage, block, records, occupancy, sweeping, entries, requests⟩ := same
  refine ⟨pending, fun p _ => ?_⟩
  cases p with
  | rings => exact rings
  | _ => simp only [Part.Kept, Part.Ok, *, and_self, imp_self]

theorem State.Keeps.of_same {s t : State} (same : t.view = s.view) (rings : t.rings = s.rings) : State.Keeps [] s t :=
  .of_view same fun ok => by simpa only [Part.Ok, rings] using ok

end Sys2Proof.Machine

/-! What the shared operations leave of the parts: the messages, the Ring Units, the Memory Master and the ports. -/

namespace Sys2Proof.Machine

open State (Keeps)

/-! ### Messages and Ring Units -/

namespace State

variable (s : State)

theorem keeps_sendCause (p : Port) (c : Cause) : Keeps [] s (s.sendCause p c) := .of_same rfl rfl

theorem keeps_modPort (p : Port) (f : PortUnit → PortUnit) : Keeps [] s (s.modPort p f) := .of_same rfl rfl

theorem keeps_sendQuote (q : QuoteRequest) : Keeps [] s (s.sendQuote q) := .of_same rfl rfl

theorem keeps_sendFields (qs : List FieldRequest) : Keeps [] s (s.sendFields qs) := .of_same rfl rfl

theorem keeps_sendField (q : FieldRequest) : Keeps [] s (s.sendField q) := .of_same rfl rfl

theorem keeps_sendPlanes (qs : List PlaneRequest) : Keeps [] s (s.sendPlanes qs) := .of_same rfl rfl

theorem keeps_sendMemory (q : Requester) (tx : Transaction) : Keeps [] s (s.sendMemory q tx) := .of_same rfl rfl

/-- A change of one Ring Unit that keeps it within its bounds. -/
theorem keeps_modRing {r : RingId} {f : RingUnit → RingUnit} (bounds : (s.rings.get r).Ok → (f (s.rings.get r)).Ok) :
    Keeps [] s (s.modRing r f) :=
  .of_view rfl fun ok q => by
    simp only [modRing_rings, PerRing.get_set]
    split
    · exact bounds (ok r)
    · exact ok q

theorem keeps_sendRing (r : RingId) (i : RingInput) : Keeps [] s (s.sendRing r i) :=
  s.keeps_modRing fun ok => ⟨ok.base, ok.phase, ok.index, ok.silence⟩

theorem keeps_completeCommand (st : Status) (w : Word) : Keeps [] s (s.completeCommand st w) := s.keeps_sendRing _ _

theorem keeps_dropInput (r : RingId) : Keeps [] s (s.dropInput r) :=
  s.keeps_modRing fun ok => ⟨ok.base, ok.phase, ok.index, ok.silence⟩

theorem keeps_setPhase (r : RingId) {p : FetchPhase} (notReady : p ≠ .ready) : Keeps [] s (s.setPhase r p) :=
  s.keeps_modRing fun ok => ⟨ok.base, notReady, ok.index, ok.silence⟩

theorem keeps_enterReady (r : RingId) : Keeps [] s (s.enterReady r) :=
  (s.keeps_setPhase r (p := .status) (by decide)).trans (keeps_sendMemory _ _ _)

end State

/-- Is a ring in this state within its descriptors, so that its index has to be one of them? -/
def RingState.live (st : RingState) : Prop := st = .on ∨ st = .silent ∨ st = .stopping

theorem RingUnit.Ok.withState {u : RingUnit} (ok : u.Ok) {new : RingState} (index : new.live → u.index < u.length) :
    ({ u with state := new } : RingUnit).Ok := ⟨ok.base, ok.phase, index, ok.silence⟩

namespace State

variable (s : State)

/-- A change of ring state, to a state in which the index is within the ring. -/
theorem keeps_changeRing {r : RingId} {new : RingState}
    (index : (s.rings.get r).Ok → new.live → (s.rings.get r).index < (s.rings.get r).length) :
    Keeps [] s (s.changeRing r new) := by
  have unit : Keeps [] s (s.modRing r fun u => { u with state := new }) :=
    s.keeps_modRing fun ok => ok.withState (index ok)
  refine unit.trans (.of_same ?_ ?_)
  · rw [changeRing_eq]
    simp only [view, modRing]
    split_ifs <;> rfl
  · rw [changeRing_eq]; rfl

/-- A ring that leaves its descriptors. -/
theorem keeps_changeRing_off (r : RingId) : Keeps [] s (s.changeRing r .off) :=
  s.keeps_changeRing fun _ live => by simp [RingState.live] at live

theorem keeps_lookAgain (r : RingId) : Keeps [] s (s.lookAgain r) := by
  rw [lookAgain_eq]
  split
  · exact s.keeps_enterReady r
  · exact .refl _ s

theorem length_pos (u : RingUnit) : 0 < u.length := by
  unfold RingUnit.length; positivity

theorem keeps_takeRingOn (r : RingId) : Keeps [] s (s.takeRingOn r) := by
  by_cases ignored : (s.rings.get r).state ≠ .off ∨ s.control.device = .stopping
  · rw [takeRingOn_of_ignored ignored]; exact .refl _ s
  · obtain ⟨off, notStopping⟩ := not_or.mp ignored
    rw [takeRingOn_of_off (not_not.mp off) notStopping]
    refine (s.keeps_modRing (r := r) (f := fun u => u.turnedOn s.running) fun ok =>
      ⟨ok.base, ?_, fun _ => length_pos _, Nat.zero_le _⟩).trans (.of_same rfl rfl)
    simp only [RingUnit.turnedOn]
    split <;> decide

theorem keeps_takeRingOff (r : RingId) : Keeps [] s (s.takeRingOff r) := by
  unfold takeRingOff
  dsimp only
  have halts : ∀ u : State, Keeps [] u (u.changeRing r .off) := fun u => u.keeps_changeRing_off r
  have stops (live : (s.rings.get r).state.live) : Keeps [] s (s.changeRing r .stopping) :=
    s.keeps_changeRing fun ok _ => ok.index live
  have goesOff : Keeps [] s ((s.setPhase r .idle).changeRing r .off) :=
    (s.keeps_setPhase r (by decide)).trans (halts _)
  split
  · exact .refl _ s
  · exact .refl _ s
  · exact halts s
  · next on =>
      have stopped := stops (.inl on)
      split <;> assumption
  · next silent =>
      have stopped := stops (.inr (.inl silent))
      split <;> assumption

theorem keeps_ringSwitch (r : RingId) (on off : Bool) : Keeps [] s (s.ringSwitch r on off) := by
  unfold ringSwitch
  split
  · exact s.keeps_takeRingOn r
  · exact s.keeps_takeRingOff r
  · exact .refl _ s
  · exact .refl _ s

theorem keeps_useFree : Keeps [] s s.useFree := .of_same rfl rfl

theorem keeps_portControlWrite (r : RingId) (v : Half) : Keeps [] s (s.portControlWrite r v) := by
  unfold portControlWrite
  dsimp only
  split
  · split
    · exact s.keeps_lookAgain r
    · split
      · exact (s.keeps_useFree.trans (keeps_lookAgain _ r)).trans (keeps_ringSwitch _ _ _ _)
      · exact (s.keeps_useFree.trans (keeps_ringSwitch _ _ _ _)).trans (keeps_lookAgain _ r)
  · exact s.keeps_ringSwitch _ _ _

theorem keeps_inOff (r : RingId) {f : RingUnit → RingUnit}
    (bounds : (s.rings.get r).state = .off → (s.rings.get r).Ok → (f (s.rings.get r)).Ok) : Keeps [] s (s.inOff r f) := by
  unfold inOff
  split
  · next off => exact s.keeps_modRing (bounds off)
  · exact .refl _ s

/-! ### Fetching and handing back -/

theorem keeps_takeStatusWord (r : RingId) (w : Word) : Keeps [] s (s.takeStatusWord r w) := by
  unfold takeStatusWord
  dsimp only
  split
  · exact (s.keeps_setPhase r (by decide)).trans (keeps_changeRing_off _ r)
  · split
    · exact (s.keeps_modRing fun ok => ⟨ok.base, FetchPhase.noConfusion, ok.index, ok.silence⟩).trans (keeps_sendMemory _ _ _)
    · exact s.keeps_setPhase r (by decide)

theorem keeps_passOn (r : RingId) (d : Descriptor) : Keeps [] s (s.passOn r d) := by
  unfold passOn
  split <;> exact .of_same rfl rfl

theorem keeps_outcomeAttention (r : RingId) (st : Status) : Keeps [] s (s.outcomeAttention r st) := by
  refine .of_same ?_ (outcomeAttention_rings s r st)
  simp [view]

end State

theorem RingUnit.Ok.count {u : RingUnit} (ok : u.Ok) (st : Status) : (u.count st).Ok := by
  unfold RingUnit.count RingUnit.setCounter
  split <;> exact ⟨ok.base, ok.phase, ok.index, ok.silence⟩

theorem RingUnit.Ok.setCounter {u : RingUnit} (ok : u.Ok) (c : Counter) (v : Half) : (u.setCounter c v).Ok := by
  unfold RingUnit.setCounter
  split <;> exact ⟨ok.base, ok.phase, ok.index, ok.silence⟩

theorem RingUnit.silenceNext_le {u : RingUnit} (ok : u.Ok) : u.silenceNext ≤ 4080 := by
  have bound := ok.silence
  unfold RingUnit.silenceNext
  split <;> omega

namespace State

variable (s : State)

theorem keeps_takeOutcome (r : RingId) (st : Status) (w : Word) : Keeps [] s (s.takeOutcome r st w) := by
  unfold takeOutcome
  dsimp only
  refine ((s.keeps_modRing fun ok => ?_).trans (keeps_outcomeAttention _ _ _)).trans (keeps_sendMemory _ _ _)
  have counted := ok.count st
  exact ⟨counted.base, FetchPhase.noConfusion, counted.index, counted.silence⟩

theorem keeps_takeBody (r : RingId) (ws : List Word) : Keeps [] s (s.takeBody r ws) := by
  unfold takeBody
  dsimp only
  have fetched (d : Descriptor) : Keeps [] s (s.modRing r fun u => { u with inFlight := .fetched d }) :=
    s.keeps_modRing fun ok => ⟨ok.base, ok.phase, ok.index, ok.silence⟩
  split
  · exact (fetched _).trans (keeps_takeOutcome _ _ _ _)
  · split
    · exact (fetched _).trans (keeps_takeOutcome _ _ _ _)
    · exact ((fetched _).trans (keeps_setPhase _ r (by decide))).trans (keeps_passOn _ _ _)

theorem keeps_handBack (r : RingId) : Keeps [] s (s.handBack r) := by
  rw [handBack_eq]
  have unit : Keeps [] s (s.modRing r fun u => u.handedBack r) := s.keeps_modRing fun ok => by
    refine ⟨ok.base, ok.phase, fun _ => Nat.mod_lt _ (length_pos _), ?_⟩
    simp only [RingUnit.handedBack]
    split
    · exact Nat.zero_le _
    · exact ok.silence
  refine unit.trans (.of_same ?_ rfl)
  simp only [view]
  split_ifs <;> rfl

theorem keeps_fetchOn (r : RingId) : Keeps [] s (s.fetchOn r) := by
  unfold fetchOn
  dsimp only
  have idle : Keeps [] s (s.setPhase r .idle) := s.keeps_setPhase r (by decide)
  split
  · exact s.keeps_enterReady r
  · split
    · exact idle.trans (keeps_changeRing_off _ r)
    · exact idle

theorem keeps_haltRing (r : RingId) (why : HaltReason) : Keeps [] s (s.haltRing r why) := by
  unfold haltRing
  dsimp only
  refine ((s.keeps_modRing fun ok => ⟨ok.base, FetchPhase.noConfusion, ok.index, ok.silence⟩).trans
    (keeps_changeRing _ fun _ live => ?_)).trans (keeps_sendCause _ _ _)
  simp [RingState.live] at live

/-! ### The frame event -/

theorem keeps_silenceFrame (r : RingId) : Keeps [] s (s.silenceFrame r) := by
  cases reached : s.reachesSilence r with
  | false =>
    rw [silenceFrame_below reached]
    refine s.keeps_modRing (r := r) (f := fun u => { u with silenceCounter := s.silenceAfter r }) fun ok =>
      ⟨ok.base, ok.phase, ok.index, ?_⟩
    unfold silenceAfter
    split
    · exact RingUnit.silenceNext_le ok
    · exact ok.silence
  | true =>
    rw [silenceFrame_reached reached]
    have on := (countsSilence_iff.mp (reachesSilence_iff.mp reached).1).2.2
    refine (s.keeps_modRing (r := r) (f := fun u => { u with silenceCounter := u.silenceNext, state := .silent }) fun ok =>
      ⟨ok.base, ok.phase, fun _ => ok.index (.inl on), RingUnit.silenceNext_le ok⟩).trans (.of_same rfl rfl)

theorem keeps_ringFrame (r : RingId) : Keeps [] s (s.ringFrame r) :=
  ((s.keeps_modRing fun ok => ⟨ok.base, ok.phase, ok.index, ok.silence⟩).trans (keeps_silenceFrame _ r)).trans
    (keeps_lookAgain _ r)

/-! ### Memory Master and reports -/

theorem keeps_setMemory (m : MemoryMaster) : Keeps [] s { s with memory := m } := .of_same rfl rfl

theorem keeps_endTransaction : Keeps [] s s.endTransaction := .of_same rfl rfl

theorem keeps_returnCompletion (k : TxKind) (ws : List Word) : Keeps [] s (s.returnCompletion k ws) := by
  cases k with
  | statusRead r | bodyRead r | writeBack r => exact s.keeps_sendRing _ _
  | setupRead | glyphRead => exact .of_same rfl rfl

theorem keeps_returnFault (k : TxKind) : Keeps [] s (s.returnFault k) := by
  cases k with
  | statusRead r | bodyRead r | writeBack r => exact s.keeps_sendRing _ _
  | setupRead | glyphRead => exact .of_same rfl rfl

theorem keeps_answerWord (tx : Transaction) (w : Word) : Keeps [] s (s.answerWord tx w) := by
  unfold answerWord
  split
  · exact s.keeps_setMemory _
  · exact (s.keeps_returnCompletion _ _).trans (keeps_endTransaction _)

theorem keeps_raiseWrite (v : Half) : Keeps [] s (s.raiseWrite v) := by
  refine .of_same ?_ ?_ <;> · unfold raiseWrite; dsimp only; split_ifs <;> rfl

end State
end Sys2Proof.Machine

/-! What the Field Unit's and the Quote Engine's operations leave of the parts. -/

namespace Sys2Proof.Machine

open State (Keeps)

namespace State

variable (s : State)

/-! ### The stores of the Field Unit -/

/-- A change that the view shows in the field table and the occupancy map alone, and that keeps their canonical form. -/
theorem Keeps.of_fields {s t : State}
    (same : t.view = { s.view with records := t.field.records, occupancy := t.field.occupancy }) (rings : t.rings = s.rings)
    (canonical : Part.Kept .fields s t) : Keeps [] s t := by
  simp only [view, View.mk.injEq, Prod.mk.injEq] at same
  obtain ⟨pending, slots, heads, cells, save, stack, geometry, glyphs, palette, pens, glyphHeight, cursor, shown,
    ⟨counter, half⟩, glyphWrite, device, stage, block, -, -, sweeping, entries, requests⟩ := same
  refine ⟨pending, fun p _ => ?_⟩
  cases p with
  | fields => exact canonical
  | _ => simp only [Part.Kept, Part.Ok, *, and_self, imp_self]

theorem keeps_setRecord (f : Nat) (v : FieldRec) : Keeps [] s (s.setRecord f v) :=
  .of_fields rfl rfl fun ok => ⟨Tab.set_wf _ _ _ _ ok.1, ok.2⟩

theorem keeps_markSpan (row col width : Nat) (v : Option Nat) : Keeps [] s (s.markSpan row col width v) :=
  .of_fields rfl rfl fun ok => ⟨ok.1, markCells_wf _ _ _ ok.2⟩

theorem keeps_setTick (f : Nat) (t : Tick) : Keeps [] s (s.setTick f t) := s.keeps_setRecord _ _

theorem keeps_setEvent (e : Option FieldEvent) : Keeps [] s { s with field := { s.field with event := e } } :=
  .of_same rfl rfl

theorem keeps_setCommand (c : Option Descriptor) : Keeps [] s { s with field := { s.field with command := c } } :=
  .of_same rfl rfl

theorem keeps_dropField : Keeps [] s s.dropField := .of_same rfl rfl

theorem keeps_dropCommand : Keeps [] s s.dropCommand := .of_same rfl rfl

/-! ### The sweep and the Highlight Timer's requests -/

/-- A change that the view shows in the sweep alone, which is not begun outside RUNNING. -/
theorem keeps_setSweep {w : Sweep} (begun : w.active = true → s.field.sweep.active = true ∨ s.control.device = .running) :
    Keeps [] s (s.setSweep w) := by
  refine ⟨rfl, fun p _ => ?_⟩
  cases p with
  | sweep =>
    refine fun ok notRunning => Bool.eq_false_iff.mpr fun active => ?_
    have inactive := ok notRunning
    rcases begun active with h | h
    · exact absurd inactive (by simp [h])
    · exact notRunning h
  | _ => simp [Part.Kept, Part.Ok]

/-- A request to the Highlight Timer; an arm request is sent in RUNNING alone. -/
theorem keeps_sendHighlight {q : HighlightRequest} (arms : q.isArm = true → s.control.device = .running) :
    Keeps [] s (s.sendHighlight q) := by
  refine ⟨rfl, fun p _ => ?_⟩
  cases p with
  | highlights =>
    intro ok notRunning
    obtain ⟨queue, requests⟩ := ok notRunning
    refine ⟨queue, fun p hp => ?_⟩
    rcases List.mem_append.mp hp with old | new
    · exact requests p old
    · obtain rfl := List.mem_singleton.mp new
      exact Bool.eq_false_iff.mpr fun h => notRunning (arms h)
  | _ => simp [Part.Kept, Part.Ok]

theorem keeps_sendRemove (f : Nat) : Keeps [] s (s.sendHighlight (.remove f)) :=
  s.keeps_sendHighlight fun h => by cases h

theorem keeps_clearTick (f : Nat) : Keeps [] s (s.clearTick f) := (s.keeps_setTick f .steady).trans (keeps_sendRemove _ f)

theorem keeps_requestStep : Keeps [] s s.requestStep := by
  unfold requestStep
  split
  · exact .refl _ s
  · refine Keeps.trans ?_ (keeps_sendField _ _)
    exact s.keeps_setSweep fun active => .inl active

/-- What the end of a pass makes of the sweep in a state that has it as it was. -/
theorem keeps_passTurn {v : State} (kept : Keeps [] s v) (sweep : v.field.sweep = s.field.sweep) {again stop : Sweep}
    (goesOn : again.active = s.field.sweep.active) (stops : stop.active = false) :
    Keeps [] s (if s.field.sweep.rerun = true then (v.setSweep again).requestStep else v.setSweep stop) := by
  refine kept.trans ?_
  split
  · refine Keeps.trans ?_ (keeps_requestStep _)
    exact v.keeps_setSweep fun active => .inl (by rw [sweep, ← goesOn, active])
  · exact v.keeps_setSweep fun active => absurd active (by simp [stops])

theorem keeps_passEnd : Keeps [] s s.passEnd := by
  unfold passEnd
  dsimp only
  refine s.keeps_passTurn ?_ ?_ rfl rfl
  · split
    · exact s.keeps_completeCommand _ _
    · exact .refl _ s
    · exact .refl _ s
  · split <;> rfl

theorem keeps_sweepAdvance (rendered : Bool) : Keeps [] s (s.sweepAdvance rendered) := by
  unfold sweepAdvance
  dsimp only
  split
  · next active =>
    split
    · refine Keeps.trans ?_ (keeps_requestStep _)
      exact (s.keeps_setSweep fun _ => .inl active).trans (keeps_setSweep _ fun active => .inl active)
    · refine Keeps.trans ?_ (keeps_passEnd _)
      exact s.keeps_setSweep fun _ => .inl active
  · exact .refl _ s

/-! ### Events of the Field Unit -/

theorem keeps_runAfter (a : FieldAfter) : Keeps [] s (s.runAfter a) := by
  cases a with
  | nothing => exact .refl _ s
  | complete st w => exact s.keeps_completeCommand _ _
  | freeAndComplete f w => exact (s.keeps_setRecord _ _).trans (keeps_completeCommand _ _ _)
  | sweepAdvance b => exact s.keeps_sweepAdvance b
  | moveTo m => exact s.keeps_setEvent _

theorem keeps_fieldFinish : Keeps [] s s.fieldFinish := by
  unfold fieldFinish
  split
  · exact .refl _ s
  · split
    · exact (s.keeps_setEvent _).trans (keeps_runAfter _ _)
    · exact .refl _ s

theorem keeps_beginEvent (spans : List SpanWrite) (a : FieldAfter) : Keeps [] s (s.beginEvent spans a) := by
  unfold beginEvent
  refine Keeps.trans ?_ (keeps_fieldFinish _)
  exact (s.keeps_sendPlanes _).trans (keeps_setEvent _ _)

theorem keeps_endCommand (st : Status) (w : Word) : Keeps [] s (s.endCommand st w) := s.keeps_beginEvent _ _

theorem keeps_countOverflow (f : Nat) : Keeps [] s (s.countOverflow f) := by
  unfold countOverflow
  split
  · exact (s.keeps_setRecord _ _).trans (keeps_sendCause _ _ _)
  · exact .refl _ s

theorem keeps_render (f : Nat) (earlier : List SpanWrite) (a : FieldAfter) : Keeps [] s (s.render f earlier a) :=
  (s.keeps_countOverflow f).trans (keeps_beginEvent _ _ _)

theorem keeps_determineTick (f : Nat) (old : Option Int) (new : Int) : Keeps [] s (s.determineTick f old new) := by
  unfold determineTick
  have arms (t : Tick) (k : Fin 4) (run : s.running = true) :
      Keeps [] s ((s.setTick f t).sendHighlight (.arm f k)) :=
    (s.keeps_setTick f t).trans (keeps_sendHighlight _ fun _ => by simpa [running] using run)
  split
  · split
    · next run =>
      split
      · exact s.keeps_clearTick f
      · split
        · exact arms _ _ run
        · split
          · exact arms _ _ run
          · exact .refl _ s
    · exact s.keeps_clearTick f
  · exact .refl _ s

theorem keeps_makeMove (m : FieldMove) : Keeps [] s (s.makeMove m) :=
  ((s.keeps_setRecord _ _).trans (keeps_markSpan _ _ _ _ _)).trans (keeps_render _ _ _ _)

theorem keeps_spanSent : Keeps [] s s.spanSent := by
  unfold spanSent
  split
  · exact (s.keeps_setEvent _).trans (keeps_makeMove _ _)
  · exact s.keeps_fieldFinish

theorem keeps_sendSpan (w : SpanWrite) (e : FieldEvent) : Keeps [] s (s.sendSpan w e) :=
  ((s.keeps_sendPlanes _).trans (keeps_setEvent _ _)).trans (keeps_spanSent _)

/-! ### The field commands -/

theorem keeps_takeBind (d : Descriptor) : Keeps [] s (s.takeBind d) := by
  unfold takeBind
  dsimp only
  split
  · exact s.keeps_endCommand _ _
  · split
    · exact s.keeps_endCommand _ _
    · split
      · exact (s.keeps_setCommand _).trans (keeps_sendQuote _ _)
      · exact s.keeps_endCommand _ _

theorem keeps_takeLookupResult (d : Descriptor) (l : LookupResult) : Keeps [] s (s.takeLookupResult d l) := by
  unfold takeLookupResult
  dsimp only
  have ends (st : Status) (w : Word) : Keeps [] s (s.dropCommand.endCommand st w) :=
    s.keeps_dropCommand.trans (keeps_endCommand _ _ _)
  split
  · exact ends _ _
  · exact ends _ _
  · split
    · exact ends _ _
    · split
      · exact ends _ _
      · exact s.keeps_sendQuote _

theorem keeps_takeAppendDone (d : Descriptor) (f slot : Nat) : Keeps [] s (s.takeAppendDone d f slot) := by
  unfold takeAppendDone
  split
  · exact s.keeps_dropCommand
  · exact ((s.keeps_dropCommand.trans (keeps_setRecord _ _ _)).trans (keeps_markSpan _ _ _ _ _)).trans (keeps_render _ _ _ _)

theorem keeps_takeUnbind (d : Descriptor) : Keeps [] s (s.takeUnbind d) := by
  unfold takeUnbind
  dsimp only
  split
  · exact s.keeps_endCommand _ _
  · split
    · exact s.keeps_endCommand _ _
    · exact (s.keeps_setCommand _).trans (keeps_sendQuote _ _)

theorem keeps_takeRemovalDone (d : Descriptor) (f : Nat) : Keeps [] s (s.takeRemovalDone d f) := by
  unfold takeRemovalDone
  dsimp only
  refine Keeps.trans ?_ ((keeps_sendRemove _ f).trans (keeps_beginEvent _ _ _))
  split
  · exact s.keeps_dropCommand.trans (keeps_markSpan _ _ _ _ _)
  · exact s.keeps_dropCommand

theorem keeps_moveField (d : Descriptor) (f : Nat) : Keeps [] s (s.moveField d f) := by
  unfold moveField
  dsimp only
  have cleared : Keeps [] s (s.clearSpan f) := s.keeps_markSpan _ _ _ _
  split
  · split
    · exact cleared.trans (keeps_sendSpan _ _ _)
    · exact cleared.trans (keeps_setEvent _ _)
  · exact s.keeps_makeMove _

theorem keeps_takeMove (d : Descriptor) : Keeps [] s (s.takeMove d) := by
  unfold takeMove
  dsimp only
  split
  · exact s.keeps_endCommand _ _
  · split
    · exact s.keeps_endCommand _ _
    · split
      · exact s.keeps_endCommand _ _
      · split
        · exact s.keeps_endCommand _ _
        · exact s.keeps_moveField d _

theorem keeps_restyle (f : Nat) (st : Style) : Keeps [] s (s.restyle f st) := by
  unfold restyle
  have styled : Keeps [] s (s.setRecord f { s.record f with style := st }) := s.keeps_setRecord _ _
  have ticked := styled.ite (c := (s.record f).style.endsHighlight st = true) (styled.trans (keeps_clearTick _ f))
  exact (ticked.trans (keeps_endCommand _ _ _)).ite (ticked.trans (keeps_render _ _ _ _))

theorem keeps_takeStyle (d : Descriptor) : Keeps [] s (s.takeStyle d) := by
  unfold takeStyle
  dsimp only
  split
  · exact s.keeps_endCommand _ _
  · split
    · exact s.keeps_endCommand _ _
    · split
      · exact s.keeps_endCommand _ _
      · exact s.keeps_restyle _ _

theorem keeps_takeExpiry (f : Nat) : Keeps [] s (s.takeExpiry f) := by
  unfold takeExpiry
  split
  · split
    · exact s.keeps_render _ _ _
    · split
      · exact (s.keeps_clearTick f).trans (keeps_render _ _ _ _)
      · exact .refl _ s
  · exact .refl _ s

theorem keeps_trigger : Keeps [] s s.trigger := by
  unfold trigger
  dsimp only
  split
  · next run =>
    have device : s.control.device = .running := by simpa [running] using run
    split
    · exact s.keeps_setSweep fun active => .inl active
    · exact (s.keeps_setSweep fun _ => .inr device).trans (keeps_requestStep _)
  · exact .refl _ s

theorem keeps_takeStep : Keeps [] s s.takeStep := by
  unfold takeStep
  dsimp only
  have taken := s.keeps_setSweep (w := { s.field.sweep with stepOut := false })
    fun active => .inl active
  split
  · split
    · exact taken.trans (keeps_render _ _ _ _)
    · exact taken.trans (keeps_sweepAdvance _ _)
  · exact taken

theorem keeps_takeRepaint : Keeps [] s s.takeRepaint := by
  unfold takeRepaint
  dsimp only
  split
  · exact s.keeps_trigger.trans (keeps_setSweep _ fun active => .inl active)
  · exact s.keeps_completeCommand _ _

theorem keeps_setPens {pens : Vector Pen 32} : Keeps [.pens] s { s with video := { s.video with pens } } := by
  refine ⟨rfl, fun p hp => ?_⟩
  cases p with
  | pens => exact absurd (List.mem_singleton_self _) hp
  | _ => simp [Part.Kept, Part.Ok]

/-- SET_PEN replaces a pen and nothing else of the parts. -/
theorem keeps_takeSetPen (d : Descriptor) : Keeps [.pens] s (s.takeSetPen d) := by
  unfold takeSetPen
  dsimp only
  split
  · split
    · exact (s.keeps_endCommand _ _).widen
    · exact s.keeps_setPens.trans (keeps_endCommand _ _ _).widen
  · exact (s.keeps_endCommand _ _).widen

/-! ### The Highlight Timer -/

theorem keeps_setHighlight {h : HighlightTimer} (idle : Part.Kept .highlights s { s with highlight := h }) :
    Keeps [] s { s with highlight := h } := by
  refine ⟨rfl, fun p _ => ?_⟩
  cases p with
  | highlights => exact idle
  | _ => simp [Part.Kept, Part.Ok]

/-- A request taken by the Highlight Timer, an arm request in RUNNING alone, with the queue it leaves. -/
theorem keeps_highlightTaken {h : HighlightTimer} (idle : s.control.device ≠ .running →
    s.highlight.queue = [] → (∀ q ∈ s.highlight.requests, q.isArm = false) → h.queue = []) :
    Keeps [] s (s.highlightTaken h) := by
  refine (s.keeps_setHighlight fun ok notRunning => ?_).trans (keeps_fieldFinish _)
  obtain ⟨queue, requests⟩ := ok notRunning
  exact ⟨idle notRunning queue requests, fun q hq => requests q (List.mem_of_mem_tail hq)⟩

theorem keeps_highlightFrame (n : Half) : Keeps [] s (s.highlightFrame n) := by
  unfold highlightFrame
  dsimp only
  split
  · next run =>
    have device : s.control.device = .running := by simpa [running] using run
    refine Keeps.trans ?_ (keeps_sendFields _ _)
    exact s.keeps_setHighlight fun _ notRunning => absurd device notRunning
  · exact .of_same rfl rfl

/-! ### The Quote Engine -/

theorem keeps_dropQuote : Keeps [] s s.dropQuote := .of_same rfl rfl

theorem keeps_quoteFinish (renders : List RenderRequest) (r : RingId) (st : Status) (w : Word) :
    Keeps [] s (s.quoteFinish renders r st w) := by
  unfold quoteFinish
  dsimp only
  split
  · exact (s.keeps_sendFields _).trans (keeps_sendRing _ _ _)
  · exact (s.keeps_sendFields _).trans (.of_same rfl rfl)

/-- A change of the instrument table and its heads alone. -/
theorem keeps_setQuote {q : QuoteEngine} : Keeps [.instruments] s { s with quote := q } := by
  refine ⟨rfl, fun p hp => ?_⟩
  cases p with
  | instruments => exact absurd (List.mem_singleton_self _) hp
  | _ => simp [Part.Kept, Part.Ok]

theorem keeps_setSlot (i : Nat) (v : Slot) : Keeps [.instruments] s (s.setSlot i v) := s.keeps_setQuote

theorem keeps_refuseApply (r : RingId) (i : Nat) (st : Status) : Keeps [] s (s.refuseApply r i st) :=
  s.keeps_sendRing _ _

theorem keeps_acceptApply (r : RingId) (i : Nat) (v : Slot) (renders : List RenderRequest) (st : Status) :
    Keeps [.instruments] s (s.acceptApply r i v renders st) :=
  (s.keeps_setSlot i v).trans (keeps_quoteFinish _ _ _ _ _).widen

theorem keeps_takeUpdate (r : RingId) (d : Descriptor) : Keeps [.instruments] s (s.takeUpdate r d) := by
  unfold takeUpdate
  split
  · exact (s.keeps_refuseApply _ _ _).widen
  · split
    · exact (s.keeps_refuseApply _ _ _).widen
    · exact s.keeps_acceptApply _ _ _ _ _

theorem keeps_takeSnapshot (r : RingId) (d : Descriptor) : Keeps [.instruments] s (s.takeSnapshot r d) := by
  unfold takeSnapshot
  split
  · exact (s.keeps_refuseApply _ _ _).widen
  · split
    · exact (s.keeps_refuseApply _ _ _).widen
    · exact s.keeps_acceptApply _ _ _ _ _

theorem keeps_takeCondition (r : RingId) (d : Descriptor) : Keeps [.instruments] s (s.takeCondition r d) := by
  unfold takeCondition
  split
  · exact (s.keeps_refuseApply _ _ _).widen
  · split
    · exact (s.keeps_refuseApply _ _ _).widen
    · exact s.keeps_acceptApply _ _ _ _ _

theorem keeps_takeDefine (d : Descriptor) : Keeps [.instruments] s (s.takeDefine d) := by
  unfold takeDefine
  have completes (v : State) (st : Status) (w : Word) : Keeps [.instruments] v (v.completeCommand st w) :=
    (v.keeps_completeCommand st w).widen
  dsimp only
  split
  · exact completes _ _ _
  · split
    · exact completes _ _ _
    · split
      · exact completes _ _ _
      · exact s.keeps_setQuote.trans (completes _ _ _)

theorem keeps_takeRemove (d : Descriptor) : Keeps [.instruments] s (s.takeRemove d) := by
  unfold takeRemove
  have completes (v : State) (st : Status) (w : Word) : Keeps [.instruments] v (v.completeCommand st w) :=
    (v.keeps_completeCommand st w).widen
  dsimp only
  split
  · exact completes _ _ _
  · split
    · exact completes _ _ _
    · exact s.keeps_setQuote.trans (completes _ _ _)

theorem keeps_takeSetSources (d : Descriptor) : Keeps [.instruments] s (s.takeSetSources d) := by
  unfold takeSetSources
  dsimp only
  split
  · exact (s.keeps_completeCommand _ _).widen
  · split
    · exact (s.keeps_completeCommand _ _).widen
    · exact (s.keeps_setSlot _ _).trans (keeps_quoteFinish _ _ _ _ _).widen

end State
end Sys2Proof.Machine

/-! What the commands of the Plane Controller, the Video Generator and the Control Unit leave of the parts, and with them
every command: the parts it may write, and that it keeps the others. -/

namespace Sys2Proof.Machine

open State (Keeps)
open Sys2Proof.Statement

namespace State

variable (s : State)

/-! ### The Plane Controller -/

/-- A change of the Plane Controller alone. -/
theorem keeps_setPlane {p : PlaneController} : Keeps [.board] s { s with plane := p } := by
  refine ⟨rfl, fun q hq => ?_⟩
  cases q with
  | board => exact absurd (List.mem_singleton_self _) hq
  | _ => simp [Part.Kept, Part.Ok]

theorem keeps_dropPlane : Keeps [] s s.dropPlane := .of_same rfl rfl

theorem keeps_takeSpan (w : SpanWrite) : Keeps [.board] s (s.takeSpan w) := s.keeps_dropPlane.widen.trans (keeps_setPlane _)

theorem keeps_takeText (d : Descriptor) (vals : Option (List CellValue)) : Keeps [.board] s (s.takeText d vals) := by
  have completes (v : State) (st : Status) (w : Word) : Keeps [.board] v (v.completeCommand st w) :=
    (v.keeps_completeCommand st w).widen
  unfold takeText
  split
  · split
    · exact completes _ _ _
    · split
      · exact completes _ _ _
      · exact s.keeps_setPlane.trans (completes _ _ _)
  · exact completes _ _ _

theorem keeps_takeSetCursor (d : Descriptor) : Keeps [] s (s.takeSetCursor d) := by
  have completes (v : State) (st : Status) (w : Word) : Keeps [] v (v.completeCommand st w) := v.keeps_completeCommand st w
  unfold takeSetCursor
  dsimp only
  split
  · exact completes _ _ _
  · split
    · exact completes _ _ _
    · refine Keeps.trans ?_ (completes _ _ _)
      exact .of_same rfl rfl

theorem keeps_completeOverlay (st : Status) : Keeps [] s (s.completeOverlay st) := s.keeps_completeCommand _ _

theorem keeps_endOverlay : Keeps [] s s.endOverlay := by
  unfold endOverlay
  refine Keeps.trans ?_ (keeps_completeOverlay _ _)
  exact .of_same rfl rfl

theorem keeps_takeOpen (d : Descriptor) : Keeps [.board] s (s.takeOpen d) := by
  unfold takeOpen
  dsimp only
  split
  · exact (s.keeps_completeOverlay _).widen
  · exact s.keeps_setPlane.trans (keeps_sendPlanes _ _).widen

theorem keeps_takeClose : Keeps [.board] s s.takeClose := by
  unfold takeClose
  split
  · exact (s.keeps_completeOverlay _).widen
  · exact s.keeps_setPlane.trans (keeps_sendPlanes _ _).widen

theorem keeps_openingRow (o : Overlay) (k : Nat) : Keeps [.board] s (s.openingRow o k) := by
  unfold openingRow
  dsimp only
  split
  · exact s.keeps_setPlane.trans (keeps_sendPlanes _ _).widen
  · exact s.keeps_setPlane.trans (keeps_endOverlay _).widen

theorem keeps_closingRow (o : Overlay) (k : Nat) : Keeps [.board] s (s.closingRow o k) := by
  unfold closingRow
  dsimp only
  split
  · exact s.keeps_setPlane.trans (keeps_sendPlanes _ _).widen
  · exact s.keeps_setPlane.trans (keeps_endOverlay _).widen

/-! ### The Video Generator -/

theorem keeps_setCursor {c : Cursor} {rest : List Cursor} :
    Keeps [.cursor] s { s with video := { s.video with cursor := c, cursorChanges := rest } } := by
  refine ⟨rfl, fun p hp => ?_⟩
  cases p with
  | cursor => exact absurd (List.mem_singleton_self _) hp
  | _ => simp [Part.Kept, Part.Ok]

theorem keeps_setScan {f : Option Scan} : Keeps [] s { s with video := { s.video with scan := f } } := .of_same rfl rfl

/-- At a frame event the blink counter goes on below the half-period, or begins again at it. -/
theorem keeps_raiseFrame : Keeps [] s s.raiseFrame := by
  refine ⟨rfl, fun p _ => ?_⟩
  cases p with
  | rings =>
    have pushed {u : RingUnit} (n : Half) (ok : u.Ok) : (u.pushFrame n).Ok := ⟨ok.base, ok.phase, ok.index, ok.silence⟩
    intro ok r
    cases r with
    | a => exact pushed _ (ok .a)
    | b => exact pushed _ (ok .b)
    | t => exact pushed _ (ok .t)
  | blink =>
    intro ok shown
    obtain ⟨below, half⟩ := ok shown
    refine ⟨?_, half⟩
    simp only [raiseFrame, sendFrame, VideoGenerator.frame, VideoGenerator.reachesHalf, decide_eq_true_eq]
    split <;> omega
  | _ => simp [Part.Kept, Part.Ok, raiseFrame, sendFrame, VideoGenerator.frame]

/-! ### The Control Unit -/

/-- A change of the Control Unit, with a glyph write discarded or not, that does not leave RUNNING. -/
theorem keeps_setControl {c : ControlUnit} {g : Option GlyphWrite}
    (stays : s.control.device = .running → c.device = .running) :
    Keeps [.start] s { s with control := c, video := { s.video with glyphWrite := g } } := by
  refine ⟨rfl, fun p hp => ?_⟩
  cases p with
  | start => exact absurd (List.mem_singleton_self _) hp
  | sweep => exact fun ok notRunning => ok fun run => notRunning (stays run)
  | highlights => exact fun ok notRunning => ok fun run => notRunning (stays run)
  | _ => simp [Part.Kept, Part.Ok]

theorem keeps_endStart {d : DeviceState} (o : StartOutcome) (stays : s.control.device = .running → d = .running) :
    Keeps [.start] s (s.endStart d o) := by
  unfold endStart
  refine Keeps.trans ?_ (keeps_sendCause _ _ _).widen
  exact s.keeps_setControl stays

/-- A START that fails in any state. -/
theorem keeps_failStart (o : StartOutcome) : Keeps [.start, .sweep, .highlights] s (s.failStart o) := by
  refine ⟨rfl, fun p hp => ?_⟩
  simp only [List.mem_cons, not_or] at hp
  cases p with
  | start | sweep | highlights => simp at hp
  | _ => simp [Part.Kept, Part.Ok, failStart]

theorem keeps_takeStart (stopped : s.control.device = .stopped) : Keeps [.start] s s.takeStart := by
  unfold takeStart
  refine Keeps.trans ?_ (keeps_sendMemory _ _ _).widen
  exact s.keeps_setControl fun run => by simp [stopped] at run

theorem keeps_stopLoading (loading : s.control.device = .loading) : Keeps [.start] s s.stopLoading := by
  unfold stopLoading
  dsimp only
  refine Keeps.trans (Keeps.trans ?_ (keeps_endStart _ _ fun run => ?_)) (keeps_sendCause _ _ _).widen
  · refine Keeps.widen ?_
    exact .of_same rfl rfl
  · simp [loading] at run

theorem keeps_stopTest : Keeps [.start] s s.stopTest := by
  unfold stopTest
  split
  · next h =>
    have ended : Keeps [.start] s (s.setDevice .stopped) := s.keeps_setControl fun run => by simp [h.1] at run
    exact ((ended.trans (keeps_sendCause _ _ _).widen).trans (keeps_sendCause _ _ _).widen).trans
      (keeps_sendCause _ _ _).widen
  · exact .refl _ s

theorem keeps_ignoreCommand : Keeps [] s s.ignoreCommand := .of_same rfl rfl

theorem keeps_offRequest (r : RingId) : Keeps [] s (s.offRequest r) := by
  unfold offRequest
  split
  · exact s.keeps_takeRingOff r
  · exact .refl _ s

theorem keeps_clearHighlights : Keeps [] s s.clearHighlights := by
  refine ⟨rfl, fun p _ => ?_⟩
  cases p with
  | fields => exact fun ok => ⟨Tab.mapListed_wf fieldSpec (fun v => { v with tick := .steady }) _ ok.1, ok.2⟩
  | highlights => exact fun _ _ => ⟨rfl, by simp [clearHighlights]⟩
  | _ => simp [Part.Kept, Part.Ok, clearHighlights]

theorem keeps_abandonSweep : Keeps [] s s.abandonSweep := by
  unfold abandonSweep
  dsimp only
  refine Keeps.trans ?_ (keeps_setSweep _ fun active => by cases active)
  split
  · exact .refl _ s
  · exact s.keeps_completeCommand _ _
  · exact s.keeps_completeCommand _ _

/-- The change of the device state leaves the sweep and the highlights for the rest of the event to end. -/
theorem keeps_stopRunning : Keeps [.start] s s.stopRunning := by
  have leaves : Keeps [.start, .sweep, .highlights] s
      { s with control := { s.control with device := .stopping, ignored := false } } := by
    refine ⟨rfl, fun p hp => ?_⟩
    cases p with
    | start | sweep | highlights => simp at hp
    | _ => simp [Part.Kept, Part.Ok]
  have cleared : Keeps [.start] s
      { s with control := { s.control with device := .stopping, ignored := false } }.clearHighlights.abandonSweep := by
    refine ((leaves.trans (keeps_clearHighlights _).widen).trans (keeps_abandonSweep _).widen).narrow fun p hp out => ?_
    cases p with
    | sweep => exact fun _ _ => rfl
    | highlights => simp [Part.Kept, Part.Ok, clearHighlights]
    | start => simp at out
    | _ => simp at hp
  unfold stopRunning
  dsimp only
  have rest (u : State) : Keeps [.start] u ((((u.fieldFinish.offRequest .a).offRequest .b).offRequest .t).stopTest) :=
    ((((u.keeps_fieldFinish.trans (keeps_offRequest _ _)).trans (keeps_offRequest _ _)).trans
      (keeps_offRequest _ _)).widen).trans (keeps_stopTest _)
  exact cleared.trans (rest _)

theorem keeps_deviceControlWrite (v : Half) : Keeps [.start] s (s.deviceControlWrite v) := by
  unfold deviceControlWrite
  split
  · exact .refl _ s
  · next stopped => exact s.keeps_takeStart stopped
  · next loading => exact s.keeps_stopLoading loading
  · exact s.keeps_stopRunning
  · exact s.keeps_ignoreCommand.widen

/-- Every part but the instrument table. -/
def commitParts : List Part :=
  [.board, .picture, .glyphs, .pens, .cursor, .start, .rings, .fields, .sweep, .highlights, .blink]

/-- A change that leaves the queue and the Quote Engine. -/
theorem keeps_of_quote {t : State} (queue : t.pending = s.pending) (quote : t.quote = s.quote) : Keeps commitParts s t := by
  refine ⟨queue, fun p hp => ?_⟩
  cases p with
  | instruments => simp [Part.Kept, quote]
  | _ => simp [commitParts] at hp

theorem keeps_commit (ws : List Word) : Keeps commitParts s (s.commit ws) := by
  refine s.keeps_of_quote ?_ ?_
  · simp only [commit]; split <;> simp [commitTrigger, commitShares, regeometry]
  · simp only [commit]; split <;> simp [commitTrigger, commitShares, regeometry]

theorem keeps_takeSetup (ws : List Word) : Keeps commitParts s (s.takeSetup ws) := by
  refine Keeps.trans (t := { s with control := { s.control with loaderInput := none } }) (s.keeps_of_quote rfl rfl) ?_
  unfold takeSetup
  dsimp only
  split
  · exact keeps_of_quote _ rfl rfl
  · split
    · exact keeps_of_quote _ rfl rfl
    · exact keeps_commit _ _

end State
end Sys2Proof.Machine

/-! Every command with the parts it may write: it answers, and it keeps the other parts and the queue of the commands
still to come. -/

namespace Sys2Proof.Machine

open State (Keeps)
open Sys2Proof.Statement

/-- Every part of the machine. -/
def allParts : List Part := .instruments :: State.commitParts

/-- The parts that a command may write. -/
def written : Instr → List Part
  | .hardwareReset => allParts
  | .start | .stop | .ignoredCommand _ | .ringStoppedReport | .overlayEndReport | .glyphReadEnd => [.start]
  | .fetchFault | .fontFault => [.start, .sweep, .highlights]
  | .setupReadEnd | .glyphWrite => State.commitParts
  | .update | .snapshot | .condition | .defineInstrument | .removeInstrument | .setSources | .append | .removal =>
    [.instruments]
  | .spanWrite | .writeCells | .fillCells | .openOverlay | .closeOverlay | .openingRow | .closingRow => [.board]
  | .setPen => [.pens]
  | .cursorChange => [.cursor]
  | .selectorWrite _ _ | .writeIgnored _ _ | .ringOn _ _ | .ringOff _ _ | .kick _ _ | .attnPendingClear _ _ |
    .attnEnableWrite _ _ | .ringBaseWrite _ _ | .ringLengthWrite _ _ | .counterClear _ _ | .setupAddressWrite _ |
    .raise _ | .probeSelect _ | .attentionCauseSet _ | .memoryRequest _ | .busGrant | .transferAcknowledge _ |
    .responseLimitExpiry | .statusReadEnd _ | .bodyReadEnd _ | .outcomeTaken _ | .writeBackEnd _ |
    .ringFetchFault _ | .writebackFault _ | .ringFrameEvent _ | .silent _ | .renderQueueRoom | .bindingLookup |
    .plainRender | .tickRender | .resetRender | .spanQueueRoom | .bindField | .lookupResult | .appendCompletion |
    .unbindField | .removalCompletion | .moveField | .styleField | .expiry | .sweepTrigger | .sweepStep |
    .repaint | .armRequest | .removeRequest | .highlightExpiry | .setCursor | .frameScanStart | .frameEvent |
    .blinkPhaseChange => []

/-- The outcome is a state of which `P` holds. -/
def Leads (o : Host.Outcome State Fault Refusal) (P : State → Prop) : Prop := ∃ t, o = .next t ∧ P t

namespace Leads

variable {P : State → Prop} {s t : State} {w : List Part}

theorem next (h : P t) : Leads (.next t) P := ⟨t, rfl, h⟩

/-- A command that does nothing unless a condition holds. -/
theorem ite {c : Prop} [Decidable c] (h : Keeps w s t) : Leads (if c then .next t else .next s) (Keeps w s) := by
  split
  · exact next h
  · exact next (.refl w s)

end Leads

/-- A base as a register holds it is a multiple of 64. -/
theorem alignBase_mod (w : Word) : (alignBase w).toNat % 64 = 0 := by
  have bound := w.isLt
  simp only [alignBase, alignDown_eq, BitVec.toNat_ofNat]
  omega

namespace State

variable (s : State)

/-! ### Ports and the Control Unit -/

theorem keeps_execHardwareReset : Leads (execHardwareReset s) (Keeps allParts s) := by
  refine .next ⟨rfl, fun p hp => ?_⟩
  cases p <;> simp [allParts, commitParts] at hp

theorem keeps_execSelectorWrite (p : Port) (v : Half) : Leads (execSelectorWrite p v s) (Keeps [] s) :=
  .next ((s.keeps_modPort p fun u => { u with selector := v.setWidth 5 }).trans (.of_same rfl rfl))

theorem keeps_execRingBaseWrite (p : Port) (v : Half) : Leads (execRingBaseWrite p v s) (Keeps [] s) := by
  unfold execRingBaseWrite
  split
  · refine .next (s.keeps_inOff _ fun off ok => ⟨?_, ok.phase, ok.index, ok.silence⟩)
    exact alignBase_mod _
  · exact .next (.refl _ s)

theorem keeps_execRingLengthWrite (p : Port) (v : Half) : Leads (execRingLengthWrite p v s) (Keeps [] s) := by
  refine Leads.ite (s.keeps_inOff _ fun off ok => ?_)
  unfold RingUnit.setLength
  split
  · exact ⟨ok.base, ok.phase, fun live => by simp [off] at live, ok.silence⟩
  · exact ok

theorem keeps_execCounterClear (p : Port) (v : Half) : Leads (execCounterClear p v s) (Keeps [] s) := by
  unfold execCounterClear
  split
  · exact .next (s.keeps_modRing fun ok => ok.setCounter _ _)
  · exact .next (.refl _ s)

theorem keeps_execSetupAddressWrite (v : Half) : Leads (execSetupAddressWrite v s) (Keeps [] s) := by
  unfold execSetupAddressWrite
  split
  · refine Leads.ite ?_
    exact .of_same rfl rfl
  · exact .next (.refl _ s)

theorem keeps_execAttentionCauseSet (p : Port) : Leads (execAttentionCauseSet p s) (Keeps [] s) := by
  unfold execAttentionCauseSet
  split
  · exact .next (.refl _ s)
  · exact .next (s.keeps_modPort _ _)

theorem keeps_execRingStoppedReport : Leads (execRingStoppedReport s) (Keeps [.start] s) := by
  unfold execRingStoppedReport
  split
  · exact .next (.refl _ s)
  · refine .next (Keeps.trans (Keeps.widen ?_) (keeps_stopTest _))
    exact .of_same rfl rfl

theorem keeps_execOverlayEndReport : Leads (execOverlayEndReport s) (Keeps [.start] s) := by
  unfold execOverlayEndReport
  split
  · exact .next (.refl _ s)
  · refine .next (Keeps.trans (Keeps.widen ?_) (keeps_stopTest _))
    exact .of_same rfl rfl

theorem keeps_execSetupReadEnd : Leads (execSetupReadEnd s) (Keeps commitParts s) := by
  unfold execSetupReadEnd
  split
  · exact .next (s.keeps_takeSetup _)
  · exact .next (.refl _ s)

theorem keeps_execFetchFault : Leads (execFetchFault s) (Keeps [.start, .sweep, .highlights] s) := by
  unfold execFetchFault
  split
  · exact .next (s.keeps_failStart _)
  · exact .next (.refl _ s)

theorem keeps_execFontFault : Leads (execFontFault s) (Keeps [.start, .sweep, .highlights] s) := by
  unfold execFontFault
  split
  · exact .next (s.keeps_failStart _)
  · exact .next (.refl _ s)

theorem keeps_execGlyphReadEnd : Leads (execGlyphReadEnd s) (Keeps [.start] s) := by
  unfold execGlyphReadEnd
  split
  · exact .next (s.keeps_setControl fun run => run)
  · exact .next (.refl _ s)

theorem keeps_storeGlyph (w : GlyphWrite) : Keeps commitParts s (s.storeGlyph w) := s.keeps_of_quote rfl rfl

theorem keeps_readGlyph (g : Nat) : Keeps commitParts s (s.readGlyph g) := s.keeps_of_quote rfl rfl

theorem keeps_execGlyphWrite : Leads (execGlyphWrite s) (Keeps commitParts s) := by
  unfold execGlyphWrite
  split
  · exact .next (.refl _ s)
  · dsimp only
    split
    · exact .next ((s.keeps_storeGlyph _).trans (keeps_readGlyph _ _))
    · exact .next ((s.keeps_storeGlyph _).trans (keeps_commit _ _))

/-! ### Memory Master and Ring Units -/

theorem keeps_execMemoryRequest (q : Requester) : Leads (execMemoryRequest q s) (Keeps [] s) := by
  unfold execMemoryRequest
  split
  · exact .next (.refl _ s)
  · exact .next (s.keeps_setMemory _)

theorem keeps_execBusGrant : Leads (execBusGrant s) (Keeps [] s) := by
  unfold execBusGrant
  split
  · exact .next (.refl _ s)
  · exact .next (s.keeps_setMemory _)

theorem keeps_execTransferAcknowledge (w : Word) : Leads (execTransferAcknowledge w s) (Keeps [] s) := by
  unfold execTransferAcknowledge
  split
  · exact .next (.refl _ s)
  · split
    · exact .next (.refl _ s)
    · exact .next (s.keeps_answerWord _ _)

theorem keeps_execResponseLimitExpiry : Leads (execResponseLimitExpiry s) (Keeps [] s) := by
  unfold execResponseLimitExpiry
  split
  · exact .next (.refl _ s)
  · split
    · exact .next (.refl _ s)
    · exact .next ((s.keeps_returnFault _).trans (keeps_endTransaction _))

theorem keeps_execStatusReadEnd (r : RingId) : Leads (execStatusReadEnd r s) (Keeps [] s) := by
  unfold execStatusReadEnd
  split
  · exact .next ((s.keeps_dropInput r).trans (keeps_takeStatusWord _ _ _))
  · exact .next (.refl _ s)

theorem keeps_execBodyReadEnd (r : RingId) : Leads (execBodyReadEnd r s) (Keeps [] s) := by
  unfold execBodyReadEnd
  split
  · exact .next ((s.keeps_dropInput r).trans (keeps_takeBody _ _ _))
  · exact .next (.refl _ s)

theorem keeps_execOutcomeTaken (r : RingId) : Leads (execOutcomeTaken r s) (Keeps [] s) := by
  unfold execOutcomeTaken
  split
  · exact .next ((s.keeps_dropInput r).trans (keeps_takeOutcome _ _ _ _))
  · exact .next (.refl _ s)

theorem keeps_execWriteBackEnd (r : RingId) : Leads (execWriteBackEnd r s) (Keeps [] s) := by
  unfold execWriteBackEnd
  split
  · exact .next (((s.keeps_dropInput r).trans (keeps_handBack _ _)).trans (keeps_fetchOn _ _))
  · exact .next (.refl _ s)

theorem keeps_execRingFetchFault (r : RingId) : Leads (execRingFetchFault r s) (Keeps [] s) := by
  unfold execRingFetchFault
  have halts : Keeps [] s ((s.dropInput r).haltRing r .fetch) := (s.keeps_dropInput r).trans (keeps_haltRing _ _ _)
  split
  · exact .next halts
  · exact .next halts
  · exact .next (.refl _ s)

theorem keeps_execWritebackFault (r : RingId) : Leads (execWritebackFault r s) (Keeps [] s) := by
  unfold execWritebackFault
  split
  · exact .next ((s.keeps_dropInput r).trans (keeps_haltRing _ _ _))
  · exact .next (.refl _ s)

theorem keeps_execRingFrameEvent (r : RingId) : Leads (execRingFrameEvent r s) (Keeps [] s) := by
  unfold execRingFrameEvent
  split
  · exact .next (.refl _ s)
  · exact .next (s.keeps_ringFrame r)

theorem keeps_execSilent (r : RingId) : Leads (execSilent r s) (Keeps [] s) := by
  unfold execSilent
  split
  · exact .next (.refl _ s)
  · exact Leads.ite (s.keeps_ringFrame r)

/-! ### The Quote Engine -/

theorem keeps_execUpdate : Leads (execUpdate s) (Keeps [.instruments] s) := by
  unfold execUpdate
  split
  · exact Leads.ite (s.keeps_dropQuote.widen.trans (keeps_takeUpdate _ _ _))
  · exact .next (.refl _ s)

theorem keeps_execSnapshot : Leads (execSnapshot s) (Keeps [.instruments] s) := by
  unfold execSnapshot
  split
  · exact Leads.ite (s.keeps_dropQuote.widen.trans (keeps_takeSnapshot _ _ _))
  · exact .next (.refl _ s)

theorem keeps_execCondition : Leads (execCondition s) (Keeps [.instruments] s) := by
  unfold execCondition
  split
  · exact Leads.ite (s.keeps_dropQuote.widen.trans (keeps_takeCondition _ _ _))
  · exact .next (.refl _ s)

theorem keeps_execDefineInstrument : Leads (execDefineInstrument s) (Keeps [.instruments] s) := by
  unfold execDefineInstrument
  split
  · exact .next (s.keeps_dropQuote.widen.trans (keeps_takeDefine _ _))
  · exact .next (.refl _ s)

theorem keeps_execRemoveInstrument : Leads (execRemoveInstrument s) (Keeps [.instruments] s) := by
  unfold execRemoveInstrument
  split
  · exact .next (s.keeps_dropQuote.widen.trans (keeps_takeRemove _ _))
  · exact .next (.refl _ s)

theorem keeps_execSetSources : Leads (execSetSources s) (Keeps [.instruments] s) := by
  unfold execSetSources
  split
  · exact .next (s.keeps_dropQuote.widen.trans (keeps_takeSetSources _ _))
  · exact .next (.refl _ s)

theorem keeps_execRenderQueueRoom : Leads (execRenderQueueRoom s) (Keeps [] s) := by
  have waits (u : State) (w : Option QuoteWait) : Keeps [] u { u with quote := { u.quote with wait := w } } :=
    .of_same rfl rfl
  unfold execRenderQueueRoom
  split
  · exact .next (.refl _ s)
  · dsimp only
    split
    · split
      · exact .next (((s.keeps_sendFields _).trans (waits _ _)).trans (keeps_sendRing _ _ _))
      · exact .next ((s.keeps_sendFields _).trans (waits _ _))
    · exact .next (.refl _ s)

theorem keeps_execBindingLookup : Leads (execBindingLookup s) (Keeps [] s) := by
  unfold execBindingLookup
  split
  · exact .next (s.keeps_dropQuote.trans (keeps_sendField _ _))
  · exact .next (.refl _ s)

theorem keeps_execAppend : Leads (execAppend s) (Keeps [.instruments] s) := by
  unfold execAppend
  split
  · exact .next ((s.keeps_dropQuote.widen.trans (keeps_setSlot _ _ _)).trans (keeps_sendField _ _).widen)
  · exact .next (.refl _ s)

theorem keeps_execRemoval : Leads (execRemoval s) (Keeps [.instruments] s) := by
  unfold execRemoval
  split
  · refine .next (Keeps.trans ?_ (keeps_sendField _ _).widen)
    exact s.keeps_dropQuote.widen.trans (keeps_setQuote _)
  · exact .next (.refl _ s)

/-! ### The Field Unit -/

theorem keeps_execPlainRender : Leads (execPlainRender s) (Keeps [] s) := by
  unfold execPlainRender
  split
  · dsimp only
    split
    · exact .next (s.keeps_dropField.trans (keeps_render _ _ _ _))
    · exact .next s.keeps_dropField
  · exact .next (.refl _ s)

theorem keeps_execTickRender : Leads (execTickRender s) (Keeps [] s) := by
  unfold execTickRender
  split
  · dsimp only
    split
    · exact .next ((s.keeps_dropField.trans (keeps_determineTick _ _ _ _)).trans (keeps_render _ _ _ _))
    · exact .next s.keeps_dropField
  · exact .next (.refl _ s)

theorem keeps_execResetRender : Leads (execResetRender s) (Keeps [] s) := by
  unfold execResetRender
  split
  · dsimp only
    split
    · exact .next ((s.keeps_dropField.trans (keeps_clearTick _ _)).trans (keeps_render _ _ _ _))
    · exact .next s.keeps_dropField
  · exact .next (.refl _ s)

theorem keeps_execSpanQueueRoom : Leads (execSpanQueueRoom s) (Keeps [] s) := by
  unfold execSpanQueueRoom
  split
  · exact .next (.refl _ s)
  · split
    · exact .next (.refl _ s)
    · exact Leads.ite (s.keeps_sendSpan _ _)

theorem keeps_execBindField : Leads (execBindField s) (Keeps [] s) := by
  unfold execBindField
  split
  · exact .next (s.keeps_dropField.trans (keeps_takeBind _ _))
  · exact .next (.refl _ s)

theorem keeps_execLookupResult : Leads (execLookupResult s) (Keeps [] s) := by
  unfold execLookupResult
  split
  · exact .next (s.keeps_dropField.trans (keeps_takeLookupResult _ _ _))
  · exact .next (.refl _ s)

theorem keeps_execAppendCompletion : Leads (execAppendCompletion s) (Keeps [] s) := by
  unfold execAppendCompletion
  split
  · exact .next (s.keeps_dropField.trans (keeps_takeAppendDone _ _ _ _))
  · exact .next (.refl _ s)

theorem keeps_execUnbindField : Leads (execUnbindField s) (Keeps [] s) := by
  unfold execUnbindField
  split
  · exact .next (s.keeps_dropField.trans (keeps_takeUnbind _ _))
  · exact .next (.refl _ s)

theorem keeps_execRemovalCompletion : Leads (execRemovalCompletion s) (Keeps [] s) := by
  unfold execRemovalCompletion
  split
  · exact .next (s.keeps_dropField.trans (keeps_takeRemovalDone _ _ _))
  · exact .next (.refl _ s)

theorem keeps_execMoveField : Leads (execMoveField s) (Keeps [] s) := by
  unfold execMoveField
  split
  · exact .next (s.keeps_dropField.trans (keeps_takeMove _ _))
  · exact .next (.refl _ s)

theorem keeps_execStyleField : Leads (execStyleField s) (Keeps [] s) := by
  unfold execStyleField
  split
  · exact .next (s.keeps_dropField.trans (keeps_takeStyle _ _))
  · exact .next (.refl _ s)

theorem keeps_execSetPen : Leads (execSetPen s) (Keeps [.pens] s) := by
  unfold execSetPen
  split
  · exact .next (s.keeps_dropField.widen.trans (keeps_takeSetPen _ _))
  · exact .next (.refl _ s)

theorem keeps_execExpiry : Leads (execExpiry s) (Keeps [] s) := by
  unfold execExpiry
  split
  · exact .next (s.keeps_dropField.trans (keeps_takeExpiry _ _))
  · exact .next (.refl _ s)

theorem keeps_execSweepTrigger : Leads (execSweepTrigger s) (Keeps [] s) := by
  unfold execSweepTrigger
  split
  · exact .next (s.keeps_dropField.trans (keeps_trigger _))
  · exact .next (.refl _ s)

theorem keeps_execSweepStep : Leads (execSweepStep s) (Keeps [] s) := by
  unfold execSweepStep
  split
  · exact .next (s.keeps_dropField.trans (keeps_takeStep _))
  · exact .next (.refl _ s)

theorem keeps_execRepaint : Leads (execRepaint s) (Keeps [] s) := by
  unfold execRepaint
  split
  · exact .next (s.keeps_dropField.trans (keeps_takeRepaint _))
  · exact .next (.refl _ s)

/-! ### The Highlight Timer -/

/-- No arm request is on its way outside RUNNING, so none is taken there. -/
theorem keeps_execArmRequest : Leads (execArmRequest s) (Keeps [] s) := by
  unfold execArmRequest
  split
  · next f hold rest front =>
    refine .next (s.keeps_highlightTaken fun _ _ requests => ?_)
    have arm := requests (.arm f hold) (by simp [front])
    simp [HighlightRequest.isArm] at arm
  · exact .next (.refl _ s)

theorem keeps_execRemoveRequest : Leads (execRemoveRequest s) (Keeps [] s) := by
  unfold execRemoveRequest
  split
  · refine .next (s.keeps_highlightTaken fun _ empty _ => ?_)
    simp [HighlightTimer.drop, dropEntry, empty]
  · exact .next (.refl _ s)

theorem keeps_execHighlightExpiry : Leads (execHighlightExpiry s) (Keeps [] s) := by
  unfold execHighlightExpiry
  split
  · exact .next (.refl _ s)
  · exact .next (s.keeps_highlightFrame _)

/-! ### Plane Controller and Video Generator -/

theorem keeps_execSpanWrite : Leads (execSpanWrite s) (Keeps [.board] s) := by
  unfold execSpanWrite
  split
  · split
    · exact .next (.refl _ s)
    · exact .next (s.keeps_takeSpan _)
  · exact .next (.refl _ s)

theorem keeps_execWriteCells : Leads (execWriteCells s) (Keeps [.board] s) := by
  unfold execWriteCells
  split
  · exact .next (s.keeps_dropPlane.widen.trans (keeps_takeText _ _ _))
  · exact .next (.refl _ s)

theorem keeps_execFillCells : Leads (execFillCells s) (Keeps [.board] s) := by
  unfold execFillCells
  split
  · exact .next (s.keeps_dropPlane.widen.trans (keeps_takeText _ _ _))
  · exact .next (.refl _ s)

theorem keeps_execSetCursor : Leads (execSetCursor s) (Keeps [] s) := by
  unfold execSetCursor
  split
  · exact .next (s.keeps_dropPlane.trans (keeps_takeSetCursor _ _))
  · exact .next (.refl _ s)

theorem keeps_execOpenOverlay : Leads (execOpenOverlay s) (Keeps [.board] s) := by
  unfold execOpenOverlay
  split
  · exact .next (s.keeps_dropPlane.widen.trans (keeps_takeOpen _ _))
  · exact .next (.refl _ s)

theorem keeps_execCloseOverlay : Leads (execCloseOverlay s) (Keeps [.board] s) := by
  unfold execCloseOverlay
  split
  · exact .next (s.keeps_dropPlane.widen.trans (keeps_takeClose _))
  · exact .next (.refl _ s)

theorem keeps_execOpeningRow : Leads (execOpeningRow s) (Keeps [.board] s) := by
  unfold execOpeningRow
  split
  · split
    · exact .next (s.keeps_dropPlane.widen.trans (keeps_openingRow _ _ _))
    · exact .next (.refl _ s)
    · exact .next (.refl _ s)
  · exact .next (.refl _ s)

theorem keeps_execClosingRow : Leads (execClosingRow s) (Keeps [.board] s) := by
  unfold execClosingRow
  split
  · split
    · exact .next (s.keeps_dropPlane.widen.trans (keeps_closingRow _ _ _))
    · exact .next (.refl _ s)
    · exact .next (.refl _ s)
  · exact .next (.refl _ s)

theorem keeps_execCursorChange : Leads (execCursorChange s) (Keeps [.cursor] s) := by
  unfold execCursorChange
  split
  · exact .next (.refl _ s)
  · split
    · exact .next (.refl _ s)
    · exact .next s.keeps_setCursor

theorem keeps_execFrameScanStart : Leads (execFrameScanStart s) (Keeps [] s) := by
  unfold execFrameScanStart
  split
  · exact .next (.refl _ s)
  · exact Leads.ite s.keeps_setScan

end State

/-! ### Every command -/

/-- Every command answers with a state in which the queue and the parts that it does not write are kept. -/
theorem exec_leads (c : Instr) (s : State) : Leads (exec c s) (Keeps (written c) s) := by
  cases c with
  | hardwareReset => exact s.keeps_execHardwareReset
  | selectorWrite p v => exact s.keeps_execSelectorWrite p v
  | writeIgnored p v => exact .next (.refl _ s)
  | ringOn p v => exact Leads.ite (s.keeps_portControlWrite p v)
  | ringOff p v => exact Leads.ite (s.keeps_portControlWrite p v)
  | kick p v => exact Leads.ite (s.keeps_portControlWrite p v)
  | attnPendingClear p v => exact Leads.ite (s.keeps_modPort p _)
  | attnEnableWrite p v => exact Leads.ite (s.keeps_modPort p _)
  | ringBaseWrite p v => exact s.keeps_execRingBaseWrite p v
  | ringLengthWrite p v => exact s.keeps_execRingLengthWrite p v
  | counterClear p v => exact s.keeps_execCounterClear p v
  | start => exact Leads.ite (s.keeps_deviceControlWrite 1)
  | stop => exact Leads.ite (s.keeps_deviceControlWrite 2)
  | ignoredCommand v => exact Leads.ite (s.keeps_deviceControlWrite v)
  | setupAddressWrite v => exact s.keeps_execSetupAddressWrite v
  | raise v => exact Leads.ite (s.keeps_raiseWrite v)
  | probeSelect v => exact Leads.ite (.of_same rfl rfl)
  | attentionCauseSet p => exact s.keeps_execAttentionCauseSet p
  | memoryRequest q => exact s.keeps_execMemoryRequest q
  | busGrant => exact s.keeps_execBusGrant
  | transferAcknowledge data => exact s.keeps_execTransferAcknowledge data
  | responseLimitExpiry => exact s.keeps_execResponseLimitExpiry
  | statusReadEnd r => exact s.keeps_execStatusReadEnd r
  | bodyReadEnd r => exact s.keeps_execBodyReadEnd r
  | outcomeTaken r => exact s.keeps_execOutcomeTaken r
  | writeBackEnd r => exact s.keeps_execWriteBackEnd r
  | ringFetchFault r => exact s.keeps_execRingFetchFault r
  | writebackFault r => exact s.keeps_execWritebackFault r
  | ringFrameEvent r => exact s.keeps_execRingFrameEvent r
  | silent r => exact s.keeps_execSilent r
  | update => exact s.keeps_execUpdate
  | snapshot => exact s.keeps_execSnapshot
  | condition => exact s.keeps_execCondition
  | defineInstrument => exact s.keeps_execDefineInstrument
  | removeInstrument => exact s.keeps_execRemoveInstrument
  | setSources => exact s.keeps_execSetSources
  | renderQueueRoom => exact s.keeps_execRenderQueueRoom
  | bindingLookup => exact s.keeps_execBindingLookup
  | append => exact s.keeps_execAppend
  | removal => exact s.keeps_execRemoval
  | plainRender => exact s.keeps_execPlainRender
  | tickRender => exact s.keeps_execTickRender
  | resetRender => exact s.keeps_execResetRender
  | spanQueueRoom => exact s.keeps_execSpanQueueRoom
  | bindField => exact s.keeps_execBindField
  | lookupResult => exact s.keeps_execLookupResult
  | appendCompletion => exact s.keeps_execAppendCompletion
  | unbindField => exact s.keeps_execUnbindField
  | removalCompletion => exact s.keeps_execRemovalCompletion
  | moveField => exact s.keeps_execMoveField
  | styleField => exact s.keeps_execStyleField
  | setPen => exact s.keeps_execSetPen
  | expiry => exact s.keeps_execExpiry
  | sweepTrigger => exact s.keeps_execSweepTrigger
  | sweepStep => exact s.keeps_execSweepStep
  | repaint => exact s.keeps_execRepaint
  | armRequest => exact s.keeps_execArmRequest
  | removeRequest => exact s.keeps_execRemoveRequest
  | highlightExpiry => exact s.keeps_execHighlightExpiry
  | spanWrite => exact s.keeps_execSpanWrite
  | writeCells => exact s.keeps_execWriteCells
  | fillCells => exact s.keeps_execFillCells
  | setCursor => exact s.keeps_execSetCursor
  | cursorChange => exact s.keeps_execCursorChange
  | openOverlay => exact s.keeps_execOpenOverlay
  | closeOverlay => exact s.keeps_execCloseOverlay
  | openingRow => exact s.keeps_execOpeningRow
  | closingRow => exact s.keeps_execClosingRow
  | overlayEndReport => exact s.keeps_execOverlayEndReport
  | ringStoppedReport => exact s.keeps_execRingStoppedReport
  | setupReadEnd => exact s.keeps_execSetupReadEnd
  | fetchFault => exact s.keeps_execFetchFault
  | glyphReadEnd => exact s.keeps_execGlyphReadEnd
  | fontFault => exact s.keeps_execFontFault
  | glyphWrite => exact s.keeps_execGlyphWrite
  | frameScanStart => exact s.keeps_execFrameScanStart
  | frameEvent => exact Leads.ite s.keeps_raiseFrame
  | blinkPhaseChange => exact Leads.ite s.keeps_raiseFrame

theorem exec_keeps {c : Instr} {s t : State} (run : exec c s = .next t) : Keeps (written c) s t := by
  obtain ⟨u, answer, kept⟩ := exec_leads c s
  rw [run, Host.Outcome.next.injEq] at answer
  exact answer ▸ kept

/-- Settles O2: every command answers, and the queue is what each of them keeps. -/
theorem everyCommandAnswersAndKeepsQueue : Obligations.EveryCommandAnswersAndKeepsQueue := by
  intro c s
  obtain ⟨t, run, kept⟩ := exec_leads c s
  exact ⟨t, run, kept.queue⟩

end Sys2Proof.Machine

/-! How the device state moves, and which commands change the tables and the board: read off what every command keeps. -/

namespace Sys2Proof.Machine

open State (Keeps)
open Sys2Proof.Statement

/-- A command that may write a part unless it leaves it. -/
theorem writes_of_not_kept {c : Instr} {s t : State} {p : Part} (run : exec c s = .next t) (changed : ¬p.Kept s t) :
    p ∈ written c := by
  by_contra out
  exact changed ((exec_keeps run).parts p out)

/-! ### The device state (R189 to R193) -/

namespace State

variable {s : State}

theorem stopTest_device (s : State) :
    s.stopTest.control.device = s.control.device ∨
      (s.control.device = .stopping ∧ s.stopTest.control.device = .stopped) := by
  unfold stopTest
  split
  · next h => exact .inr ⟨h.1, rfl⟩
  · exact .inl rfl

/-- STOP taken in RUNNING leads to STOPPING, or at once through it to STOPPED. -/
theorem stopRunning_device (s : State) :
    s.stopRunning.control.device = .stopping ∨ s.stopRunning.control.device = .stopped := by
  have still (u : State) (r : RingId) : (u.offRequest r).control.device = u.control.device :=
    ((u.keeps_offRequest r).parts .start (by simp)).1
  unfold stopRunning
  dsimp only
  rcases stopTest_device _ with same | ⟨-, stopped⟩
  · left
    rw [same, still, still, still]
    simp [clearHighlights]
  · exact .inr stopped

/-- A write to DEVICE_CONTROL that changes the device state. -/
theorem deviceControlWrite_moves {v : Half} (moved : (s.deviceControlWrite v).control.device ≠ s.control.device) :
    (v.getLsbD 0 = true ∧ s.control.device = .stopped ∧ (s.deviceControlWrite v).control.device = .loading) ∨
    (v.getLsbD 0 = false ∧ s.control.device = .loading ∧ (s.deviceControlWrite v).control.device = .stopped) ∨
    (v.getLsbD 0 = false ∧ s.control.device = .running ∧
      ((s.deviceControlWrite v).control.device = .stopping ∨ (s.deviceControlWrite v).control.device = .stopped)) := by
  unfold deviceControlWrite at moved ⊢
  split
  · simp_all
  · next bit _ stopped => exact .inl ⟨bit, stopped, rfl⟩
  · next bit _ loading => exact .inr (.inl ⟨bit, loading, rfl⟩)
  · next bit _ running => exact .inr (.inr ⟨bit, running, s.stopRunning_device⟩)
  · simp_all [ignoreCommand]

/-- The commit ends in RUNNING. -/
theorem commit_device (s : State) (ws : List Word) : (s.commit ws).control.device = .running := by
  simp [commit, commitTrigger]

/-- A setup read that is taken ends the START, or goes on to the font. -/
theorem takeSetup_device (s : State) (ws : List Word) :
    (s.takeSetup ws).control.device = .stopped ∨ (s.takeSetup ws).control.device = .running ∨
      ∃ u : State, s.takeSetup ws = u.readGlyph 0 ∧ u.control.device = s.control.device ∧ u.video = s.video ∧
        u.plane = s.plane := by
  unfold takeSetup
  dsimp only
  split
  · exact .inl rfl
  · split
    · exact .inr (.inr ⟨_, rfl, rfl, rfl, rfl⟩)
    · exact .inr (.inl (commit_device _ _))

theorem readGlyph_device (s : State) (g : Nat) : (s.readGlyph g).control.device = s.control.device := rfl

end State

/-- A command that does something only when a condition holds, and has changed the device state, has done it. -/
theorem taken_of_moved {c : Prop} [Decidable c] {s t u : State}
    (run : (if c then .next u else .next s : Host.Outcome State Fault Refusal) = .next t)
    (moved : t.control.device ≠ s.control.device) : t = u := by
  split at run
  · exact (Host.Outcome.next.inj run).symm
  · exact absurd (congrArg (·.control.device) (Host.Outcome.next.inj run).symm) moved

/-- Settles O6: the commands that may write the device state, one by one. -/
theorem deviceStateMovesByTable : Obligations.DeviceStateMovesByTable := by
  intro c s t inv run moved
  have writes : .start ∈ written c := writes_of_not_kept run fun kept => moved kept.1
  cases c with
  | hardwareReset =>
    obtain rfl := Host.Outcome.next.inj run
    exact .inl ⟨rfl, rfl⟩
  | start =>
    obtain rfl := taken_of_moved run moved
    rcases State.deviceControlWrite_moves moved with ⟨-, before, after⟩ | ⟨bit, -⟩ | ⟨bit, -⟩
    · exact .inr (.inl ⟨before, after, .inl rfl⟩)
    · exact absurd bit (by decide)
    · exact absurd bit (by decide)
  | stop =>
    obtain rfl := taken_of_moved run moved
    rcases State.deviceControlWrite_moves moved with ⟨bit, -⟩ | ⟨-, before, after⟩ | ⟨-, before, after⟩
    · exact absurd bit (by decide)
    · exact .inr (.inr (.inr (.inl ⟨before, after, by simp⟩)))
    · exact .inr (.inr (.inr (.inr (.inl ⟨before, after, by simp⟩))))
  | ignoredCommand v =>
    obtain rfl := taken_of_moved run moved
    rcases State.deviceControlWrite_moves moved with ⟨-, before, after⟩ | ⟨-, before, after⟩ | ⟨-, before, after⟩
    · exact .inr (.inl ⟨before, after, by simp⟩)
    · exact .inr (.inr (.inr (.inl ⟨before, after, by simp⟩)))
    · exact .inr (.inr (.inr (.inr (.inl ⟨before, after, by simp⟩))))
  | ringStoppedReport =>
    simp only [exec, execRingStoppedReport] at run
    split at run
    · exact absurd (congrArg (·.control.device) (Host.Outcome.next.inj run).symm) moved
    · obtain rfl := Host.Outcome.next.inj run
      rcases State.stopTest_device _ with same | ⟨before, after⟩
      · exact absurd same moved
      · exact .inr (.inr (.inr (.inr (.inr ⟨before, after, .inl rfl⟩))))
  | overlayEndReport =>
    simp only [exec, execOverlayEndReport] at run
    split at run
    · exact absurd (congrArg (·.control.device) (Host.Outcome.next.inj run).symm) moved
    · obtain rfl := Host.Outcome.next.inj run
      rcases State.stopTest_device _ with same | ⟨before, after⟩
      · exact absurd same moved
      · exact .inr (.inr (.inr (.inr (.inr ⟨before, after, .inr rfl⟩))))
  | setupReadEnd =>
    simp only [exec, execSetupReadEnd] at run
    split at run
    · next stage =>
      have loading := inv.loading (.inl (by simp [stage]))
      obtain rfl := Host.Outcome.next.inj run
      rcases s.takeSetup_device _ with after | after | ⟨u, same, device, -⟩
      · exact .inr (.inr (.inr (.inl ⟨loading, after, by simp⟩)))
      · exact .inr (.inr (.inl ⟨loading, after, by simp⟩))
      · exact absurd (same ▸ device) moved
    · exact absurd (congrArg (·.control.device) (Host.Outcome.next.inj run).symm) moved
  | fetchFault =>
    simp only [exec, execFetchFault] at run
    split at run
    · next stage =>
      obtain rfl := Host.Outcome.next.inj run
      exact .inr (.inr (.inr (.inl ⟨inv.loading (.inl (by simp [stage])), rfl, by simp⟩)))
    · exact absurd (congrArg (·.control.device) (Host.Outcome.next.inj run).symm) moved
  | fontFault =>
    simp only [exec, execFontFault] at run
    split at run
    · next stage =>
      obtain rfl := Host.Outcome.next.inj run
      exact .inr (.inr (.inr (.inl ⟨inv.loading (.inl (by simp [stage])), rfl, by simp⟩)))
    · exact absurd (congrArg (·.control.device) (Host.Outcome.next.inj run).symm) moved
  | glyphReadEnd =>
    simp only [exec, execGlyphReadEnd] at run
    split at run <;> exact absurd (congrArg (·.control.device) (Host.Outcome.next.inj run).symm) moved
  | glyphWrite =>
    simp only [exec, execGlyphWrite] at run
    split at run
    · exact absurd (congrArg (·.control.device) (Host.Outcome.next.inj run).symm) moved
    · next w sent =>
      have loading := inv.loading (.inr (by simp [sent]))
      split at run
      · exact absurd (congrArg (·.control.device) (Host.Outcome.next.inj run).symm) moved
      · obtain rfl := Host.Outcome.next.inj run
        exact .inr (.inr (.inl ⟨loading, State.commit_device _ _, by simp⟩))
  | _ => simp [written] at writes

/-! ### The owners of the tables and of the board (R1, R88, R146) -/

/-- In LOADING no command of the Plane Controller or of the Field Unit is held and every overlay is OPEN. -/
structure State.CommandFree (s : State) : Prop where
  plane : ∀ q ∈ s.plane.inbox, q.isCommand = false
  field : ∀ q ∈ s.field.inbox, q.isCommand = false
  opened : ∀ o ∈ s.plane.stack, o.state = .opened

namespace State.CommandFree

variable {s : State}

theorem setPen (quiet : s.CommandFree) : execSetPen s = .next s := by
  unfold execSetPen
  split
  · next d front =>
    obtain ⟨_, rest, inbox⟩ := fieldFront_some front
    exact absurd (quiet.field (.setPen d) (by simp [inbox])) (by simp [FieldRequest.isCommand])
  · rfl

theorem writeCells (quiet : s.CommandFree) : execWriteCells s = .next s := by
  unfold execWriteCells
  split
  · next d rest inbox =>
    exact absurd (quiet.plane (.writeCells d) (by simp [inbox])) (by simp [PlaneRequest.isCommand])
  · rfl

theorem fillCells (quiet : s.CommandFree) : execFillCells s = .next s := by
  unfold execFillCells
  split
  · next d rest inbox =>
    exact absurd (quiet.plane (.fillCells d) (by simp [inbox])) (by simp [PlaneRequest.isCommand])
  · rfl

theorem openOverlay (quiet : s.CommandFree) : execOpenOverlay s = .next s := by
  unfold execOpenOverlay
  split
  · next d rest inbox =>
    exact absurd (quiet.plane (.openOverlay d) (by simp [inbox])) (by simp [PlaneRequest.isCommand])
  · rfl

theorem closeOverlay (quiet : s.CommandFree) : execCloseOverlay s = .next s := by
  unfold execCloseOverlay
  split
  · next rest inbox =>
    exact absurd (quiet.plane .closeOverlay (by simp [inbox])) (by simp [PlaneRequest.isCommand])
  · rfl

theorem top (quiet : s.CommandFree) {o : Overlay} (isTop : s.plane.topOverlay = some o) : o.state = .opened :=
  quiet.opened o (List.mem_of_getLast? isTop)

theorem openingRow (quiet : s.CommandFree) : execOpeningRow s = .next s := by
  unfold execOpeningRow
  split
  · next o _ isTop => simp [quiet.top isTop]
  · rfl

theorem closingRow (quiet : s.CommandFree) : execClosingRow s = .next s := by
  unfold execClosingRow
  split
  · next o _ isTop => simp [quiet.top isTop]
  · rfl

end State.CommandFree

/-- While the device stays LOADING, a glyph write changes the glyph store alone, and a setup read none of the board. -/
theorem execSetupReadEnd_board {s t : State} (run : execSetupReadEnd s = .next t) (_before : s.control.device = .loading)
    (after : t.control.device = .loading) : t.video = s.video ∧ t.plane = s.plane := by
  unfold execSetupReadEnd at run
  split at run
  · next ws _ _ =>
    obtain rfl := Host.Outcome.next.inj run
    rcases s.takeSetup_device ws with stopped | running | ⟨u, same, -, video, plane⟩
    · simp [stopped] at after
    · simp [running] at after
    · rw [same]; exact ⟨video, plane⟩
  · obtain rfl := Host.Outcome.next.inj run
    exact ⟨rfl, rfl⟩

theorem execGlyphWrite_board {s t : State} (run : execGlyphWrite s = .next t) (after : t.control.device = .loading) :
    t = s ∨ ∃ w g, t = (s.storeGlyph w).readGlyph g := by
  unfold execGlyphWrite at run
  split at run
  · exact .inl (Host.Outcome.next.inj run).symm
  · dsimp only at run
    split at run
    · exact .inr ⟨_, _, (Host.Outcome.next.inj run).symm⟩
    · obtain rfl := Host.Outcome.next.inj run
      simp [State.commit_device] at after

/-- Which parts of the picture a command leaves while the device stays LOADING: all but a glyph that is loaded and a
span write left over. -/
theorem kept_in_loading {c : Instr} {s t : State} (lawful : s.Lawful) (before : s.control.device = .loading)
    (run : exec c s = .next t) (after : t.control.device = .loading) {p : Part}
    (shown : p ∈ [Part.board, .picture, .glyphs, .pens, .cursor]) :
    p.Kept s t ∨ (p = .glyphs ∧ c = .glyphWrite) ∨ (p = .board ∧ c = .spanWrite ∧ Config.spansWaitInLoading = false) := by
  by_cases out : p ∈ written c
  swap
  · exact .inl ((exec_keeps run).parts p out)
  have quiet : s.CommandFree := by
    obtain ⟨plane, field, opened⟩ := lawful.each.quietInLoading before
    exact ⟨plane, field, opened⟩
  have same (still : exec c s = .next s) : p.Kept s t := by
    obtain rfl := Host.Outcome.next.inj (run.symm.trans still)
    exact .refl p t
  cases c with
  | hardwareReset =>
    obtain rfl := Host.Outcome.next.inj run
    exact absurd after DeviceState.noConfusion
  | setupReadEnd =>
    obtain ⟨video, plane⟩ := execSetupReadEnd_board run before after
    left
    cases p with
    | board | picture | glyphs | pens | cursor => simp [Part.Kept, video, plane]
    | _ => simp at shown
  | glyphWrite =>
    rcases execGlyphWrite_board run after with rfl | ⟨w, g, rfl⟩
    · exact .inl (.refl p t)
    · cases p with
      | glyphs => exact .inr (.inl ⟨rfl, rfl⟩)
      | board | picture | pens | cursor => exact .inl (by simp [Part.Kept, State.readGlyph, State.storeGlyph])
      | _ => simp at shown
  | spanWrite =>
    have board : p = .board := by simpa [written] using out
    cases waits : Config.spansWaitInLoading with
    | true =>
      refine .inl (same ?_)
      simp only [exec, execSpanWrite, State.spansWait, before, waits]
      split <;> rfl
    | false => exact .inr (.inr ⟨board, rfl, rfl⟩)
  | cursorChange =>
    refine .inl (same ?_)
    simp only [exec, execCursorChange, before, if_true]
    split <;> rfl
  | setPen => exact .inl (same quiet.setPen)
  | writeCells => exact .inl (same quiet.writeCells)
  | fillCells => exact .inl (same quiet.fillCells)
  | openOverlay => exact .inl (same quiet.openOverlay)
  | closeOverlay => exact .inl (same quiet.closeOverlay)
  | openingRow => exact .inl (same quiet.openingRow)
  | closingRow => exact .inl (same quiet.closingRow)
  | _ =>
    simp only [List.mem_cons, List.not_mem_nil, or_false] at shown
    rcases shown with rfl | rfl | rfl | rfl | rfl <;> simp [written] at out

/-- Settles O7: the first two parts are the commands that do not write the part; the third is `kept_in_loading`. -/
theorem tablesChangedOnlyByTheirOwners : Obligations.TablesChangedOnlyByTheirOwners := by
  refine ⟨fun c s t run other => ?_, fun c s t run other => ?_, fun c s t lawful before run after => ?_⟩
  · refine (exec_keeps run).parts .instruments fun writes => other ?_
    cases c <;> simp [written, State.commitParts] at writes ⊢
  · refine (exec_keeps run).parts .board fun writes => other ?_
    cases c <;> simp [written] at writes ⊢
  · have kept {p : Part} := kept_in_loading lawful before run after (p := p)
    obtain ⟨palette, height, shown⟩ : Part.Kept .picture s t := by simpa using kept (p := .picture) (by simp)
    have pens : Part.Kept .pens s t := by simpa using kept (p := .pens) (by simp)
    have cursor : Part.Kept .cursor s t := by simpa using kept (p := .cursor) (by simp)
    refine ⟨palette, pens, height, cursor, shown, fun other => ?_, ?_⟩
    · have glyphs : Part.Kept .glyphs s t := by simpa [other] using kept (p := .glyphs) (by simp)
      exact glyphs
    · have board := kept (p := .board) (by simp)
      simpa [Part.Kept] using board

end Sys2Proof.Machine

/-! The overlay stack: its save regions lie one after another, and the operations of the Plane Controller keep them so
(R101 to R110). -/

namespace Sys2Proof.Machine

/-! ### The regions of a stack -/

/-- How many save cells a list of overlays takes. -/
def saveCells (l : List Overlay) : Nat := (l.map Overlay.area).sum

@[simp] theorem saveCells_append (l : List Overlay) (o : Overlay) : saveCells (l ++ [o]) = saveCells l + o.area := by
  simp [saveCells]

theorem regionsFrom_append (o : Overlay) : ∀ (l : List Overlay) (n : Nat),
    regionsFrom n (l ++ [o]) = true ↔ regionsFrom n l = true ∧ o.offset = n + saveCells l
  | [], n => by simp [regionsFrom, saveCells]
  | v :: rest, n => by
    have ih := regionsFrom_append o rest (n + v.area)
    simp only [List.cons_append, regionsFrom, Bool.and_eq_true, decide_eq_true_eq, ih, saveCells, List.map_cons, List.sum_cons,
      Nat.add_assoc, and_assoc]

theorem PlaneController.topOverlay_some {p : PlaneController} {o : Overlay} (isTop : p.topOverlay = some o) :
    p.stack = p.stack.dropLast ++ [o] :=
  (List.dropLast_append_getLast? _ isTop).symm

/-- The slots in use are those of all the overlays. -/
theorem PlaneController.inUse_eq {p : PlaneController} (regions : regionsFrom 0 p.stack = true) :
    p.inUse = saveCells p.stack := by
  unfold inUse
  split
  · next empty =>
    have : p.stack = [] := by simpa [topOverlay] using empty
    simp [this, saveCells]
  · next o isTop =>
    have split := topOverlay_some isTop
    rw [split] at regions ⊢
    rw [((regionsFrom_append _ _ _).mp regions).2, saveCells_append, Nat.zero_add]

/-- A stack whose regions lie one after another and fit into the save area, with rectangles within the geometry. -/
theorem PlaneController.stackOk_iff {p : PlaneController} :
    p.StackOk ↔ p.stack.length ≤ 4 ∧ regionsFrom 0 p.stack = true ∧ saveCells p.stack ≤ 3072 ∧
      ∀ o ∈ p.stack, p.Holds o := by
  constructor
  · intro ok
    exact ⟨ok.depth, ok.regions, inUse_eq ok.regions ▸ ok.room, ok.rectangles⟩
  · rintro ⟨depth, regions, room, rectangles⟩
    exact ⟨depth, regions, inUse_eq regions ▸ room, rectangles⟩

theorem PlaneController.stackOk_nil {p : PlaneController} (empty : p.stack = []) : p.StackOk :=
  stackOk_iff.mpr (by simp [empty, regionsFrom, saveCells])

/-- A new overlay on top: its region begins where the last one ends. -/
theorem PlaneController.StackOk.push {p : PlaneController} (ok : p.StackOk) {o : Overlay} (depth : p.stack.length ≠ 4)
    (offset : o.offset = p.inUse) (room : p.inUse + o.area ≤ 3072) (holds : p.Holds o) :
    ({ p with stack := p.stack ++ [o] } : PlaneController).StackOk := by
  obtain ⟨less, regions, -, rectangles⟩ := stackOk_iff.mp ok
  rw [inUse_eq regions] at offset room
  refine stackOk_iff.mpr ⟨?_, (regionsFrom_append _ _ _).mpr ⟨regions, by simpa using offset⟩,
    by simpa using room, fun v hv => ?_⟩
  · simp only [List.length_append, List.length_cons, List.length_nil]; omega
  · rcases List.mem_append.mp hv with old | new
    · exact rectangles v old
    · rw [List.mem_singleton.mp new]; exact holds

/-- The stack without its top. -/
theorem PlaneController.StackOk.pop {p : PlaneController} (ok : p.StackOk) :
    ({ p with stack := p.stack.dropLast } : PlaneController).StackOk := by
  cases isTop : p.topOverlay with
  | none =>
    have empty : p.stack = [] := by simpa [topOverlay] using isTop
    exact stackOk_nil (by simp [empty])
  | some o =>
    have split := topOverlay_some isTop
    obtain ⟨depth, regions, room, rectangles⟩ := stackOk_iff.mp ok
    rw [split] at depth regions room
    refine stackOk_iff.mpr ⟨?_, ((regionsFrom_append _ _ _).mp regions).1, ?_, fun v hv => ?_⟩
    · simp only [List.length_append, List.length_cons, List.length_nil] at depth ⊢; omega
    · simp only [saveCells_append] at room ⊢; omega
    · exact rectangles v (List.mem_of_mem_dropLast hv)

theorem PlaneController.inUse_dropLast {p : PlaneController} (ok : p.StackOk) {o : Overlay} (isTop : p.topOverlay = some o) :
    saveCells p.stack.dropLast = o.offset ∧ o.offset + o.area ≤ 3072 ∧ p.stack.dropLast.length < 4 ∧ p.Holds o := by
  have split := topOverlay_some isTop
  obtain ⟨depth, regions, room, rectangles⟩ := stackOk_iff.mp ok
  have holds : p.Holds o := rectangles o (List.mem_of_getLast? isTop)
  rw [split] at depth regions room
  have offset := ((regionsFrom_append _ _ _).mp regions).2
  simp only [saveCells_append, List.length_append, List.length_cons, List.length_nil] at depth room
  exact ⟨by omega, by omega, by omega, holds⟩

/-- The top with another state. -/
theorem PlaneController.StackOk.setTop {p : PlaneController} (ok : p.StackOk) {o : Overlay} (isTop : p.topOverlay = some o)
    (st : OverlayState) : (p.setTop { o with state := st }).StackOk := by
  obtain ⟨offset, room, depth, holds⟩ := inUse_dropLast ok isTop
  obtain ⟨-, regions, -, rectangles⟩ := stackOk_iff.mp ok.pop
  refine stackOk_iff.mpr ⟨?_, (regionsFrom_append _ _ _).mpr ⟨regions, by simp [offset]⟩, ?_, fun v hv => ?_⟩
  · simp only [PlaneController.setTop, List.length_append, List.length_cons, List.length_nil]; omega
  · have area : Overlay.area { o with state := st } = o.area := rfl
    simp only [PlaneController.setTop, saveCells_append, offset, area]; exact room
  · rcases List.mem_append.mp hv with old | new
    · exact rectangles v old
    · rw [List.mem_singleton.mp new]; exact holds

/-! ### The board under the operations of the Plane Controller -/

/-- What the invariant says of the board. -/
abbrev PlaneController.BoardOk (p : PlaneController) : Prop :=
  Tab.WF cellSpec p.cells ∧ Tab.WF saveSpec p.save ∧ p.StackOk ∧ ∀ g, p.geometry = some g → g.Legal

/-- A change of cells and save area alone that keeps their canonical form. -/
theorem PlaneController.BoardOk.rewrite {p q : PlaneController} (ok : p.BoardOk)
    (frame : q = { p with cells := q.cells, save := q.save }) (cells : Tab.WF cellSpec q.cells)
    (save : Tab.WF saveSpec q.save) : q.BoardOk := by
  obtain ⟨-, -, stack, legal⟩ := ok
  have sameStack : q.stack = p.stack := congrArg (·.stack) frame
  have sameGeometry : q.geometry = p.geometry := congrArg (·.geometry) frame
  exact ⟨cells, save, stack.congr sameStack sameGeometry, sameGeometry ▸ legal⟩

/-- The requests held make no difference to the board. -/
theorem PlaneController.BoardOk.inbox {p : PlaneController} (ok : p.BoardOk) (qs : List PlaneRequest) :
    ({ p with inbox := qs } : PlaneController).BoardOk := by
  obtain ⟨cells, save, stack, legal⟩ := ok
  exact ⟨cells, save, stack.congr rfl rfl, legal⟩

/-- What writing the cells of a row leaves, for a write of one cell that changes cells and save area alone. -/
theorem PlaneController.foldl_frame {f : PlaneController → Nat → PlaneController}
    (frame : ∀ p c, f p c = { p with cells := (f p c).cells, save := (f p c).save }) : ∀ (cs : List Nat) (p : PlaneController),
    cs.foldl f p = { p with cells := (cs.foldl f p).cells, save := (cs.foldl f p).save }
  | [], _ => rfl
  | c :: rest, p => by
    have ih := foldl_frame frame rest (f p c)
    rw [List.foldl_cons, ih, frame p c]

theorem PlaneController.foldl_wf {f : PlaneController → Nat → PlaneController}
    (wf : ∀ p c, Tab.WF cellSpec p.cells ∧ Tab.WF saveSpec p.save →
      Tab.WF cellSpec (f p c).cells ∧ Tab.WF saveSpec (f p c).save) :
    ∀ (cs : List Nat) (p : PlaneController), Tab.WF cellSpec p.cells ∧ Tab.WF saveSpec p.save →
      Tab.WF cellSpec (cs.foldl f p).cells ∧ Tab.WF saveSpec (cs.foldl f p).save
  | [], _, h => h
  | c :: rest, p, h => foldl_wf wf rest (f p c) (wf p c h)

theorem PlaneController.BoardOk.saveRow {p : PlaneController} (ok : p.BoardOk) (o : Overlay) (row : Nat) :
    (o.columnList.foldl (o.saveCell row) p).BoardOk := by
  obtain ⟨cells, save⟩ := foldl_wf (f := o.saveCell row) (fun q c h =>
    ⟨putCell_wf _ _ _ _ h.1, putSave_wf q _ _ h.2⟩) o.columnList p ⟨ok.1, ok.2.1⟩
  exact ok.rewrite (foldl_frame (fun _ _ => rfl) _ _) cells save

theorem PlaneController.BoardOk.restoreRow {p : PlaneController} (ok : p.BoardOk) (o : Overlay) (row : Nat) :
    (o.columnList.foldl (o.restoreCell row) p).BoardOk := by
  obtain ⟨cells, save⟩ := foldl_wf (f := o.restoreCell row) (fun q c h =>
    ⟨putCell_wf _ _ _ _ h.1, h.2⟩) o.columnList p ⟨ok.1, ok.2.1⟩
  exact ok.rewrite (foldl_frame (fun _ _ => rfl) _ _) cells save

theorem PlaneController.topOverlay_saveRow (p : PlaneController) (o : Overlay) (row : Nat) :
    (o.columnList.foldl (o.saveCell row) p).topOverlay = p.topOverlay := by
  rw [foldl_frame (f := o.saveCell row) fun _ _ => rfl]; rfl

theorem PlaneController.topOverlay_restoreRow (p : PlaneController) (o : Overlay) (row : Nat) :
    (o.columnList.foldl (o.restoreCell row) p).topOverlay = p.topOverlay := by
  rw [foldl_frame (f := o.restoreCell row) fun _ _ => rfl]; rfl

theorem PlaneController.BoardOk.setTop {p : PlaneController} (ok : p.BoardOk) {o : Overlay} (isTop : p.topOverlay = some o)
    (st : OverlayState) : (p.setTop { o with state := st }).BoardOk := by
  obtain ⟨cells, save, stack, legal⟩ := ok
  exact ⟨cells, save, stack.setTop isTop st, legal⟩

namespace State

variable {s : State}

theorem takeSpan_board (ok : s.plane.BoardOk) (w : SpanWrite) : (s.takeSpan w).plane.BoardOk := by
  obtain ⟨cells, save⟩ := PlaneController.spanFrom_wf w.row w.cells s.dropPlane.plane w.col ok.1 ok.2.1
  refine PlaneController.BoardOk.rewrite (p := s.dropPlane.plane) (ok.inbox _) ?_ cells save
  exact PlaneController.spanFrom_frame _ _ _ _

theorem takeText_board (ok : s.plane.BoardOk) (d : Descriptor) (vals : Option (List CellValue)) :
    (s.takeText d vals).plane.BoardOk := by
  unfold takeText
  split
  · split
    · exact ok
    · split
      · exact ok
      · obtain ⟨cells, save⟩ := Walk.run_wf s.field.occupancy _ _ (d.textRow * s.plane.columns + d.textCol) ⟨s.plane, 0, 0⟩
          ok.1 ok.2.1
        exact ok.rewrite (Walk.run_frame _ _ _ _ _) cells save
  · exact ok

theorem takeOpen_board (ok : s.plane.BoardOk) (d : Descriptor) : (s.takeOpen d).plane.BoardOk := by
  unfold takeOpen
  dsimp only
  split
  · exact ok
  · next passes =>
    obtain ⟨cells, save, stack, legal⟩ := ok
    refine ⟨cells, save, ?_, legal⟩
    simp only [PlaneController.openFailure] at passes
    split_ifs at passes with range depth room
    have holds : s.plane.Holds (s.plane.newOverlay d) := by
      simp only [PlaneController.Holds]; omega
    have inUse := stack.room
    have offset : (s.plane.newOverlay d).offset = s.plane.inUse := rfl
    exact (stack.push depth offset (by omega) holds).congr rfl rfl

theorem takeClose_board (ok : s.plane.BoardOk) : s.takeClose.plane.BoardOk := by
  unfold takeClose
  split
  · exact ok
  · next isTop => exact (PlaneController.BoardOk.setTop ok isTop _).inbox _

theorem openingRow_board (ok : s.plane.BoardOk) {o : Overlay} (isTop : s.plane.topOverlay = some o) (k : Nat) :
    (s.openingRow o k).plane.BoardOk := by
  have row := ok.saveRow o (o.top + k)
  have top := (s.plane.topOverlay_saveRow o (o.top + k)).trans isTop
  unfold openingRow
  dsimp only
  split
  · exact (row.setTop top _).inbox _
  · exact row.setTop top _

theorem closingRow_board (ok : s.plane.BoardOk) {o : Overlay} (isTop : s.plane.topOverlay = some o) (k : Nat) :
    (s.closingRow o k).plane.BoardOk := by
  have row := ok.restoreRow o (o.top + k)
  have top := (s.plane.topOverlay_restoreRow o (o.top + k)).trans isTop
  unfold closingRow
  dsimp only
  split
  · exact (row.setTop top _).inbox _
  · obtain ⟨cells, save, stack, legal⟩ := row
    exact ⟨cells, save, stack.pop, legal⟩

end State
end Sys2Proof.Machine

/-! Every step keeps the invariant: the parts that a command writes are left within it. -/

namespace Sys2Proof.Machine

open State (Keeps)
open Sys2Proof.Statement

/-! ### The instrument table -/

namespace State

variable {s : State}

/-- The instrument table and its heads in canonical form. -/
abbrev InstrumentsOk (s : State) : Prop := Part.Ok .instruments s

theorem InstrumentsOk.of_same {s t : State} (ok : s.InstrumentsOk) (same : t.quote.slots = s.quote.slots ∧
    t.quote.heads = s.quote.heads) : t.InstrumentsOk := Part.Kept.ok (p := .instruments) same ok

theorem InstrumentsOk.setSlot (ok : s.InstrumentsOk) (i : Nat) (v : Slot) : (s.setSlot i v).InstrumentsOk :=
  ⟨Tab.set_wf _ _ _ _ ok.1, ok.2⟩

theorem InstrumentsOk.quoteFinish (ok : s.InstrumentsOk) (renders : List RenderRequest) (r : RingId) (st : Status)
    (w : Word) : (s.quoteFinish renders r st w).InstrumentsOk :=
  ((s.keeps_quoteFinish renders r st w).parts .instruments (by simp)).ok ok

theorem InstrumentsOk.acceptApply (ok : s.InstrumentsOk) (r : RingId) (i : Nat) (v : Slot) (renders : List RenderRequest)
    (st : Status) : (s.acceptApply r i v renders st).InstrumentsOk := (ok.setSlot i v).quoteFinish _ _ _ _

theorem InstrumentsOk.takeUpdate (ok : s.InstrumentsOk) (r : RingId) (d : Descriptor) : (s.takeUpdate r d).InstrumentsOk := by
  unfold State.takeUpdate
  split
  · exact ok
  · split
    · exact ok
    · exact ok.acceptApply _ _ _ _ _

theorem InstrumentsOk.takeSnapshot (ok : s.InstrumentsOk) (r : RingId) (d : Descriptor) :
    (s.takeSnapshot r d).InstrumentsOk := by
  unfold State.takeSnapshot
  split
  · exact ok
  · split
    · exact ok
    · exact ok.acceptApply _ _ _ _ _

theorem InstrumentsOk.takeCondition (ok : s.InstrumentsOk) (r : RingId) (d : Descriptor) :
    (s.takeCondition r d).InstrumentsOk := by
  unfold State.takeCondition
  split
  · exact ok
  · split
    · exact ok
    · exact ok.acceptApply _ _ _ _ _

theorem InstrumentsOk.occupy (ok : s.InstrumentsOk) (i : Nat) (key : Word) (mask : PerRing Bool) :
    (s.occupy i key mask).InstrumentsOk := by
  obtain ⟨slots, heads⟩ := QuoteEngine.link_wf (bucketOf key) i ok.1 ok.2
  exact ⟨Tab.set_wf _ _ _ _ slots, heads⟩

theorem InstrumentsOk.freeSlot (ok : s.InstrumentsOk) (i : Nat) (key : Word) (pos : Nat) :
    (s.freeSlot i key pos).InstrumentsOk := by
  obtain ⟨slots, heads⟩ := QuoteEngine.unlink_wf (bucketOf key) i pos ok.1 ok.2
  exact ⟨Tab.set_wf _ _ _ _ slots, heads⟩

theorem InstrumentsOk.takeDefine (ok : s.InstrumentsOk) (d : Descriptor) : (s.takeDefine d).InstrumentsOk := by
  unfold State.takeDefine
  dsimp only
  split
  · exact ok
  · split
    · exact ok
    · split
      · exact ok
      · exact ok.occupy _ _ _

theorem InstrumentsOk.takeRemove (ok : s.InstrumentsOk) (d : Descriptor) : (s.takeRemove d).InstrumentsOk := by
  unfold State.takeRemove
  dsimp only
  split
  · exact ok
  · split
    · exact ok
    · exact ok.freeSlot _ _ _

theorem InstrumentsOk.takeSetSources (ok : s.InstrumentsOk) (d : Descriptor) : (s.takeSetSources d).InstrumentsOk := by
  unfold State.takeSetSources
  dsimp only
  split
  · exact ok
  · split
    · exact ok
    · exact (ok.setSlot _ _).quoteFinish _ _ _ _

theorem InstrumentsOk.unbind (ok : s.InstrumentsOk) (f : Nat) :
    ({ s with quote := s.quote.unbind f } : State).InstrumentsOk :=
  ⟨Tab.mapListed_wf slotSpec (fun v => { v with bindings := v.bindings.filter fun g => decide (g ≠ f) }) _ ok.1, ok.2⟩

/-! ### The START under way -/

/-- No START is under way. -/
def NoStart (s : State) : Prop := s.control.stage = .idle ∧ s.video.glyphWrite = none

theorem Inv.noStart (inv : s.Inv) (notLoading : s.control.device ≠ .loading) : s.NoStart := by
  constructor
  · by_contra stage
    exact notLoading (inv.loading (.inl stage))
  · by_contra sent
    exact notLoading (inv.loading (.inr sent))

theorem NoStart.ok (none : s.NoStart) : Part.Ok .start s := by
  obtain ⟨stage, sent⟩ := none
  simp [Part.Ok, fontUnderWay, stage, sent]

theorem NoStart.keeps {t : State} (none : s.NoStart) (kept : Keeps [] s t) : t.NoStart := by
  obtain ⟨-, stage, -, sent⟩ := kept.parts .start (by simp)
  exact ⟨stage.trans none.1, sent.trans none.2⟩

theorem NoStart.stopTest (none : s.NoStart) : s.stopTest.NoStart := by
  unfold State.stopTest
  split <;> exact none

theorem NoStart.stopRunning (none : s.NoStart) : s.stopRunning.NoStart := by
  have cleared : ({ s with control := { s.control with device := .stopping, ignored := false } }.clearHighlights.abandonSweep).NoStart := by
    refine NoStart.keeps ?_ ((keeps_clearHighlights _).trans (keeps_abandonSweep _))
    exact none
  exact (cleared.keeps ((((keeps_fieldFinish _).trans (keeps_offRequest _ _)).trans (keeps_offRequest _ _)).trans
    (keeps_offRequest _ _))).stopTest

theorem noStart_endStart (s : State) (d : DeviceState) (o : StartOutcome) : (s.endStart d o).NoStart := ⟨rfl, rfl⟩

theorem startOk_deviceControlWrite (inv : s.Inv) (v : Half) : Part.Ok .start (s.deviceControlWrite v) := by
  unfold deviceControlWrite
  split
  · exact State.inv_iff.mp inv .start
  · next stopped =>
    obtain ⟨-, sent⟩ := inv.noStart (by simp [stopped])
    simp [Part.Ok, takeStart, fontUnderWay, sent]
  · exact (noStart_endStart _ _ _).ok
  · next running => exact (inv.noStart (by simp [running])).stopRunning.ok
  · exact State.inv_iff.mp inv .start

/-- The test that ends STOPPING finds no START under way where it changes anything. -/
theorem startOk_stopTest (inv : s.Inv) : Part.Ok .start s.stopTest := by
  unfold stopTest
  split
  · next h =>
    have none : (s.setDevice .stopped).NoStart := inv.noStart (by simp [h.1])
    exact none.ok
  · exact State.inv_iff.mp inv .start

/-- The read of a glyph for a setup block that passed the checks. -/
theorem startOk_readGlyph (loading : s.control.device = .loading) (checked : setupFailure s.control.block = none)
    (g : Nat) : Part.Ok .start (s.readGlyph g) := ⟨fun _ => loading, fun _ => checked⟩

/-! ### The commit -/

/-- The geometry and the half-period of a setup block that passes the checks. -/
theorem legal_of_setupFailure {ws : List Word} (passes : setupFailure ws = none) :
    (setupGeometry ws).Legal ∧ 2 ≤ setupByte ws 3 := by
  simp only [setupFailure] at passes
  split_ifs at passes
  simp only [Geometry.Legal, setupGeometry]
  omega

theorem inv_regeometry (inv : s.Inv) {g : Geometry} (legal : g.Legal) : (s.regeometry g).Inv := by
  have kept : Keeps [.board, .cursor] s (s.regeometry g) := by
    refine ⟨rfl, fun p hp => ?_⟩
    cases p with
    | board | cursor => simp at hp
    | fields => exact fun ok => ⟨Tab.mapListed_wf fieldSpec (FieldRec.regeometry g) _ ok.1, occupancyOf_wf _ _⟩
    | _ => simp [Part.Kept, Part.Ok, State.regeometry, FieldUnit.regeometry]
  refine kept.inv inv fun p hp => ?_
  cases p with
  | board =>
    refine ⟨?_, inv.stores.save, PlaneController.stackOk_nil rfl, fun h same => Option.some.inj same ▸ legal⟩
    simp only [State.regeometry, PlaneController.regeometry]
    exact Tab.filled_wf cellSpec ⟨32, 0⟩
  | cursor => trivial
  | _ => simp at hp

theorem setupRingBase_mod (ws : List Word) : (setupRingBase ws).toNat % 64 = 0 := alignBase_mod (ws.getD 3 0)

theorem ringOk_commit {u : RingUnit} (ok : u.Ok) (ws : List Word) : (u.commit ws).Ok :=
  ⟨setupRingBase_mod ws, ok.phase, fun _ => length_pos _, ok.silence⟩

theorem inv_commitShares (inv : s.Inv) {ws : List Word} (passes : setupFailure ws = none) : (s.commitShares ws).Inv := by
  have kept : Keeps [.picture, .pens, .rings, .blink] s (s.commitShares ws) := by
    refine ⟨rfl, fun p hp => ?_⟩
    cases p with
    | picture | pens | rings | blink => simp at hp
    | _ => simp [Part.Kept, Part.Ok, commitShares, VideoGenerator.commit]
  refine kept.inv inv fun p hp => ?_
  cases p with
  | picture | pens => trivial
  | rings =>
    have limited {u : RingUnit} (ok : u.Ok) (n : Nat) : ({ u with silenceLimit := n } : RingUnit).Ok :=
      ⟨ok.base, ok.phase, ok.index, ok.silence⟩
    intro r
    cases r with
    | a => exact limited inv.ringA _
    | b => exact limited inv.ringB _
    | t => exact ringOk_commit inv.ringT ws
  | blink =>
    obtain ⟨-, half⟩ := legal_of_setupFailure passes
    exact fun _ => ⟨show 0 < setupByte ws 3 by omega, half⟩
  | _ => simp at hp

theorem inv_endStart (inv : s.Inv) {d : DeviceState} (o : StartOutcome) (stays : s.control.device = .running → d = .running) :
    (s.endStart d o).Inv :=
  (s.keeps_endStart o stays).inv inv fun p hp => by
    obtain rfl := List.mem_singleton.mp hp
    exact (noStart_endStart _ _ _).ok

theorem keeps_startRing (s : State) (r : RingId) : Keeps [] s (s.startRing r) := by
  unfold startRing
  split
  · exact s.keeps_enterReady r
  · exact .refl _ s

theorem inv_commit (inv : s.Inv) {ws : List Word} (passes : setupFailure ws = none) : (s.commit ws).Inv := by
  have geometry : (if s.geometryDiffers ws then s.regeometry (setupGeometry ws) else s).Inv := by
    split
    · exact inv_regeometry inv (legal_of_setupFailure passes).1
    · exact inv
  have running := inv_endStart (inv_commitShares geometry passes) .done fun _ => rfl
  have trigger (u : State) : Keeps [] u u.commitTrigger := .of_same rfl rfl
  have rest (u : State) : Keeps [] u
      (((((u.sendCause .a .device).sendCause .b .device).commitTrigger.startRing .a).startRing .b).startRing .t) :=
    (((((u.keeps_sendCause _ _).trans (keeps_sendCause _ _ _)).trans (trigger _)).trans (keeps_startRing _ _)).trans
      (keeps_startRing _ _)).trans (keeps_startRing _ _)
  exact (rest _).inv running (by simp)

/-! ### The Setup Loader -/

theorem inv_takeSetup (inv : s.Inv) (loading : s.control.device = .loading) (ws : List Word) : (s.takeSetup ws).Inv := by
  have drops : Keeps [] s { s with control := { s.control with loaderInput := none } } := .of_same rfl rfl
  have dropped := drops.inv inv (by simp)
  unfold takeSetup
  dsimp only
  split
  · exact inv_endStart dropped _ fun running => by simp [loading] at running
  · next passes =>
    split
    · have kept : Keeps [.start] s (readGlyph { s with control := { s.control with loaderInput := none, block := ws } } 0) := by
        refine ⟨rfl, fun p hp => ?_⟩
        cases p with
        | start => simp at hp
        | _ => simp [Part.Kept, Part.Ok, readGlyph]
      refine kept.inv inv fun p hp => ?_
      obtain rfl := List.mem_singleton.mp hp
      exact startOk_readGlyph (by exact loading) (by exact passes) 0
    · exact inv_commit dropped passes

theorem inv_storeGlyph (inv : s.Inv) (w : GlyphWrite) : (s.storeGlyph w).Inv := by
  have kept : Keeps [.glyphs, .start] s (s.storeGlyph w) := by
    refine ⟨rfl, fun p hp => ?_⟩
    cases p with
    | glyphs | start => simp at hp
    | _ => simp [Part.Kept, Part.Ok, storeGlyph]
  refine kept.inv inv fun p hp => ?_
  cases p with
  | glyphs => exact Tab.set_wf _ _ _ _ inv.stores.glyphs
  | start =>
    refine ⟨fun h => inv.loading (h.imp_right fun sent => absurd rfl sent), fun font => inv.checked ?_⟩
    simp only [fontUnderWay, storeGlyph, Option.isSome_none, Bool.false_or] at font
    simp [fontUnderWay, font]
  | _ => simp at hp

end State

/-! ### Reset -/

theorem ringOk_reset : RingUnit.reset.Ok := ⟨by decide, by decide, by simp [RingUnit.reset], by decide⟩

theorem reset_inv : State.reset.Inv := by
  refine State.inv_iff.mpr fun p => ?_
  cases p with
  | instruments => exact ⟨Tab.nil_wf _, Tab.nil_wf _⟩
  | board => exact ⟨Tab.nil_wf _, Tab.nil_wf _, PlaneController.stackOk_nil rfl, fun g h => by cases h⟩
  | glyphs => exact Tab.nil_wf _
  | start => exact State.NoStart.ok ⟨rfl, rfl⟩
  | rings => exact fun r => by cases r <;> exact ringOk_reset
  | fields => exact ⟨Tab.nil_wf _, Tab.nil_wf _⟩
  | sweep => exact fun _ => rfl
  | highlights => exact fun _ => ⟨rfl, fun q h => by cases h⟩
  | blink => exact fun shown => by cases shown
  | picture | pens | cursor => trivial

/-- Settles O4: the invariant by its parts, the laws from the earlier laws of reset. -/
theorem resetMeetsInvariant : Obligations.ResetMeetsInvariant := ⟨reset_inv, reset_sound.lawful reset_oneEach⟩

/-! ### Every command -/

/-- The queue, the count of free values and RESET make no difference to the invariant. -/
theorem State.Inv.around {s : State} (inv : s.Inv) (held : Bool) (count : Nat) (queue : List Instr) :
    ({ s with resetHeld := held, freeCount := count, pending := queue } : State).Inv := by
  refine State.inv_iff.mpr fun p => ?_
  have ok := State.inv_iff.mp inv p
  cases p <;> exact ok

/-- An outcome that a command ends in. -/
theorem inv_next {s t : State} (run : (.next s : Host.Outcome State Fault Refusal) = .next t) (inv : s.Inv) : t.Inv :=
  Host.Outcome.next.inj run ▸ inv

/-- A command that writes one part and leaves that part within the invariant. -/
theorem inv_of_part {s t : State} {p : Part} (inv : s.Inv) (kept : Keeps [p] s t) (ok : p.Ok t) : t.Inv :=
  kept.inv inv fun q hq => by
    obtain rfl := List.mem_singleton.mp hq
    exact ok

namespace State

variable {s t : State}

theorem inv_setupReadEnd (inv : s.Inv) (run : execSetupReadEnd s = .next t) : t.Inv := by
  unfold execSetupReadEnd at run
  split at run
  · next stage => exact inv_next run (inv_takeSetup inv (inv.loading (.inl (by simp [stage]))) _)
  · exact inv_next run inv

theorem inv_fetchFault (inv : s.Inv) (run : execFetchFault s = .next t) : t.Inv := by
  unfold execFetchFault at run
  split at run
  · next stage =>
    have loading := inv.loading (.inl (by simp [stage]))
    exact inv_next run (inv_endStart inv _ fun running => by simp [loading] at running)
  · exact inv_next run inv

theorem inv_fontFault (inv : s.Inv) (run : execFontFault s = .next t) : t.Inv := by
  unfold execFontFault at run
  split at run
  · next stage =>
    have loading := inv.loading (.inl (by simp [stage]))
    exact inv_next run (inv_endStart inv _ fun running => by simp [loading] at running)
  · exact inv_next run inv

theorem inv_glyphReadEnd (inv : s.Inv) (run : execGlyphReadEnd s = .next t) : t.Inv := by
  unfold execGlyphReadEnd at run
  split at run
  · next stage =>
    refine inv_next run (inv_of_part inv (s.keeps_setControl fun running => running) ⟨fun _ => ?_, fun _ => ?_⟩)
    · exact inv.loading (.inl (by simp [stage]))
    · exact inv.checked (by simp [fontUnderWay, stage])
  · exact inv_next run inv

theorem inv_glyphWrite (inv : s.Inv) (run : execGlyphWrite s = .next t) : t.Inv := by
  unfold execGlyphWrite at run
  split at run
  · exact inv_next run inv
  · next w sent =>
    have loading := inv.loading (.inr (by simp [sent]))
    have checked := inv.checked (by simp [fontUnderWay, sent])
    have stored := inv_storeGlyph inv w
    dsimp only at run
    split at run
    · have kept (g : Nat) : Keeps [.start] (s.storeGlyph w) ((s.storeGlyph w).readGlyph g) := by
        refine ⟨rfl, fun p hp => ?_⟩
        cases p with
        | start => simp at hp
        | _ => simp [Part.Kept, Part.Ok, readGlyph]
      exact inv_next run (inv_of_part stored (kept _) (startOk_readGlyph (by exact loading) (by exact checked) _))
    · exact inv_next run (inv_commit stored checked)

end State

/-- A command that does nothing unless a condition holds. -/
theorem ok_ite {c : Prop} [Decidable c] {s t u : State} {p : Part}
    (run : (if c then .next u else .next s : Host.Outcome State Fault Refusal) = .next t) (before : p.Ok s) (ok : p.Ok u) :
    p.Ok t := by
  split at run <;> exact Host.Outcome.next.inj run ▸ (by assumption)

/-- An outcome that a command ends in. -/
theorem ok_next {s t : State} {p : Part} (run : (.next s : Host.Outcome State Fault Refusal) = .next t) (ok : p.Ok s) :
    p.Ok t := Host.Outcome.next.inj run ▸ ok

section
variable {s t : State}

/-- The commands of the Quote Engine that write the instrument table leave it in canonical form. -/
theorem instrumentsOk_of_run {c : Instr} (ok : Part.Ok .instruments s) (run : exec c s = .next t)
    (quote : c ∈ [Instr.update, .snapshot, .condition, .defineInstrument, .removeInstrument, .setSources, .append, .removal]) :
    Part.Ok .instruments t := by
  have dropped : s.dropQuote.InstrumentsOk := ok
  simp only [List.mem_cons, List.not_mem_nil, or_false] at quote
  rcases quote with rfl | rfl | rfl | rfl | rfl | rfl | rfl | rfl
  · simp only [exec, execUpdate] at run
    split at run
    · exact ok_ite run ok (dropped.takeUpdate _ _)
    · exact ok_next run ok
  · simp only [exec, execSnapshot] at run
    split at run
    · exact ok_ite run ok (dropped.takeSnapshot _ _)
    · exact ok_next run ok
  · simp only [exec, execCondition] at run
    split at run
    · exact ok_ite run ok (dropped.takeCondition _ _)
    · exact ok_next run ok
  · simp only [exec, execDefineInstrument] at run
    split at run
    · exact ok_next run (dropped.takeDefine _)
    · exact ok_next run ok
  · simp only [exec, execRemoveInstrument] at run
    split at run
    · exact ok_next run (dropped.takeRemove _)
    · exact ok_next run ok
  · simp only [exec, execSetSources] at run
    split at run
    · exact ok_next run (dropped.takeSetSources _)
    · exact ok_next run ok
  · simp only [exec, execAppend] at run
    split at run
    · exact ok_next run (dropped.setSlot _ _)
    · exact ok_next run ok
  · simp only [exec, execRemoval] at run
    split at run
    · exact ok_next run (dropped.unbind _)
    · exact ok_next run ok

/-- The commands that write the board leave it within the invariant. -/
theorem boardOk_of_run {c : Instr} (ok : Part.Ok .board s) (run : exec c s = .next t)
    (plane : c ∈ [Instr.spanWrite, .writeCells, .fillCells, .openOverlay, .closeOverlay, .openingRow, .closingRow]) :
    Part.Ok .board t := by
  have dropped : s.dropPlane.plane.BoardOk := PlaneController.BoardOk.inbox ok _
  simp only [List.mem_cons, List.not_mem_nil, or_false] at plane
  rcases plane with rfl | rfl | rfl | rfl | rfl | rfl | rfl
  · simp only [exec, execSpanWrite] at run
    split at run
    · split at run
      · exact ok_next run ok
      · exact ok_next run (State.takeSpan_board ok _)
    · exact ok_next run ok
  · simp only [exec, execWriteCells] at run
    split at run
    · exact ok_next run (State.takeText_board dropped _ _)
    · exact ok_next run ok
  · simp only [exec, execFillCells] at run
    split at run
    · exact ok_next run (State.takeText_board dropped _ _)
    · exact ok_next run ok
  · simp only [exec, execOpenOverlay] at run
    split at run
    · exact ok_next run (State.takeOpen_board dropped _)
    · exact ok_next run ok
  · simp only [exec, execCloseOverlay] at run
    split at run
    · exact ok_next run (State.takeClose_board dropped)
    · exact ok_next run ok
  · simp only [exec, execOpeningRow] at run
    split at run
    · next isTop =>
      split at run
      · exact ok_next run (State.openingRow_board dropped isTop _)
      · exact ok_next run ok
      · exact ok_next run ok
    · exact ok_next run ok
  · simp only [exec, execClosingRow] at run
    split at run
    · next isTop =>
      split at run
      · exact ok_next run (State.closingRow_board dropped isTop _)
      · exact ok_next run ok
      · exact ok_next run ok
    · exact ok_next run ok

/-- A report that ends STOPPING. -/
theorem startOk_ringStoppedReport (inv : s.Inv) (run : execRingStoppedReport s = .next t) : Part.Ok .start t := by
  have ok := State.inv_iff.mp inv .start
  unfold execRingStoppedReport at run
  split at run
  · exact ok_next run ok
  · have told (reports : List RingId) : Keeps [] s { s with control := { s.control with ringReports := reports } } :=
      .of_same rfl rfl
    exact ok_next run (State.startOk_stopTest ((told _).inv inv (by simp)))

theorem startOk_overlayEndReport (inv : s.Inv) (run : execOverlayEndReport s = .next t) : Part.Ok .start t := by
  have ok := State.inv_iff.mp inv .start
  unfold execOverlayEndReport at run
  split at run
  · exact ok_next run ok
  · have told (reports : Nat) : Keeps [] s { s with control := { s.control with overlayReports := reports } } :=
      .of_same rfl rfl
    exact ok_next run (State.startOk_stopTest ((told _).inv inv (by simp)))

end

/-- The parts that a command writes are left within the invariant. -/
theorem exec_writes_ok {c : Instr} {s t : State} (inv : s.Inv) (run : exec c s = .next t) {p : Part} (writes : p ∈ written c) :
    p.Ok t := by
  have before : ∀ q : Part, q.Ok s := State.inv_iff.mp inv
  have whole (after : t.Inv) : p.Ok t := State.inv_iff.mp after p
  cases c with
  | hardwareReset => exact ok_next run (State.inv_iff.mp (reset_inv.around _ _ _) p)
  | start =>
    obtain rfl := List.mem_singleton.mp writes
    exact ok_ite run (before _) (State.startOk_deviceControlWrite inv _)
  | stop =>
    obtain rfl := List.mem_singleton.mp writes
    exact ok_ite run (before _) (State.startOk_deviceControlWrite inv _)
  | ignoredCommand v =>
    obtain rfl := List.mem_singleton.mp writes
    exact ok_ite run (before _) (State.startOk_deviceControlWrite inv _)
  | ringStoppedReport =>
    obtain rfl := List.mem_singleton.mp writes
    exact startOk_ringStoppedReport inv run
  | overlayEndReport =>
    obtain rfl := List.mem_singleton.mp writes
    exact startOk_overlayEndReport inv run
  | setupReadEnd => exact whole (State.inv_setupReadEnd inv run)
  | fetchFault => exact whole (State.inv_fetchFault inv run)
  | glyphReadEnd => exact whole (State.inv_glyphReadEnd inv run)
  | fontFault => exact whole (State.inv_fontFault inv run)
  | glyphWrite => exact whole (State.inv_glyphWrite inv run)
  | update | snapshot | condition | defineInstrument | removeInstrument | setSources | append | removal =>
    obtain rfl := List.mem_singleton.mp writes
    exact instrumentsOk_of_run (before _) run (by simp)
  | spanWrite | writeCells | fillCells | openOverlay | closeOverlay | openingRow | closingRow =>
    obtain rfl := List.mem_singleton.mp writes
    exact boardOk_of_run (before _) run (by simp)
  | setPen | cursorChange =>
    obtain rfl := List.mem_singleton.mp writes
    trivial
  | _ => simp [written] at writes

theorem exec_inv {c : Instr} {s t : State} (inv : s.Inv) (run : exec c s = .next t) : t.Inv :=
  (exec_keeps run).inv inv fun _ => exec_writes_ok inv run

/-! ### Every step -/

theorem drawNext_eq (s : State) : ∃ scan, s.drawNext = { s with video := { s.video with scan } } := by
  unfold State.drawNext
  split
  · exact ⟨s.video.scan, rfl⟩
  · split
    · exact ⟨_, rfl⟩
    · exact ⟨s.video.scan, rfl⟩

/-- What changes neither a unit nor the frame number and the device state keeps the laws. -/
theorem lawful_of_units {s t : State} (inv : s.Inv) (lawful : s.Lawful)
    (same : t.memory = s.memory ∧ t.rings = s.rings ∧ t.quote = s.quote ∧ t.field = s.field ∧ t.plane = s.plane ∧
      t.highlight = s.highlight ∧ t.control = s.control ∧ t.video.frameNumber = s.video.frameNumber) : t.Lawful := by
  obtain ⟨memory, rings, quote, field, plane, highlight, control, frame⟩ := same
  exact State.Still.lawful (.of_units plane quote field highlight frame) lawful inv
    (lawful.each.same memory rings quote (by rw [field]) (by rw [plane]) (.inl (by rw [control])))

theorem idle_inv {s : State} (inv : s.Inv) : s.idle.Inv := by
  unfold State.idle
  split
  · exact inv.around _ _ _
  · obtain ⟨scan, drawn⟩ := drawNext_eq s
    exact drawn ▸ s.keeps_setScan.inv inv (by simp)

theorem idle_lawful {s : State} (inv : s.Inv) (lawful : s.Lawful) : s.idle.Lawful := by
  unfold State.idle
  split
  · exact lawful_of_units inv lawful (by simp [State.release])
  · obtain ⟨scan, drawn⟩ := drawNext_eq s
    exact lawful_of_units inv lawful (by simp [drawn])

/-- Settles O5: a command keeps the invariant by the parts it writes and the laws by `exec_lawful`; a step on an empty
queue changes RESET or the scan alone. -/
theorem stepKeepsInvariant : Obligations.StepKeepsInvariant := by
  refine ⟨fun s t inv run => ?_, fun s t inv lawful run => ?_⟩
  · unfold step at run
    split at run
    · exact inv_next run (idle_inv inv)
    · exact exec_inv (inv.around _ _ _) run
  · unfold step at run
    split at run
    · exact Host.Outcome.next.inj run ▸ idle_lawful inv lawful
    · exact exec_lawful (inv.around _ _ _) (lawful_of_units inv lawful (by simp)) run

end Sys2Proof.Machine

/-! The ports: steps, hardware reset, the selector, writes to registers, attention, and DEVICE_CONTROL (12.1 to 12.4). -/

namespace Sys2Proof.Machine

open Sys2Proof.Statement

/-- Settles O1: the three cases of an empty queue are those of `State.idle`. -/
theorem stepRunsFrontCommand : Obligations.StepRunsFrontCommand := by
  refine ⟨fun c rest s front => ?_, fun s empty held => ?_, fun s empty free blank => ?_, fun s f empty free scan => ?_⟩
  · simp only [step, front]
  · simp only [step, empty, State.idle, held, if_true, State.release]
  · simp [step, empty, State.idle, free, State.drawNext, blank]
  · have draws : step s = .next s.drawNext := by simp [step, empty, State.idle, free]
    rw [draws]
    simp only [State.drawNext, scan]
    split
    · rfl
    · rw [← scan]

/-! ### Hardware reset -/

/-- An empty table holds the default content everywhere. -/
theorem Tab.get_nil {α : Type} (T : TabSpec α) (n : Nat) : Tab.get T [] n = T.dflt := by
  unfold Tab.get
  split <;> rfl

theorem Vector.get_replicate_const {α : Type} {n : Nat} (v : α) (k : Fin n) : (Vector.replicate n v).get k = v := by
  simp [Vector.get]

theorem line_reset : PortUnit.reset.line = false := by decide

/-- Settles O3: the contents of every block are read off `State.reset`. -/
theorem hardwareResetContents : Obligations.HardwareResetContents := by
  intro s
  refine answers_of rfl ⟨fun p => by cases p <;> exact ⟨rfl, rfl, rfl, rfl, line_reset⟩, rfl,
    fun r => by cases r <;> rfl, rfl, fun q => ?_, rfl, rfl, rfl, rfl, fun i => Tab.get_nil _ i, fun b => Tab.get_nil _ b, rfl, rfl,
    fun f => Tab.get_nil _ f, fun n => Tab.get_nil _ n, rfl, rfl, rfl, rfl, rfl, rfl, fun k => Vector.get_replicate_const _ k, rfl, rfl, rfl, rfl, fun n => Tab.get_nil _ n,
    fun n => Tab.get_nil _ n, rfl, rfl, fun g => Tab.get_nil _ g, fun k => Vector.get_replicate_const _ k,
    fun k => Vector.get_replicate_const _ k, rfl, rfl, rfl, rfl, rfl, rfl, rfl, rfl, rfl, rfl, rfl⟩
  match q with
  | .ring r => cases r <;> exact ⟨rfl, rfl⟩
  | .loader => exact ⟨rfl, rfl⟩

/-! ### The selector and ignored writes (R183, R194) -/

theorem State.selected_of_held {s : State} (held : s.resetHeld = true) (p : Port) : s.selected p = none := by
  simp [State.selected, held]

/-- The five low bits of a value, as a read of the selector returns them. -/
theorem setWidth_low5 (v : Half) : (v.setWidth 5).setWidth 16 = v &&& 31 := by
  apply BitVec.eq_of_toNat_eq
  have mask : v.toNat &&& (31 : Half).toNat = v.toNat % 32 := Nat.and_two_pow_sub_one_eq_mod v.toNat 5
  rw [BitVec.toNat_and, mask, BitVec.toNat_setWidth, BitVec.toNat_setWidth]
  omega

/-- Settles O8: a window access that names no register is the default branch of each command. -/
theorem selectorAndIgnoredWrites : Obligations.SelectorAndIgnoredWrites := by
  refine ⟨fun p v s => answers_of rfl ⟨rfl, ?_⟩, fun p v s => rfl, fun p s names => ?_, fun s => answers_of rfl rfl,
    fun p v s held => ⟨?_, ?_⟩⟩
  · rw [← setWidth_low5]
    simp [State.selectorRead, State.modPort, State.release]
  · rcases names with none | name | name | name | name <;> simp [State.windowRead, State.readRegister, *]
  · simp [State.windowRead, State.selected_of_held held]
  · have none := State.selected_of_held held
    simp only [List.forall_mem_cons, List.not_mem_nil, false_implies, implies_true, and_true]
    refine ⟨?_, ?_, ?_, ?_, ?_, ?_, ?_, ?_, ?_, ?_, ?_, ?_, ?_, ?_, rfl⟩
    · simp [exec, execRingOn, none]
    · simp [exec, execRingOff, none]
    · simp [exec, execKick, none]
    · simp [exec, execAttnPendingClear, none]
    · simp [exec, execAttnEnableWrite, none]
    · simp [exec, execRingBaseWrite, none]
    · simp [exec, execRingLengthWrite, none]
    · simp [exec, execCounterClear, none]
    · simp [exec, execStart, none]
    · simp [exec, execStop, none]
    · simp [exec, execIgnoredCommand, none]
    · simp [exec, execSetupAddressWrite, none]
    · simp [exec, execRaise, none]
    · simp [exec, execProbeSelect, none]

/-! ### Attention (R187, R188) -/

theorem causeMask_eq (p : Port) : causeMask p = if isFeed p then 0x7F else 0xFF := by cases p <;> rfl

/-- A set of eight causes is not empty when one of its bits is set. -/
theorem ne_zero_iff_bit (x : BitVec 8) : x ≠ 0 ↔ ∃ i, i < 8 ∧ x.getLsbD i = true := by
  constructor
  · intro nonzero
    by_contra none
    refine nonzero (BitVec.eq_of_getLsbD_eq fun i below => ?_)
    simpa using fun bit => none ⟨i, below, bit⟩
  · rintro ⟨i, -, bit⟩ rfl
    simp at bit

/-- Settles O13. -/
theorem attentionSetsAndLine : Obligations.AttentionSetsAndLine := by
  refine ⟨fun p v s name => ?_, fun p v s name => ?_, fun p c rest s front => ?_, rfl, rfl, fun p s => ?_⟩
  · simp [exec, execAttnPendingClear, name, State.modPort]
  · simp [exec, execAttnEnableWrite, name, State.modPort, causeMask_eq]
  · simp [exec, execAttentionCauseSet, front, State.modPort, PortUnit.takeCause, Cause.mask]
  · have line : s.attentionLine p = true ↔ (s.ports.get p).attnPending &&& (s.ports.get p).attnEnable ≠ 0 := by
      simp [State.attentionLine, PortUnit.line]
    rw [line, ne_zero_iff_bit]
    simp [BitVec.getLsbD_and]

/-! ### DEVICE_CONTROL (R189, R190) -/

namespace State

variable {s : State} {v : Half}

/-- A START or STOP that is not taken. -/
theorem deviceControlWrite_ignored (ignored : (v.getLsbD 0 = true ∧ v.getLsbD 1 = true) ∨
    (v.getLsbD 0 = true ∧ v.getLsbD 1 = false ∧ s.control.device ≠ .stopped) ∨
    (v.getLsbD 0 = false ∧ v.getLsbD 1 = true ∧ (s.control.device = .stopped ∨ s.control.device = .stopping))) :
    s.deviceControlWrite v = s.ignoreCommand := by
  unfold deviceControlWrite
  rcases ignored with ⟨start, stop⟩ | ⟨start, stop, other⟩ | ⟨start, stop, device | device⟩
  · rw [start, stop]
  · rw [start, stop]
    cases device : s.control.device with
    | stopped => exact absurd device other
    | loading | running | stopping => rfl
  · rw [start, stop, device]
  · rw [start, stop, device]

end State

/-- Settles O15. -/
theorem startBeginsLoading : Obligations.StartBeginsLoading := by
  refine ⟨fun s name stopped => ?_, fun v s name ignored => ?_, fun s name other => ?_, fun s name other => ?_⟩
  · have taken : s.deviceControlWrite 1 = s.takeStart := by
      simp [State.deviceControlWrite, stopped]
    simp only [exec, execStart, name, if_true, taken, State.takeStart, State.sendMemory, asked, State.setupReadAddress,
      alignDown_eq]
  · simp only [exec, execIgnoredCommand, name, if_true, State.deviceControlWrite_ignored ignored, State.ignoreCommand]
  · have ignored : s.deviceControlWrite 1 = s.ignoreCommand :=
      State.deviceControlWrite_ignored (.inr (.inl ⟨by decide, by decide, other⟩))
    simp only [exec, execStart, name, if_true, ignored, State.ignoreCommand]
  · have ignored : s.deviceControlWrite 2 = s.ignoreCommand :=
      State.deviceControlWrite_ignored (.inr (.inr ⟨by decide, by decide, other⟩))
    simp only [exec, execStop, name, if_true, ignored, State.ignoreCommand]

/-! ### Requests at the Memory Master (R168, R170) -/

/-- The round robin pointer after a grant to a requester: past a ring, and where it was for the Setup Loader. -/
def pointerAfter : Requester → RingId → RingId
  | .ring r, _ => nextRing r
  | .loader, pointer => pointer

/-- The grant of a request that arrives alone. -/
theorem MemoryMaster.grant_alone (q : Requester) (tx : Transaction) (sent : Requests) (pointer : RingId) :
    MemoryMaster.grant ⟨none, Requests.set ⟨⟨none, none, none⟩, none⟩ q (some tx), sent, pointer⟩ =
      ⟨some tx, ⟨⟨none, none, none⟩, none⟩, sent, pointerAfter q pointer⟩ := by
  match q with
  | .ring r => cases r <;> cases pointer <;> rfl
  | .loader => cases pointer <;> rfl

/-- Settles O21. -/
theorem memoryRequestHeldOrGranted : Obligations.MemoryRequestHeldOrGranted := by
  refine ⟨fun q s tx now sent busy => ?_, fun q s tx sent free empty => ?_⟩
  · refine answers_of (by simp only [exec, execMemoryRequest, sent]; rfl) ?_
    rw [MemoryMaster.grant_busy _ now]
    exact busy
  · refine answers_of (by simp only [exec, execMemoryRequest, sent]; rfl) ?_
    rw [free, empty, MemoryMaster.grant_alone]
    match q with
    | .ring r => cases r <;> simp [empty, pointerAfter, nextRing]
    | .loader => simp [empty, pointerAfter]

end Sys2Proof.Machine

/-! The registers: what writes to them change, what reads of them return, and the probe (12.1, 12.2). -/

namespace Sys2Proof.Machine

open Sys2Proof.Statement

/-! ### Halves of a word -/

theorem halfOf_zero (w : Word) : halfOf w 0 = w.toNat % 65536 := by simp [halfOf]

theorem halfOf_one (w : Word) : halfOf w 1 = w.toNat / 65536 := by
  have bound := w.isLt
  simp only [halfOf]
  omega

theorem withHalf_toNat (w : Word) (high : Bool) (v : Half) : (withHalf w high v).toNat =
    if high then v.toNat * 65536 + w.toNat % 65536 else w.toNat / 65536 * 65536 + v.toNat := by
  have wide := w.isLt
  have bound := v.isLt
  cases high <;> simp only [withHalf, ofHalves_toNat, halfOf_zero, halfOf_one, if_true, if_false,
    Bool.false_eq_true] <;> omega

/-! ### Writes (R148, R161, R185, R186) -/

theorem alignBase_toNat (w : Word) : (alignBase w).toNat = w.toNat / 64 * 64 := by
  have bound := w.isLt
  simp only [alignBase, alignDown_eq, BitVec.toNat_ofNat]
  omega

theorem bitsOf_low3 (v : Half) : bitsOf v 0 3 = v.toNat % 8 := by simp [bitsOf]

theorem State.raiseWrite_eq (s : State) (v : Half) : s.raiseWrite v = { s with
    ports :=
      let a := if v.getLsbD 0 then withCause s.ports .a .resync else s.ports
      if v.getLsbD 1 then withCause a .b .resync else a } := by
  unfold raiseWrite
  dsimp only
  split <;> split <;> rfl

theorem probeTableOf_eq (v : Half) : probeTableOf (bitsOf v 14 2) = match v.toNat / 16384 with
    | 1 => .field
    | 2 => .instrument
    | 3 => .overlay
    | _ => .none := by
  have bound := v.isLt
  have number : bitsOf v 14 2 = v.toNat / 16384 := by
    simp only [bitsOf]
    omega
  rw [number]
  rfl

/-- Settles O14. -/
theorem registerWritesOfPorts : Obligations.RegisterWritesOfPorts := by
  refine ⟨⟨fun p v s high name => ⟨fun off => ?_, fun live => ?_⟩,
    fun p v s name => ⟨fun off legal => ?_, fun ignored => ?_⟩, fun p v s c name => ?_⟩,
    ⟨fun v s high name => ⟨fun stopped => ?_, fun other => ?_⟩, fun v s name => ?_, fun v s name => ?_⟩⟩
  · refine answers_of (by simp only [exec, execRingBaseWrite, name]; rfl) ⟨?_, ?_⟩
    · simp [State.inOff, off, State.modRing]
    · simp [State.inOff, off, State.modRing, alignBase_toNat, withHalf_toNat]
  · simp [exec, execRingBaseWrite, name, State.inOff, live]
  · have code : v.toNat % 8 < 7 := by omega
    refine answers_of (by simp only [exec, execRingLengthWrite, name, if_true, bitsOf_low3]; rfl) ⟨?_, ?_⟩
    · simp [State.inOff, off, State.modRing, RingUnit.setLength, code]
    · simp [State.inOff, off, State.modRing, RingUnit.setLength, code]
  · have unchanged : s.inOff p (fun u => u.setLength (bitsOf v 0 3)) = s := by
      rcases ignored with live | seven
      · simp [State.inOff, live]
      · have code : ¬bitsOf v 0 3 < 7 := by rw [bitsOf_low3]; omega
        unfold State.inOff
        split
        · simp [State.modRing, RingUnit.setLength, code]
        · rfl
    simp only [exec, execRingLengthWrite, name, if_true, unchanged]
  · refine answers_of (by simp only [exec, execCounterClear, name]; rfl)
      ⟨by simp [State.modRing], by simp [State.modRing], fun d => ?_⟩
    simpa [State.modRing] using RingUnit.counter_setCounter _ c d 0
  · refine answers_of (by simp only [exec, execSetupAddressWrite, name, if_pos stopped]; rfl) ⟨rfl, ?_⟩
    exact withHalf_toNat _ _ _
  · simp [exec, execSetupAddressWrite, name, other]
  · exact answers_of (by simp only [exec, execRaise, name, if_true]) (s.raiseWrite_eq v)
  · exact answers_of (by simp only [exec, execProbeSelect, name, if_true]; rfl)
      ⟨rfl, BitVec.toNat_setWidth .., probeTableOf_eq v⟩

/-! ### The register map (R183) -/

/-- The indices of a port's registers. -/
theorem registerAt_isSome (p : Port) {n : Nat} (below : n < 32) :
    (registerAt p n).isSome = true ↔ n ≤ 12 ∨ (p = .t ∧ 16 ≤ n ∧ n ≤ 30) := by
  cases p <;> interval_cases n <;> decide

theorem ringRegisterAt_none {n : Nat} (above : 13 ≤ n) : ringRegisterAt n = none := by
  obtain ⟨k, rfl⟩ := Nat.exists_eq_add_of_le' above
  rfl

theorem terminalRegisterAt_none {n : Nat} (above : 31 ≤ n) : terminalRegisterAt n = none := by
  obtain ⟨k, rfl⟩ := Nat.exists_eq_add_of_le' above
  rfl

/-- The indices of the registers that can be written. -/
theorem registerAt_writable {p : Port} {n : Nat} {g : Register} (reached : registerAt p n = some g) :
    g.writable = true ↔ n ∈ [1, 2, 3, 4, 5, 6, 8, 9, 10, 11, 16, 18, 19, 24, 25] := by
  have below : n < 31 := by
    by_contra above
    have none : registerAt p n = none := by
      unfold registerAt
      split
      · omega
      · split
        · rfl
        · exact terminalRegisterAt_none (by omega)
    simp [none] at reached
  cases p <;> interval_cases n <;> cases reached <;> decide

/-! ### Reads -/

/-- What a read of a register returns, as a number. -/
theorem State.windowRead_toNat {s : State} {p : Port} {g : Register} (name : s.selected p = some g)
    (fits : s.readRegister p g < 65536) : (s.windowRead p).toNat = s.readRegister p g := by
  simp only [windowRead, name, BitVec.toNat_ofNat]
  omega

theorem RingState.code_lt (st : RingState) : st.code < 5 := by cases st <;> decide

theorem DeviceState.code_lt (d : DeviceState) : d.code < 4 := by cases d <;> decide

theorem StartOutcome.code_lt (o : StartOutcome) : o.code < 10 := by cases o <;> decide

theorem halfOf_lt (w : Word) (k : Nat) : halfOf w k < 65536 := Nat.mod_lt _ (by decide)

namespace State

variable {s : State} {p : Port}

theorem read_portStatus (name : s.selected p = some .portStatus) :
    (s.windowRead p).toNat = (s.rings.get p).state.code + 16 * s.control.device.code := by
  have ring := (s.rings.get p).state.code_lt
  have device := s.control.device.code_lt
  exact windowRead_toNat name (by simp only [readRegister]; omega)

theorem read_ringBase {high : Bool} (name : s.selected p = some (.ringBase high)) :
    (s.windowRead p).toNat = halfOf (s.rings.get p).base high.toNat := windowRead_toNat name (halfOf_lt _ _)

theorem read_setupAddress {high : Bool} (name : s.selected p = some (.setupAddress high)) :
    (s.windowRead p).toNat = halfOf s.control.setupAddress high.toNat := windowRead_toNat name (halfOf_lt _ _)

theorem read_deviceStatus (name : s.selected p = some .deviceStatus) : (s.windowRead p).toNat =
    s.control.device.code + 16 * s.control.lastStart.code + 256 * s.control.ignored.toNat := by
  have device := s.control.device.code_lt
  have last := s.control.lastStart.code_lt
  have flag := s.control.ignored.toNat_le
  exact windowRead_toNat name (by simp only [readRegister]; omega)

theorem read_sweepStatus (name : s.selected p = some .sweepStatus) (position : s.field.sweep.position ≤ 511) :
    (s.windowRead p).toNat =
      s.field.sweep.position + 16384 * s.field.sweep.rerun.toNat + 32768 * s.field.sweep.active.toNat := by
  have rerun := s.field.sweep.rerun.toNat_le
  have active := s.field.sweep.active.toNat_le
  exact windowRead_toNat name (by simp only [readRegister]; omega)

theorem read_feedView (name : s.selected p = some .feedView) :
    (s.windowRead p).toNat = s.rings.a.state.code + 16 * s.rings.b.state.code := by
  have a := s.rings.a.state.code_lt
  have b := s.rings.b.state.code_lt
  exact windowRead_toNat name (by simp only [readRegister]; omega)

theorem operation_le (p : PlaneController) : p.operation ≤ 2 := by
  unfold PlaneController.operation
  split
  · decide
  · split <;> decide

theorem read_overlayStatus (name : s.selected p = some .overlayStatus) (depth : s.plane.stack.length ≤ 4) :
    (s.windowRead p).toNat = s.plane.stack.length + 16 * s.plane.operation := by
  have operation := operation_le s.plane
  exact windowRead_toNat name (by simp only [readRegister]; omega)

end State

/-- Reads of the registers of a ring's own port. -/
theorem reads_of_port (p : Port) (s : State) :
    (s.selected p = some .portStatus → (s.windowRead p).toNat = 16 * s.control.device.code + (s.rings.get p).state.code) ∧
    (s.selected p = some .attnPending → (s.windowRead p).toNat = (s.ports.get p).attnPending.toNat) ∧
    (s.selected p = some .attnEnable → (s.windowRead p).toNat = (s.ports.get p).attnEnable.toNat) ∧
    (s.selected p = some (.ringBase false) → (s.windowRead p).toNat = (s.rings.get p).base.toNat % 65536) ∧
    (s.selected p = some (.ringBase true) → (s.windowRead p).toNat = (s.rings.get p).base.toNat / 65536) ∧
    (s.selected p = some .ringLength → (s.windowRead p).toNat = (s.rings.get p).lengthCode.val) ∧
    (s.selected p = some .ringIndex → (s.rings.get p).index < 256 → (s.windowRead p).toNat = (s.rings.get p).index) ∧
    (∀ c, s.selected p = some (.counter c) → s.windowRead p = (s.rings.get p).counter c) ∧
    (s.selected p = some .haltReason → (s.windowRead p).toNat = (s.rings.get p).haltReason.code) := by
  refine ⟨fun name => ?_, fun name => ?_, fun name => ?_, fun name => ?_, fun name => ?_, fun name => ?_, fun name small => ?_,
    fun c name => ?_, fun name => ?_⟩
  · rw [State.read_portStatus name, Nat.add_comm]
  · have byte := (s.ports.get p).attnPending.isLt
    exact State.windowRead_toNat name (by simp only [State.readRegister]; omega)
  · have byte := (s.ports.get p).attnEnable.isLt
    exact State.windowRead_toNat name (by simp only [State.readRegister]; omega)
  · rw [State.read_ringBase name, Bool.toNat_false, halfOf_zero]
  · rw [State.read_ringBase name, Bool.toNat_true, halfOf_one]
  · have code := (s.rings.get p).lengthCode.isLt
    exact State.windowRead_toNat name (by simp only [State.readRegister]; omega)
  · exact State.windowRead_toNat name (by simp only [State.readRegister]; omega)
  · simp [State.windowRead, name, State.readRegister]
  · refine State.windowRead_toNat name ?_
    simp only [State.readRegister]
    cases (s.rings.get p).haltReason <;> decide

/-- A bit of a number that is put together from three parts. -/
theorem sweepBits (position : Nat) (rerun active : Bool) (small : position ≤ 511) {x : Half}
    (value : x.toNat = position + 16384 * rerun.toNat + 32768 * active.toNat) :
    x.toNat % 512 = position ∧ x.getLsbD 15 = active ∧ x.getLsbD 14 = rerun := by
  refine ⟨?_, ?_, ?_⟩
  · rw [value]
    cases rerun <;> cases active <;> simp <;> omega
  · rw [Bool.eq_iff_iff, getLsbD_iff_toNat, value]
    cases rerun <;> cases active <;> simp <;> omega
  · rw [Bool.eq_iff_iff, getLsbD_iff_toNat, value]
    cases rerun <;> cases active <;> simp <;> omega

/-- Reads of the registers of the Terminal Port alone. -/
theorem reads_of_terminal (s : State) :
    (s.selected .t = some .deviceStatus → (s.windowRead .t).toNat % 16 = s.control.device.code ∧
      (s.windowRead .t).toNat / 16 % 16 = s.control.lastStart.code ∧
      (s.windowRead .t).toNat / 256 = if s.control.ignored then 1 else 0) ∧
    (s.selected .t = some (.setupAddress false) → (s.windowRead .t).toNat = s.control.setupAddress.toNat % 65536) ∧
    (s.selected .t = some (.setupAddress true) → (s.windowRead .t).toNat = s.control.setupAddress.toNat / 65536) ∧
    (s.selected .t = some .frameNumber → s.windowRead .t = s.video.frameNumber) ∧
    (s.selected .t = some .sweepStatus → s.field.sweep.position ≤ 511 →
      (s.windowRead .t).toNat % 512 = s.field.sweep.position ∧
      (s.windowRead .t).getLsbD 15 = s.field.sweep.active ∧ (s.windowRead .t).getLsbD 14 = s.field.sweep.rerun) ∧
    (s.selected .t = some .feedView → (s.windowRead .t).toNat % 16 = s.rings.a.state.code ∧
      (s.windowRead .t).toNat / 16 = s.rings.b.state.code) ∧
    (s.selected .t = some .overlayStatus → s.plane.stack.length ≤ 4 →
      (s.windowRead .t).toNat % 16 = s.plane.stack.length ∧ (s.windowRead .t).toNat / 16 = s.plane.operation) := by
  refine ⟨fun name => ?_, fun name => ?_, fun name => ?_, fun name => ?_, fun name small => ?_, fun name => ?_,
    fun name depth => ?_⟩
  · have device := s.control.device.code_lt
    have last := s.control.lastStart.code_lt
    rw [State.read_deviceStatus name]
    cases s.control.ignored <;> simp <;> omega
  · rw [State.read_setupAddress name, Bool.toNat_false, halfOf_zero]
  · rw [State.read_setupAddress name, Bool.toNat_true, halfOf_one]
  · simp [State.windowRead, name, State.readRegister]
  · exact sweepBits _ _ _ small (State.read_sweepStatus name small)
  · have a := s.rings.a.state.code_lt
    have b := s.rings.b.state.code_lt
    rw [State.read_feedView name]
    omega
  · have operation := State.operation_le s.plane
    rw [State.read_overlayStatus name depth]
    omega

/-! ### The probe (R186, R83) -/

theorem maskCode_eq (m : PerRing Bool) :
    maskCode m = (if m.a then 1 else 0) + (if m.b then 2 else 0) + (if m.t then 4 else 0) := by
  obtain ⟨a, b, t⟩ := m
  cases a <;> cases b <;> cases t <;> rfl

theorem HighlightTimer.framesLeft_none {h : HighlightTimer} {f : Nat} (none : h.entry f = none) : h.framesLeft f = 0 := by
  simp [framesLeft, none]

theorem HighlightTimer.framesLeft_some {h : HighlightTimer} {f : Nat} {e : HighlightEntry} (entry : h.entry f = some e) :
    h.framesLeft f = if e.expired then 0 else (e.expiry - h.frame).toNat := by
  simp [framesLeft, entry, remaining]

/-- An index past its table, and a selection of no table, report 0. -/
theorem probe_outside (s : State) :
    (s.probe.table = .none → ∀ n, s.probeData n = 0) ∧
    (s.probe.table = .field → 512 ≤ s.probe.index.toNat → ∀ n, s.probeData n = 0) ∧
    (s.probe.table = .instrument → 256 ≤ s.probe.index.toNat → ∀ n, s.probeData n = 0) ∧
    (s.probe.table = .overlay → s.plane.stack.length < s.probe.index.toNat ∨ s.probe.index.toNat = 0 →
      ∀ n, s.probeData n = 0) := by
  refine ⟨fun table n => ?_, fun table past n => ?_, fun table past n => ?_, fun table past n => ?_⟩
  · simp [State.probeData, table]
  · simp [State.probeData, table, past]
  · simp [State.probeData, table, past]
  · have noPlace : 1 ≤ s.probe.index.toNat → s.plane.stack[s.probe.index.toNat - 1]? = none := fun place =>
      List.getElem?_eq_none (by omega)
    simp only [State.probeData, table]
    split
    · next place => simp [PlaneController.probeOverlay, noPlace place.1]
    · rfl

/-- Settles O9. -/
theorem registerRightsAndReads : Obligations.RegisterRightsAndReads := by
  refine ⟨⟨fun p n => registerAt_isSome p, fun p n g => registerAt_writable, fun p => ?_, rfl, fun p s => ⟨fun free => ?_,
      fun held => State.selected_of_held held p⟩⟩, ⟨fun p s => reads_of_port p s, reads_of_terminal⟩,
    fun s => (probe_outside s).1, fun s => (probe_outside s).2.1, fun s => (probe_outside s).2.2.1,
    fun s => (probe_outside s).2.2.2, fun s n name => ?_, fun n => ?_, fun s table index => ?_, fun s table index => ?_,
    fun s o table least most place => ?_, fun h f => ⟨HighlightTimer.framesLeft_none, fun e => HighlightTimer.framesLeft_some⟩⟩
  · cases p <;> rfl
  · simp [State.selected, free]
  · simp [State.windowRead, name, State.readRegister]
  · fin_cases n <;> rfl
  · intro f v
    have data (n : Fin 5) : s.probeData n = s.probeField f n := by simp [State.probeData, table, index, f]
    simp only [data]
    exact ⟨rfl, rfl, rfl, rfl, rfl⟩
  · intro v
    have data (n : Fin 5) : s.probeData n = probeSlot v n := by simp [State.probeData, table, index, v]
    simp only [data]
    refine ⟨halfOf_zero _, halfOf_one _, ?_, rfl, rfl⟩
    simp only [probeSlot, maskCode_eq]
    cases v.occupied <;> rfl
  · have data (n : Fin 5) : s.probeData n = s.plane.probeOverlay s.probe.index.toNat n := by
      simp [State.probeData, table, least, most]
    simp only [data, PlaneController.probeOverlay, place, and_true, true_and]
    rfl

end Sys2Proof.Machine

/-! PORT_CONTROL: RING_OFF and KICK, and the two orders of a write that asks for both (R151, R157, R184). -/

namespace Sys2Proof.Machine

open Sys2Proof.Statement

/-! ### RING_OFF taken (R157) -/

/-- Does RING_OFF turn the ring OFF at once: is no transaction of it asked for and no descriptor with its owner? -/
abbrev RingUnit.AtRest (u : RingUnit) : Prop := u.phase = .idle ∨ u.phase = .waiting

/-- Does the ring take RING_OFF as more than a change from HALTED: is it ON or SILENT? -/
abbrev RingUnit.Takes (u : RingUnit) : Prop := u.state = .on ∨ u.state = .silent

/-- The field unit with the sweep trigger of a ring that enters or leaves ON. -/
def triggered (u : FieldUnit) (on : Prop) [Decidable on] : FieldUnit :=
  if on then { u with inbox := u.inbox ++ [.trigger] } else u

/-- The Control Unit with the report of a ring. -/
def reported (c : ControlUnit) (r : RingId) : ControlUnit := { c with ringReports := c.ringReports ++ [r] }

namespace State

variable {s : State} {r : RingId}

theorem takeRingOff_of_rest (takes : (s.rings.get r).Takes) (rest : (s.rings.get r).AtRest) :
    s.takeRingOff r = { s with
      rings := s.rings.set r { s.rings.get r with state := .off, phase := .idle }
      ports := feedSent s.ports r
      field := triggered s.field ((s.rings.get r).state = .on)
      control := reported s.control r } := by
  have off := State.setPhase_changeRing_off (s := s) (r := r) (by rcases takes with h | h <;> simp [h]) .idle
  have taken : s.takeRingOff r = (s.setPhase r .idle).changeRing r .off := by
    rcases takes with h | h <;> rcases rest with g | g <;> simp [takeRingOff, h, g]
  rw [taken, off]
  rfl

theorem takeRingOff_of_busy (takes : (s.rings.get r).Takes) (busy : ¬(s.rings.get r).AtRest) :
    s.takeRingOff r = { s with
      rings := s.rings.set r { s.rings.get r with state := .stopping }
      ports := feedSent s.ports r
      field := triggered s.field ((s.rings.get r).state = .on) } := by
  have taken : s.takeRingOff r = s.changeRing r .stopping := by
    unfold takeRingOff
    dsimp only
    rcases takes with h | h <;> rw [h] <;> cases phase : (s.rings.get r).phase <;> simp [RingUnit.AtRest, phase] at busy ⊢
  rw [taken, changeRing_of_ne (by rcases takes with h | h <;> simp [h])]
  simp [triggered]

theorem takeRingOff_of_halted (halted : (s.rings.get r).state = .halted) :
    s.takeRingOff r = { s with
      rings := s.rings.set r { s.rings.get r with state := .off }
      ports := feedSent s.ports r
      control := reported s.control r } := by
  have taken : s.takeRingOff r = s.changeRing r .off := by simp [takeRingOff, halted]
  rw [taken, changeRing_of_ne (by simp [halted])]
  simp [halted, reported]

theorem takeRingOff_of_ignored (ignored : (s.rings.get r).state = .off ∨ (s.rings.get r).state = .stopping) :
    s.takeRingOff r = s := by
  rcases ignored with h | h <;> simp [takeRingOff, h]

/-- After RING_OFF no ring fetches. -/
theorem takeRingOff_fetches (s : State) (r : RingId) : ((s.takeRingOff r).rings.get r).state.fetches = false := by
  by_cases takes : (s.rings.get r).Takes
  · by_cases rest : (s.rings.get r).AtRest
    · rw [takeRingOff_of_rest takes rest]; simp [RingState.fetches]
    · rw [takeRingOff_of_busy takes rest]; simp [RingState.fetches]
  · cases h : (s.rings.get r).state with
    | on => simp [RingUnit.Takes, h] at takes
    | silent => simp [RingUnit.Takes, h] at takes
    | halted => rw [takeRingOff_of_halted h]; simp [RingState.fetches]
    | off => rw [takeRingOff_of_ignored (.inl h), h]; rfl
    | stopping => rw [takeRingOff_of_ignored (.inr h), h]; rfl

/-- The count of free values is outside RING_OFF. -/
theorem takeRingOff_useFree (s : State) (r : RingId) : s.useFree.takeRingOff r = (s.takeRingOff r).useFree := by
  by_cases takes : (s.rings.get r).Takes
  · have takes' : (s.useFree.rings.get r).Takes := takes
    by_cases rest : (s.rings.get r).AtRest
    · rw [takeRingOff_of_rest takes rest, takeRingOff_of_rest takes' (by exact rest)]; rfl
    · rw [takeRingOff_of_busy takes rest, takeRingOff_of_busy takes' (by exact rest)]; rfl
  · cases h : (s.rings.get r).state with
    | on => simp [RingUnit.Takes, h] at takes
    | silent => simp [RingUnit.Takes, h] at takes
    | halted => rw [takeRingOff_of_halted h, takeRingOff_of_halted (s := s.useFree) h]; rfl
    | off => rw [takeRingOff_of_ignored (.inl h), takeRingOff_of_ignored (s := s.useFree) (.inl h)]
    | stopping => rw [takeRingOff_of_ignored (.inr h), takeRingOff_of_ignored (s := s.useFree) (.inr h)]

/-! ### KICK taken (R151) -/

theorem lookAgain_of_waiting (waiting : (s.rings.get r).phase = .waiting) (takes : (s.rings.get r).Takes) :
    s.lookAgain r = { s with
      rings := s.rings.set r { s.rings.get r with phase := .status }
      memory := asked s.memory (.ring r) (statusReadOf (s.rings.get r) r) } := by
  rw [lookAgain_eq, if_pos ⟨waiting, takes⟩, enterReady_eq]
  rfl

theorem lookAgain_of_other (other : ¬((s.rings.get r).phase = .waiting ∧ (s.rings.get r).Takes)) : s.lookAgain r = s := by
  rw [lookAgain_eq, if_neg other]

theorem lookAgain_useFree (s : State) (r : RingId) : s.useFree.lookAgain r = (s.lookAgain r).useFree := by
  rw [lookAgain_eq, lookAgain_eq]
  by_cases looks : (s.rings.get r).phase = .waiting ∧ (s.rings.get r).Takes
  · rw [if_pos (by exact looks), if_pos looks]; rfl
  · rw [if_neg (by exact looks), if_neg looks]

theorem takes_of_fetches {u : RingUnit} (no : u.state.fetches = false) : ¬u.Takes := by
  rintro (h | h) <;> simp [h, RingState.fetches] at no

/-! ### A write to PORT_CONTROL (R184) -/

variable {v : Half} {p : Port}

theorem portControlWrite_kick (kick : v.getLsbD 2 = true) (neither : v.getLsbD 0 = v.getLsbD 1) :
    s.portControlWrite p v = s.lookAgain p := by
  simp only [portControlWrite, kick, neither, if_true]

theorem portControlWrite_switch (noKick : v.getLsbD 2 = false) :
    s.portControlWrite p v = s.ringSwitch p (v.getLsbD 0) (v.getLsbD 1) := by
  simp only [portControlWrite, noKick, Bool.false_eq_true, if_false]

/-- Both orders of a write with KICK and one of RING_ON and RING_OFF. -/
theorem portControlWrite_both (kick : v.getLsbD 2 = true) (one : v.getLsbD 0 ≠ v.getLsbD 1) :
    s.portControlWrite p v = (s.useFree.lookAgain p).ringSwitch p (v.getLsbD 0) (v.getLsbD 1) ∨
    s.portControlWrite p v = (s.useFree.ringSwitch p (v.getLsbD 0) (v.getLsbD 1)).lookAgain p := by
  simp only [portControlWrite, kick, if_true, one, if_false]
  split
  · exact .inl rfl
  · exact .inr rfl

end State

section
variable {p : Port} {v : Half} {s : State}

theorem exec_ringOn_eq (name : s.selected p = some .portControl) (bit : v.getLsbD 0 = true) :
    exec (.ringOn p v) s = .next (s.portControlWrite p v) := if_pos ⟨name, bit⟩

theorem exec_ringOff_eq (name : s.selected p = some .portControl) (bit : v.getLsbD 1 = true) :
    exec (.ringOff p v) s = .next (s.portControlWrite p v) := if_pos ⟨name, bit⟩

theorem exec_kick_eq (name : s.selected p = some .portControl) (bit : v.getLsbD 2 = true) :
    exec (.kick p v) s = .next (s.portControlWrite p v) := if_pos ⟨name, bit⟩

theorem exec_ringOff_alone (name : s.selected p = some .portControl) (notOn : v.getLsbD 0 = false)
    (off : v.getLsbD 1 = true) (noKick : v.getLsbD 2 = false) : exec (.ringOff p v) s = .next (s.takeRingOff p) := by
  rw [exec_ringOff_eq name off, State.portControlWrite_switch noKick, notOn, off]
  rfl

/-- A ring that RING_ON turns on is not WAITING before or after it, so KICK does nothing beside it. -/
theorem ringOn_kick_of_off (name : s.selected p = some .portControl) (on : v.getLsbD 0 = true) (notOff : v.getLsbD 1 = false)
    (kick : v.getLsbD 2 = true) (off : (s.rings.get p).state = .off) (notStopping : s.control.device ≠ .stopping) :
    exec (.ringOn p v) s = .next (s.takeRingOn p).useFree := by
  have free : s.useFree.takeRingOn p = (s.takeRingOn p).useFree := by
    rw [State.takeRingOn_of_off off notStopping, State.takeRingOn_of_off (s := s.useFree) off notStopping]
    rfl
  have before : s.useFree.lookAgain p = s.useFree := State.lookAgain_of_other fun h => by
    rcases h.2 with g | g <;> exact absurd (off.symm.trans g) (by decide)
  have after : (s.takeRingOn p).useFree.lookAgain p = (s.takeRingOn p).useFree := State.lookAgain_of_other fun h => by
    have waiting := h.1
    rw [State.takeRingOn_of_off off notStopping] at waiting
    simp only [State.useFree, PerRing.get_set_self, RingUnit.turnedOn] at waiting
    split at waiting <;> cases waiting
  rw [exec_ringOn_eq name on]
  rcases State.portControlWrite_both (s := s) (p := p) kick (by rw [on, notOff]; decide) with first | second
  · rw [first, before, on, notOff]
    exact congrArg _ free
  · rw [second, on, notOff]
    exact congrArg _ ((congrArg (State.lookAgain · p) free).trans after)

/-- A ring that RING_ON leaves is kicked alone, in either order. -/
theorem ringOn_kick_of_ignored (name : s.selected p = some .portControl) (on : v.getLsbD 0 = true)
    (notOff : v.getLsbD 1 = false) (kick : v.getLsbD 2 = true)
    (ignored : (s.rings.get p).state ≠ .off ∨ s.control.device = .stopping) :
    exec (.ringOn p v) s = .next (s.lookAgain p).useFree := by
  have still : s.useFree.takeRingOn p = s.useFree := State.takeRingOn_of_ignored ignored
  have stillAfter : (s.lookAgain p).useFree.takeRingOn p = (s.lookAgain p).useFree := by
    refine State.takeRingOn_of_ignored (ignored.imp (fun live => ?_) fun stopping => ?_)
    · rw [State.lookAgain_eq]
      split
      · simpa [State.enterReady_eq, State.useFree] using live
      · exact live
    · rw [State.lookAgain_eq]
      split <;> exact stopping
  rw [exec_ringOn_eq name on]
  rcases State.portControlWrite_both (s := s) (p := p) kick (by rw [on, notOff]; decide) with first | second
  · rw [first, on, notOff, State.lookAgain_useFree]
    exact congrArg _ stillAfter
  · rw [second, on, notOff, ← State.lookAgain_useFree]
    exact congrArg _ (congrArg (State.lookAgain · p) still)

end

/-- Settles O11. -/
theorem kickLooksAgain : Obligations.KickLooksAgain := by
  refine ⟨fun p v s name same => ⟨fun kick waiting takes => ?_, fun kick other => ?_, fun on noKick => ?_⟩,
    fun p v s name on notOff kick => ⟨?_, fun off notStopping t run => ?_, fun ignored t run => ?_⟩⟩
  · refine answers_of (exec_kick_eq name kick) ?_
    rw [State.portControlWrite_kick kick same, State.lookAgain_of_waiting waiting takes]
  · rw [exec_kick_eq name kick, State.portControlWrite_kick kick same, State.lookAgain_of_other]
    rintro ⟨waiting, takes⟩
    rcases other with h | ⟨notOn, notSilent⟩
    · exact h waiting
    · exact takes.elim notOn notSilent
  · have off : v.getLsbD 1 = true := same ▸ on
    rw [exec_ringOn_eq name on, exec_ringOff_eq name off, State.portControlWrite_switch noKick, on, off]
    exact ⟨rfl, rfl⟩
  · rw [exec_kick_eq name kick, exec_ringOn_eq name on]
  · rw [exec_ringOn_alone name (by decide) (by decide) (by decide)] at run
    obtain rfl := Host.Outcome.next.inj run
    rw [ringOn_kick_of_off name on notOff kick off notStopping, State.takeRingOn_of_off off notStopping]
    rfl
  · rw [exec_kick_eq name (by decide), State.portControlWrite_kick (by decide) (by decide)] at run
    obtain rfl := Host.Outcome.next.inj run
    rw [ringOn_kick_of_ignored name on notOff kick ignored, State.lookAgain_eq]
    split <;> rfl

/-! ### RING_OFF with KICK -/

section
variable {p : Port} {v : Half} {s : State}

/-- RING_OFF first: the ring does not fetch afterwards, so KICK does nothing. -/
theorem ringOff_then_kick (s : State) (p : Port) :
    (s.useFree.takeRingOff p).lookAgain p = (s.takeRingOff p).useFree := by
  rw [State.takeRingOff_useFree]
  exact State.lookAgain_of_other fun h => State.takes_of_fetches (s.takeRingOff_fetches p) h.2

/-- KICK first, at a ring that waits: the ring becomes STOPPING with the status read under way. -/
theorem kick_then_ringOff (waiting : (s.rings.get p).phase = .waiting) (takes : (s.rings.get p).Takes) :
    (s.useFree.lookAgain p).takeRingOff p = { s with
      rings := s.rings.set p { s.rings.get p with state := .stopping, phase := .status }
      ports := feedSent s.ports p
      memory := asked s.memory (.ring p) (statusReadOf (s.rings.get p) p)
      field := triggered s.field ((s.rings.get p).state = .on)
      freeCount := s.freeCount + 1 } := by
  rw [State.lookAgain_of_waiting (s := s.useFree) waiting takes, State.takeRingOff_of_busy]
  · simp [State.useFree]
  · simpa [State.useFree, RingUnit.Takes] using takes
  · simp [State.useFree, RingUnit.AtRest]

end

/-- Settles O12. -/
theorem ringOffByStateAndPhase : Obligations.RingOffByStateAndPhase := by
  refine ⟨fun p v s name notOn off noKick => ?_, fun p v s name notOn off kick => ?_⟩
  · intro u
    have run := exec_ringOff_alone name notOn off noKick
    refine ⟨fun takes rest => answers_of run ?_, fun takes notIdle notWaiting => answers_of run ?_, fun halted => answers_of run ?_,
      fun ignored => ?_⟩
    · rw [State.takeRingOff_of_rest takes rest]
      simp [Accompanied, triggered, reported, u]
    · rw [State.takeRingOff_of_busy takes (by simpa [RingUnit.AtRest] using ⟨notIdle, notWaiting⟩)]
      simp [Accompanied, triggered, u]
    · rw [State.takeRingOff_of_halted halted]
      simp [Accompanied, reported, u]
    · rw [run, State.takeRingOff_of_ignored ignored]
  · intro u waits
    have alone : exec (.ringOff p 2) s = .next (s.takeRingOff p) :=
      exec_ringOff_alone name (by decide) (by decide) (by decide)
    have both := State.portControlWrite_both (s := s) (p := p) kick (by rw [notOn, off]; decide)
    simp only [notOn, off, State.ringSwitch] at both
    refine ⟨by rw [exec_kick_eq name kick, exec_ringOff_eq name off], fun still t run => ?_, fun waiting => ?_⟩
    · obtain rfl := Host.Outcome.next.inj (alone.symm.trans run)
      have count : (s.takeRingOff p).useFree = { s.takeRingOff p with freeCount := s.freeCount + 1 } := by
        simp [State.useFree]
      have looks : s.useFree.lookAgain p = s.useFree := State.lookAgain_of_other still
      rw [exec_ringOff_eq name off, ← count]
      rcases both with first | second
      · rw [first, looks, State.takeRingOff_useFree]
      · rw [second, ringOff_then_kick]
    · refine answers_of (exec_ringOff_eq name off) ?_
      rcases both with first | second
      · right
        rw [first, kick_then_ringOff waiting.1 waiting.2]
        simp [Accompanied, triggered, u]
      · left
        have kept : (s.takeRingOff p).freeCount = s.freeCount := State.takeRingOff_freeCount s p
        rw [second, ringOff_then_kick, alone]
        refine ⟨?_, congrArg (· + 1) kept⟩
        rw [← kept]
        rfl

end Sys2Proof.Machine

/-! STOP (R80, R131, R166, R176, R192, R193): its parts one by one, and the reports that end it. -/

namespace Sys2Proof.Machine

open Sys2Proof.Statement

/-! ### The end of STOPPING -/

theorem RingState.stopped_iff (st : RingState) : st.stopped = true ↔ st = .off ∨ st = .halted := by
  cases st <;> simp [stopped]

namespace State

variable {s : State}

theorem ringsStopped_iff : s.ringsStopped = true ↔ ∀ r, (s.rings.get r).state = .off ∨ (s.rings.get r).state = .halted := by
  simp only [ringsStopped, Bool.and_eq_true, RingState.stopped_iff]
  constructor
  · rintro ⟨⟨a, b⟩, t⟩ r
    cases r with
    | a => exact a
    | b => exact b
    | t => exact t
  · exact fun all => ⟨⟨all .a, all .b⟩, all .t⟩

theorem overlayBusy_iff :
    s.overlayBusy = true ↔ ∃ o ∈ s.plane.stack, ∃ k, o.state = .opening k ∨ o.state = .closing k := by
  simp only [overlayBusy, List.any_eq_true]
  refine exists_congr fun o => and_congr_right fun _ => ?_
  cases h : o.state <;> simp

/-- Does the test end STOPPING? -/
abbrev Ends (s : State) : Prop :=
  s.control.device = .stopping ∧ s.ringsStopped = true ∧ s.overlayBusy = false

/-- The ports once STOP has ended. -/
def stopDonePorts (ports : PerRing PortUnit) : PerRing PortUnit :=
  withCause (withCause (withCause ports .t .stopDone) .a .device) .b .device

theorem stopTest_ends (ends : s.Ends) :
    s.stopTest = { s with control := { s.control with device := .stopped }, ports := stopDonePorts s.ports } := by
  obtain ⟨device, rings, overlay⟩ := ends
  rw [stopTest, if_pos ⟨device, rings, by simp [overlay]⟩]
  rfl

theorem stopTest_goesOn (goesOn : ¬s.Ends) : s.stopTest = s := by
  rw [stopTest, if_neg]
  rintro ⟨device, rings, overlay⟩
  exact goesOn ⟨device, rings, by simpa using overlay⟩

end State

/-! ### STOP in LOADING (R176, R192) -/

/-- The Setup Loader's transaction is dropped, and with no ring waiting nothing is granted. -/
theorem MemoryMaster.dropLoader_eq {m : MemoryMaster} (free : m.held.rings = ⟨none, none, none⟩) :
    m.dropLoader = { m with
      held := { m.held with loader := none }
      sent := { m.sent with loader := none }
      inFlight := match m.inFlight with
        | some tx => if tx.kind.requester = .loader then none else some tx
        | none => none } := by
  obtain ⟨inFlight, ⟨rings, loader⟩, sent, pointer⟩ := m
  obtain rfl : rings = ⟨none, none, none⟩ := free
  cases inFlight with
  | none => rfl
  | some tx =>
    by_cases own : tx.kind.requester = .loader
    · simp only [dropLoader, own, if_true]
      cases pointer <;> rfl
    · simp only [dropLoader, own, if_false]
      rfl

/-- Settles O17. -/
theorem stopInLoadingAndStopping : Obligations.StopInLoadingAndStopping := by
  refine ⟨fun s name loading free => ?_, ⟨fun s r rest reports => ?_, fun s n reports => ?_⟩, fun s =>
    ⟨State.overlayBusy_iff, State.ringsStopped_iff⟩⟩
  · refine answers_of (t := s.stopLoading) (by simp [exec, execStop, name, State.deviceControlWrite, loading]) ?_
    simp only [State.stopLoading, MemoryMaster.dropLoader_eq free]
    rfl
  · refine answers_of (by simp only [exec, execRingStoppedReport, reports]; rfl) ?_
    split
    · next ends => exact State.stopTest_ends (s := { s with control := { s.control with ringReports := rest } }) ends
    · next goesOn => exact State.stopTest_goesOn (s := { s with control := { s.control with ringReports := rest } }) goesOn
  · refine answers_of (by simp only [exec, execOverlayEndReport, reports]; rfl) ?_
    split
    · next ends => exact State.stopTest_ends (s := { s with control := { s.control with overlayReports := n } }) ends
    · next goesOn => exact State.stopTest_goesOn (s := { s with control := { s.control with overlayReports := n } }) goesOn

/-! ### STOP in RUNNING: the Field Unit and the Highlight Timer (R80, R131) -/

/-- The sweep that STOP leaves. -/
def Sweep.abandoned (w : Sweep) : Sweep :=
  { w with active := false, position := 0, rerun := false, rendered := 0, repaint := .none }

/-- What the abandonment of the sweep returns to Ring T. -/
def abandonOutcomes (w : Sweep) : List RingInput :=
  match w.repaint with
  | .none => []
  | .thisPass rr => [.outcome .done (repaintResult w.rendered 1 (passCode rr))]
  | .nextPass => [.outcome .done (repaintResult w.rendered 1 1)]

/-- What an event that waits for nothing more returns to Ring T. -/
def endOutcomes : Option FieldEvent → List RingInput
  | some ⟨[], .complete st w⟩ => [.outcome st w]
  | some ⟨[], .freeAndComplete _ w⟩ => [.outcome .done w]
  | _ => []

/-- The field table at the end of an event that waits for nothing more. -/
def endRecords : Option FieldEvent → Tab FieldRec → Tab FieldRec
  | some ⟨[], .freeAndComplete f _⟩, records => records.set fieldSpec f FieldRec.cleared
  | _, records => records

/-- The event once the Highlight Timer holds no request: a move goes on, and so does one with a span write to send. -/
def endEvent : Option FieldEvent → Option FieldEvent
  | some ⟨[], .moveTo m⟩ => some ⟨[], .moveTo m⟩
  | some ⟨w :: more, after⟩ => some ⟨w :: more, after⟩
  | _ => none

/-- What is returned to Ring T. -/
def returned (rings : PerRing RingUnit) (inputs : List RingInput) : PerRing RingUnit :=
  rings.set .t { rings.t with input := rings.t.input ++ inputs }

theorem returned_nil (rings : PerRing RingUnit) : returned rings [] = rings := by simp [returned, PerRing.set]

theorem returned_returned (rings : PerRing RingUnit) (l m : List RingInput) :
    returned (returned rings l) m = returned rings (l ++ m) := by simp [returned, PerRing.set]

namespace State

theorem abandonSweep_eq (s : State) : s.abandonSweep = { s with
    rings := returned s.rings (abandonOutcomes s.field.sweep)
    field := { s.field with sweep := s.field.sweep.abandoned } } := by
  cases waits : s.field.sweep.repaint with
  | none => simp only [abandonSweep, abandonOutcomes, waits, returned_nil]; rfl
  | thisPass rr => simp only [abandonSweep, abandonOutcomes, waits]; rfl
  | nextPass => simp only [abandonSweep, abandonOutcomes, waits]; rfl

theorem setEvent_self {s : State} {e : Option FieldEvent} (event : s.field.event = e) :
    { s with field := { s.field with event := e } } = s := by rw [← event]

/-- The end of an event outside RUNNING, with no request to the Highlight Timer outstanding and the sweep IDLE. -/
theorem fieldFinish_idle {s : State} (requests : s.highlight.requests = []) (sweep : s.field.sweep.active = false) :
    s.fieldFinish = { s with
      rings := returned s.rings (endOutcomes s.field.event)
      field := { s.field with records := endRecords s.field.event s.field.records, event := endEvent s.field.event } } := by
  cases event : s.field.event with
  | none =>
    rw [fieldFinish_none s event]
    simp only [endOutcomes, endRecords, endEvent, returned_nil]
    exact (setEvent_self event).symm
  | some e =>
    obtain ⟨spans, after⟩ := e
    cases spans with
    | cons w more =>
      have waits : s.fieldFinish = s := by simp [fieldFinish, event]
      rw [waits]
      simp only [endOutcomes, endRecords, endEvent, returned_nil]
      exact (setEvent_self event).symm
    | nil =>
      cases after with
      | moveTo m =>
        rw [fieldFinish_move s [] m event]
        simp only [endOutcomes, endRecords, endEvent, returned_nil]
        exact (setEvent_self event).symm
      | nothing =>
        rw [fieldFinish_done s _ event requests]
        simp [runAfter, endOutcomes, endRecords, endEvent, returned_nil]
      | sweepAdvance b =>
        rw [fieldFinish_done s _ event requests]
        simp [runAfter, sweepAdvance, sweep, endOutcomes, endRecords, endEvent, returned_nil]
      | complete st w =>
        rw [fieldFinish_done s _ event requests]
        rfl
      | freeAndComplete f w =>
        rw [fieldFinish_done s _ event requests]
        rfl

end State

/-! ### STOP in RUNNING: the rings (R166) -/

/-- The Ring Unit after STOP's off request. -/
def RingUnit.stopped (u : RingUnit) : RingUnit :=
  { u with
    state := if u.Takes then (if u.AtRest then .off else .stopping) else u.state
    phase := if u.Takes ∧ u.AtRest then .idle else u.phase }

theorem RingUnit.stopped_of_other {u : RingUnit} (other : ¬u.Takes) : u.stopped = u := by
  simp only [stopped, other, false_and, if_false]

/-- The ports after STOP's off request to a ring. -/
def offPorts (ports : PerRing PortUnit) (u : RingUnit) (r : RingId) : PerRing PortUnit :=
  if u.Takes then feedSent ports r else ports

/-- The Control Unit after STOP's off request to a ring. -/
def offControl (c : ControlUnit) (u : RingUnit) (r : RingId) : ControlUnit :=
  if u.Takes ∧ u.AtRest then reported c r else c

theorem State.offRequest_eq (s : State) (r : RingId) : s.offRequest r = { s with
    rings := s.rings.set r (s.rings.get r).stopped
    ports := offPorts s.ports (s.rings.get r) r
    field := triggered s.field ((s.rings.get r).state = .on)
    control := offControl s.control (s.rings.get r) r } := by
  by_cases takes : (s.rings.get r).Takes
  · have fetches : (s.rings.get r).state.fetches = true := by rcases takes with h | h <;> simp [h, RingState.fetches]
    by_cases rest : (s.rings.get r).AtRest
    · rw [offRequest, if_pos fetches, takeRingOff_of_rest takes rest]
      simp [RingUnit.stopped, offPorts, offControl, takes, rest]
    · rw [offRequest, if_pos fetches, takeRingOff_of_busy takes rest]
      simp [RingUnit.stopped, offPorts, offControl, takes, rest]
  · have still : (s.rings.get r).state.fetches = false := by
      cases h : (s.rings.get r).state <;> simp [RingUnit.Takes, h] at takes <;> rfl
    have notOn : (s.rings.get r).state ≠ .on := fun on => takes (.inl on)
    simp [offRequest, still, RingUnit.stopped_of_other takes, offPorts, offControl, triggered, takes, notOn]

/-- How many sweep triggers a ring sends that leaves ON. -/
def leavesOn (u : RingUnit) : Nat := if u.state = .on then 1 else 0

theorem triggered_eq (f : FieldUnit) (u : RingUnit) :
    triggered f (u.state = .on) = { f with inbox := f.inbox ++ List.replicate (leavesOn u) .trigger } := by
  unfold triggered leavesOn
  split <;> simp

/-- The causes are all that may differ between the ports. -/
def OnlyCauses (before after : PerRing PortUnit) : Prop :=
  ∀ p, after.get p = { before.get p with causes := (after.get p).causes }

namespace OnlyCauses

variable {a b c : PerRing PortUnit}

theorem refl (a : PerRing PortUnit) : OnlyCauses a a := fun _ => rfl

theorem trans (h : OnlyCauses a b) (g : OnlyCauses b c) : OnlyCauses a c := fun p => by rw [g p, h p]

theorem withCause (a : PerRing PortUnit) (p : Port) (x : Cause) : OnlyCauses a (withCause a p x) := by
  intro q
  unfold Statement.withCause
  by_cases same : q = p
  · subst same; simp
  · simp [PerRing.get_set_ne _ _ _ _ same]

theorem offPorts (a : PerRing PortUnit) (u : RingUnit) (r : RingId) : OnlyCauses a (offPorts a u r) := by
  unfold Machine.offPorts feedSent
  split
  · split
    · exact withCause _ _ _
    · exact refl _
  · exact refl _

theorem stopDonePorts (a : PerRing PortUnit) : OnlyCauses a (State.stopDonePorts a) :=
  ((withCause _ _ _).trans (withCause _ _ _)).trans (withCause _ _ _)

end OnlyCauses

/-- The records of a field table that STOP leaves: every tick is NONE. -/
def steadied (records : Tab FieldRec) : Tab FieldRec := records.mapListed fieldSpec fun v => { v with tick := .steady }

/-- What STOP in RUNNING does before the rings take its off request. -/
def State.stopBegun (s : State) : State :=
  { s with
    rings := returned s.rings (stopOutcomes s.field)
    field := { s.field with
      records := endRecords s.field.event (steadied s.field.records), event := endEvent s.field.event
      sweep := s.field.sweep.abandoned }
    highlight := { s.highlight with queue := [], requests := [] }
    control := { s.control with device := .stopping, ignored := false } }

/-- The three rings after STOP's off request. -/
def ringsStopping (rings : PerRing RingUnit) : PerRing RingUnit := ⟨rings.a.stopped, rings.b.stopped, rings.t.stopped⟩

/-- What STOP in RUNNING leaves for the test that may end it. -/
def State.stopSent (s : State) : State :=
  { s.stopBegun with
    rings := ringsStopping s.stopBegun.rings
    ports := offPorts (offPorts (offPorts s.ports s.rings.a .a) s.rings.b .b) s.stopBegun.rings.t .t
    field := { s.stopBegun.field with
      inbox := s.field.inbox ++ List.replicate (leavesOn s.rings.a + leavesOn s.rings.b + leavesOn s.rings.t) .trigger }
    control := offControl (offControl (offControl s.stopBegun.control s.rings.a .a) s.rings.b .b) s.stopBegun.rings.t .t }

namespace State

variable {s : State}

theorem stopBegun_eq (s : State) :
    { s with control := { s.control with device := .stopping, ignored := false } }.clearHighlights.abandonSweep.fieldFinish =
      s.stopBegun := by
  rw [abandonSweep_eq, fieldFinish_idle (by rfl) (by rfl)]
  simp only [clearHighlights, returned_returned, stopBegun, steadied]
  rfl

theorem stopRunning_eq (s : State) : s.stopRunning = s.stopSent.stopTest := by
  unfold stopRunning
  dsimp only
  rw [stopBegun_eq, offRequest_eq, offRequest_eq, offRequest_eq]
  simp only [triggered_eq, stopSent, List.append_assoc, List.replicate_append_replicate, Nat.add_assoc]
  rfl

/-! ### What STOP in RUNNING leaves -/

theorem stopSent_device (s : State) : s.stopSent.control.device = .stopping := by
  simp only [stopSent, offControl]
  split_ifs <;> rfl

theorem stopSent_control (s : State) : s.stopSent.control =
    { s.control with device := .stopping, ignored := false, ringReports := s.stopSent.control.ringReports } := by
  simp only [stopSent, offControl]
  split_ifs <;> rfl

theorem stopSent_ports (s : State) : OnlyCauses s.ports s.stopSent.ports :=
  ((OnlyCauses.offPorts _ _ _).trans (OnlyCauses.offPorts _ _ _)).trans (OnlyCauses.offPorts _ _ _)

theorem stopSent_rings (s : State) (r : RingId) : s.stopSent.rings.get r = (s.stopBegun.rings.get r).stopped := by
  cases r <;> rfl

/-- The ends of STOP: STOPPED at once, or STOPPING. -/
theorem stopSent_ends : s.stopSent.Ends ↔
    (∀ r, (s.stopSent.rings.get r).state = .off ∨ (s.stopSent.rings.get r).state = .halted) ∧ s.overlayBusy = false := by
  have plane : s.stopSent.overlayBusy = s.overlayBusy := rfl
  simp only [Ends, stopSent_device, ringsStopped_iff, plane, true_and]

theorem stopDonePorts_causes (ports : PerRing PortUnit) : .stopDone ∈ (stopDonePorts ports).t.causes ∧
    .device ∈ (stopDonePorts ports).a.causes ∧ .device ∈ (stopDonePorts ports).b.causes := by
  simp [stopDonePorts, Statement.withCause, PerRing.set, PerRing.get]

theorem steadied_get {records : Tab FieldRec} (wf : Tab.WF fieldSpec records) (f : Nat) :
    (steadied records).get fieldSpec f = { records.get fieldSpec f with tick := .steady } :=
  Tab.get_mapListed fieldSpec (fun v => { v with tick := .steady }) rfl _ f wf

/-- The event of UNBIND_FIELD that waited for the Highlight Timer alone frees its record. -/
theorem stopBegun_freed (wf : Tab.WF fieldSpec s.field.records) {f : Nat} {w : Word}
    (event : s.field.event = some ⟨[], .freeAndComplete f w⟩) : s.stopBegun.record f = FieldRec.cleared := by
  have wf' : Tab.WF fieldSpec (steadied s.field.records) := Tab.mapListed_wf fieldSpec _ _ wf
  simp only [stopBegun, record, event, endRecords, Tab.get_set _ _ _ _ _ wf', true_and]
  split
  · rfl
  · next outside => simp only [Tab.get, outside, if_false]; rfl

/-- Every other record keeps all but its tick. -/
theorem stopBegun_record (wf : Tab.WF fieldSpec s.field.records) {f : Nat}
    (other : ∀ w, s.field.event ≠ some ⟨[], .freeAndComplete f w⟩) :
    s.stopBegun.record f = { s.record f with tick := .steady } := by
  have wf' : Tab.WF fieldSpec (steadied s.field.records) := Tab.mapListed_wf fieldSpec _ _ wf
  simp only [stopBegun, record]
  unfold endRecords
  split
  · next g w event =>
    have apart : f ≠ g := by
      rintro rfl
      exact other w event
    rw [Tab.get_set_ne _ _ _ _ _ wf' apart, steadied_get wf]
  · exact steadied_get wf f

theorem stopBegun_tick (wf : Tab.WF fieldSpec s.field.records) (f : Nat) : (s.stopBegun.record f).tick = .steady := by
  by_cases freed : ∃ w, s.field.event = some ⟨[], .freeAndComplete f w⟩
  · obtain ⟨w, event⟩ := freed
    rw [stopBegun_freed wf event]
    rfl
  · rw [stopBegun_record wf fun w event => freed ⟨w, event⟩]

theorem endEvent_moves (e : Option FieldEvent) : (e = none → endEvent e = none) ∧
    (∀ after, e = some ⟨[], after⟩ → (∀ m, after ≠ .moveTo m) → endEvent e = none) ∧
    (∀ w more after, e = some ⟨w :: more, after⟩ → endEvent e = e) := by
  refine ⟨?_, ?_, ?_⟩
  · rintro rfl
    rfl
  · rintro after rfl notMove
    cases after with
    | moveTo m => exact absurd rfl (notMove m)
    | _ => rfl
  · rintro w more after rfl
    rfl

theorem leavesOn_sum (s : State) : leavesOn s.rings.a + leavesOn s.rings.b + leavesOn s.rings.t = 0 ↔
    ∀ r, (s.rings.get r).state ≠ .on := by
  have one (u : RingUnit) : leavesOn u = 0 ↔ u.state ≠ .on := by simp [leavesOn]
  rw [Nat.add_eq_zero_iff, Nat.add_eq_zero_iff, one, one, one]
  constructor
  · rintro ⟨⟨a, b⟩, t⟩ r
    cases r with
    | a => exact a
    | b => exact b
    | t => exact t
  · exact fun all => ⟨⟨all .a, all .b⟩, all .t⟩

end State

/-- The Ring Unit that STOP leaves is the one before with more inputs, turned off. -/
theorem stopSent_ring (s : State) (r : RingId) :
    (let u := s.rings.get r
     s.stopSent.rings.get r = { u with
       state := if u.Takes then (if u.AtRest then .off else .stopping) else u.state
       phase := if u.Takes ∧ u.AtRest then .idle else u.phase
       input := (s.stopSent.rings.get r).input }) ∧
    (r ≠ .t → (s.stopSent.rings.get r).input = (s.rings.get r).input) := by
  cases r with
  | a => exact ⟨rfl, fun _ => rfl⟩
  | b => exact ⟨rfl, fun _ => rfl⟩
  | t => exact ⟨rfl, fun h => absurd rfl h⟩

theorem exec_stop_running {s : State} (name : s.selected .t = some .deviceControl) (running : s.control.device = .running) :
    exec .stop s = .next s.stopSent.stopTest := by
  simp [exec, execStop, name, State.deviceControlWrite, running, State.stopRunning_eq]

/-- Settles O16. -/
theorem stopInRunning : Obligations.StopInRunning := by
  refine ⟨fun s name running wf => answers_of (exec_stop_running name running) ?_,
    fun s name running => answers_of (exec_stop_running name running) ?_⟩
  · have tick := State.stopBegun_tick wf
    have freed (f w) := State.stopBegun_freed (s := s) wf (f := f) (w := w)
    have kept (f) := State.stopBegun_record (s := s) wf (f := f)
    have field : ∃ n, s.stopSent.field = { s.field with
        records := s.stopSent.field.records, event := s.stopSent.field.event
        inbox := s.field.inbox ++ List.replicate n .trigger, sweep := s.field.sweep.abandoned } ∧
        (n = 0 ↔ ∀ r, (s.rings.get r).state ≠ .on) := ⟨_, rfl, s.leavesOn_sum⟩
    by_cases ends : s.stopSent.Ends
    · rw [State.stopTest_ends ends]
      refine ⟨rfl, rfl, tick, freed, kept, field, stopSent_ring s, s.stopSent_ports.trans (OnlyCauses.stopDonePorts _), ?_,
        .inl rfl, ?_, fun _ => State.stopDonePorts_causes _⟩
      · exact congrArg (fun c : ControlUnit => { c with device := .stopped }) s.stopSent_control
      · exact ⟨fun _ => State.stopSent_ends.mp ends, fun _ => rfl⟩
    · rw [State.stopTest_goesOn ends]
      refine ⟨rfl, rfl, tick, freed, kept, field, stopSent_ring s, s.stopSent_ports, ?_, .inr s.stopSent_device, ?_, ?_⟩
      · rw [s.stopSent_device]; exact s.stopSent_control
      · rw [s.stopSent_device, ← State.stopSent_ends]
        exact ⟨(by cases ·), fun h => absurd h ends⟩
      · rw [s.stopSent_device]; exact fun h => by cases h
  · obtain ⟨none, ended, waits⟩ := State.endEvent_moves s.field.event
    by_cases ends : s.stopSent.Ends
    · rw [State.stopTest_ends ends]
      exact ⟨rfl, none, ended, waits⟩
    · rw [State.stopTest_goesOn ends]
      exact ⟨rfl, none, ended, waits⟩

end Sys2Proof.Machine

/-! START after its setup read: the checks, the font load and the commit (R45, R100, R135, R136, R181, R182, R190,
R191). -/

namespace Sys2Proof.Machine

open Sys2Proof.Statement

/-! ### Values of the setup block -/

theorem setupByte_lt (ws : List Word) (n : Nat) : setupByte ws n < 256 := byteOf_lt _ _

@[simp] theorem tabulate_getElem {α : Type} {n : Nat} (f : Nat → α) (k : Nat) (h : k < n) : (tabulate n f)[k] = f k := by
  simp [tabulate]

@[simp] theorem tabulate_get {α : Type} {n : Nat} (f : Nat → α) (k : Fin n) : (tabulate n f).get k = f k.val :=
  tabulate_getElem f k.val k.isLt

theorem ofNat_byteOf (w : Word) (k : Nat) : BitVec.ofNat 8 (byteOf w k) = w.extractLsb' (8 * k) 8 := by
  rw [byteOf_eq_toNat_extractLsb', BitVec.ofNat_toNat, BitVec.setWidth_eq]

theorem blinkOf_none {n : Nat} (small : n < 4) : blinkOf n = none ↔ n = 3 := by
  interval_cases n <;> simp [blinkOf]

theorem setupPen_none (ws : List Word) (n : Nat) :
    (setupPen ws n).isNone = true ↔ setupHalf ws (56 + 2 * n) / 256 % 4 = 3 := by
  rw [Option.isNone_iff_eq_none, setupPen, penOf, Option.map_eq_none_iff, blinkOf_none (Nat.mod_lt _ (by decide))]

/-! ### The checks, the faults and the font load (R136, R190) -/

namespace State

variable {s : State}

theorem exec_setupReadEnd_eq {ws : List Word} (input : s.control.loaderInput = some (.setupWords ws))
    (stage : s.control.stage = .setup) : exec .setupReadEnd s = .next (s.takeSetup ws) := by
  simp only [exec, execSetupReadEnd, input, stage]

theorem takeSetup_fails {ws : List Word} {o : StartOutcome} (fails : setupFailure ws = some o) :
    s.takeSetup ws = s.failStart o := by
  simp only [takeSetup, fails]
  rfl

theorem takeSetup_font {ws : List Word} (passes : setupFailure ws = none) (font : setupFontLoad ws = true) :
    s.takeSetup ws = readGlyph { s with control := { s.control with loaderInput := none, block := ws } } 0 := by
  simp only [takeSetup, passes, font, if_true]

theorem takeSetup_commit {ws : List Word} (passes : setupFailure ws = none) (noFont : setupFontLoad ws = false) :
    s.takeSetup ws = commit { s with control := { s.control with loaderInput := none } } ws := by
  simp only [takeSetup, passes, noFont, Bool.false_eq_true, if_false]

theorem commit_lastStart (s : State) (ws : List Word) : (s.commit ws).control.lastStart = .done := by
  simp [commit, commitTrigger]

theorem commit_glyphs (s : State) (ws : List Word) : (s.commit ws).video.glyphs = s.video.glyphs := by
  simp only [commit]
  split <;> simp [commitTrigger, commitShares, VideoGenerator.commit, regeometry]

end State

/-- The setup checks in their order. -/
theorem setupFailure_checks (ws : List Word) :
    let geometry : Prop := 32 ≤ setupByte ws 0 ∧ setupByte ws 0 ≤ 128 ∧ 8 ≤ setupByte ws 1 ∧ setupByte ws 1 ≤ 48 ∧
      setupByte ws 0 * setupByte ws 1 ≤ 6144
    let height : Prop := 8 ≤ setupByte ws 2 ∧ setupByte ws 2 ≤ 16
    let blink : Prop := 2 ≤ setupByte ws 3 ∧ setupByte ws 3 ≤ 255
    let ring : Prop := setupByte ws 6 ≤ 6
    let pens : Prop := ∀ n < 32, setupHalf ws (56 + 2 * n) / 256 % 4 ≠ 3
    (¬geometry → setupFailure ws = some .geometry) ∧
    (geometry → ¬height → setupFailure ws = some .glyphHeight) ∧
    (geometry → height → ¬blink → setupFailure ws = some .blink) ∧
    (geometry → height → blink → ¬ring → setupFailure ws = some .ring) ∧
    (geometry → height → blink → ring → ¬pens → setupFailure ws = some .pen) ∧
    (geometry → height → blink → ring → pens → setupFailure ws = none) := by
  intro geometry height blink ring pens
  have badGeometry : setupByte ws 0 < 32 ∨ 128 < setupByte ws 0 ∨ setupByte ws 1 < 8 ∨ 48 < setupByte ws 1 ∨
      6144 < setupByte ws 0 * setupByte ws 1 ↔ ¬geometry := by simp only [geometry]; omega
  have badHeight : setupByte ws 2 < 8 ∨ 16 < setupByte ws 2 ↔ ¬height := by simp only [height]; omega
  have badBlink : setupByte ws 3 < 2 ↔ ¬blink := by
    have byte := setupByte_lt ws 3
    simp only [blink]; omega
  have badRing : 6 < setupByte ws 6 ↔ ¬ring := by simp only [ring]; omega
  have badPens : (List.range 32).any (fun n => (setupPen ws n).isNone) = true ↔ ¬pens := by
    simp only [List.any_eq_true, List.mem_range, setupPen_none, pens, not_forall, not_not, exists_prop]
  simp only [setupFailure, badGeometry, badHeight, badBlink, badRing, badPens]
  refine ⟨fun g => ?_, fun g h => ?_, fun g h b => ?_, fun g h b r => ?_, fun g h b r p => ?_, fun g h b r p => ?_⟩
  · rw [if_pos g]
  · rw [if_neg (not_not.mpr g), if_pos h]
  · rw [if_neg (not_not.mpr g), if_neg (not_not.mpr h), if_pos b]
  · rw [if_neg (not_not.mpr g), if_neg (not_not.mpr h), if_neg (not_not.mpr b), if_pos r]
  · rw [if_neg (not_not.mpr g), if_neg (not_not.mpr h), if_neg (not_not.mpr b), if_neg (not_not.mpr r), if_pos p]
  · rw [if_neg (not_not.mpr g), if_neg (not_not.mpr h), if_neg (not_not.mpr b), if_neg (not_not.mpr r),
      if_neg (not_not.mpr p)]

theorem setupFontAddress_eq (ws : List Word) : setupFontAddress ws = (ws.getD 4 0).toNat / 16 * 16 := by
  simp [setupFontAddress, alignDown_eq]

/-- Settles O18. -/
theorem setupReadByChecks : Obligations.SetupReadByChecks := by
  refine ⟨⟨fun s ws o input stage fails => ?_, fun s ws input stage passes font => ?_, fun s ws input stage passes noFont => ?_,
    fun s input stage => ?_, fun s g input stage => ?_⟩, setupFailure_checks⟩
  · refine answers_of (State.exec_setupReadEnd_eq input stage) ?_
    rw [State.takeSetup_fails fails]
    rfl
  · refine answers_of (State.exec_setupReadEnd_eq input stage) ?_
    rw [State.takeSetup_font passes font]
    simp [State.readGlyph, State.sendMemory, asked, setupFontAddress_eq]
  · refine answers_of (State.exec_setupReadEnd_eq input stage) ?_
    rw [State.takeSetup_commit passes noFont]
    exact ⟨State.commit_device _ _, State.commit_lastStart _ _⟩
  · exact answers_of (t := s.failStart .fetchFault) (by simp only [exec, execFetchFault, input, stage]) rfl
  · exact answers_of (t := s.failStart .fontFault) (by simp only [exec, execFontFault, input, stage]) rfl

/-- Settles O19. -/
theorem fontLoadGlyphByGlyph : Obligations.FontLoadGlyphByGlyph := by
  refine ⟨fun s ws g input stage => ?_, fun s w sent more => ?_, fun s w sent last => ?_⟩
  · refine answers_of (t := { s with
      control := { s.control with loaderInput := none }, video := { s.video with glyphWrite := some ⟨g, glyphOf ws⟩ } })
      (by simp [exec, execGlyphReadEnd, input, stage]) ⟨rfl, glyphOf ws, rfl, fun j k hj hk => ?_⟩
    have word : (4 * j + k) / 4 = j := by omega
    have byte : (4 * j + k) % 4 = k := by omega
    rw [glyphOf, tabulate_getElem, word, byte, ofNat_byteOf]
  · refine answers_of (by simp only [exec, execGlyphWrite, sent, more, if_true]; rfl) ?_
    simp [State.readGlyph, State.storeGlyph, State.sendMemory, asked, setupFontAddress_eq]
  · refine answers_of (t := (s.storeGlyph w).commit s.control.block)
      (by simp [exec, execGlyphWrite, sent, last, State.storeGlyph]) ?_
    refine ⟨State.commit_device _ _, State.commit_lastStart _ _, ?_⟩
    rw [State.commit_glyphs, State.storeGlyph, last]

/-! ### The commit (R191) -/

/-- The state of a commit under its geometry: a new one is taken, and the one held is left. -/
def State.underGeometry (s : State) (ws : List Word) : State :=
  if s.geometryDiffers ws then s.regeometry (setupGeometry ws) else s

/-- The Ring Unit once the device is RUNNING: one in ON has asked for its status read (R165). -/
def RingUnit.started (u : RingUnit) : RingUnit := { u with phase := if u.state = .on then .status else u.phase }

/-- The requests with that of a ring in ON for its status read. -/
def askedIfOn (q : Requests) (u : RingUnit) (r : RingId) : Requests :=
  if u.state = .on then q.set (.ring r) (some (statusReadOf u r)) else q

theorem askedIfOn_get_self (q : Requests) (u : RingUnit) (r : RingId) : (askedIfOn q u r).rings.get r =
    if u.state = .on then some (statusReadOf u r) else q.rings.get r := by
  unfold askedIfOn
  split
  · simp [Requests.set]
  · rfl

theorem askedIfOn_get_ne (q : Requests) (u : RingUnit) {r p : RingId} (other : p ≠ r) :
    (askedIfOn q u r).rings.get p = q.rings.get p := by
  unfold askedIfOn
  split
  · simp [Requests.set, PerRing.get_set_ne _ _ _ _ other]
  · rfl

theorem askedIfOn_loader (q : Requests) (u : RingUnit) (r : RingId) : (askedIfOn q u r).loader = q.loader := by
  unfold askedIfOn
  split <;> rfl

/-- The requests of the three rings. -/
def startedRequests (q : Requests) (rings : PerRing RingUnit) : Requests :=
  askedIfOn (askedIfOn (askedIfOn q rings.a .a) rings.b .b) rings.t .t

theorem startedRequests_get (q : Requests) (rings : PerRing RingUnit) (r : RingId) : (startedRequests q rings).rings.get r =
    if (rings.get r).state = .on then some (statusReadOf (rings.get r) r) else q.rings.get r := by
  unfold startedRequests
  cases r with
  | a => rw [askedIfOn_get_ne _ _ (by decide), askedIfOn_get_ne _ _ (by decide), askedIfOn_get_self]; rfl
  | b =>
    rw [askedIfOn_get_ne _ _ (by decide), askedIfOn_get_self, askedIfOn_get_ne _ _ (by decide)]
    rfl
  | t =>
    rw [askedIfOn_get_self, askedIfOn_get_ne _ _ (by decide), askedIfOn_get_ne _ _ (by decide)]
    rfl

theorem startedRequests_loader (q : Requests) (rings : PerRing RingUnit) : (startedRequests q rings).loader = q.loader := by
  simp only [startedRequests, askedIfOn_loader]

namespace State

variable {s : State}

theorem startRing_of_on {r : RingId} (on : (s.rings.get r).state = .on) : s.startRing r = { s with
    rings := s.rings.set r { s.rings.get r with phase := .status }
    memory := asked s.memory (.ring r) (statusReadOf (s.rings.get r) r) } := by
  rw [startRing, if_pos on]
  rfl

theorem startRing_of_other {r : RingId} (other : (s.rings.get r).state ≠ .on) : s.startRing r = s := if_neg other

/-- Whether a ring is ON or not, what `startRing` makes of it and of the requests. -/
theorem startRing_eq (s : State) (r : RingId) : s.startRing r = { s with
    rings := s.rings.set r (s.rings.get r).started
    memory := { s.memory with sent := askedIfOn s.memory.sent (s.rings.get r) r } } := by
  by_cases on : (s.rings.get r).state = .on
  · rw [startRing_of_on on]
    simp [RingUnit.started, on, asked, askedIfOn]
  · have same : (s.rings.get r).started = s.rings.get r := by simp only [RingUnit.started, on, if_false]
    rw [startRing_of_other on, same]
    simp [askedIfOn, on]

theorem startRings_eq (s : State) : ((s.startRing .a).startRing .b).startRing .t = { s with
    rings := ⟨s.rings.a.started, s.rings.b.started, s.rings.t.started⟩
    memory := { s.memory with sent := startedRequests s.memory.sent s.rings } } := by
  rw [startRing_eq, startRing_eq, startRing_eq]
  rfl

theorem underGeometry_same {ws : List Word} (same : s.plane.geometry = some (setupGeometry ws)) : s.underGeometry ws = s := by
  simp [underGeometry, geometryDiffers, same]

theorem underGeometry_new {ws : List Word} (new : s.plane.geometry ≠ some (setupGeometry ws)) :
    s.underGeometry ws = s.regeometry (setupGeometry ws) := by
  simp [underGeometry, geometryDiffers, new]

/-- A geometry that is taken changes these alone. -/
theorem underGeometry_frame (s : State) (ws : List Word) : s.underGeometry ws = { s with
    plane := { s.plane with
      geometry := some (setupGeometry ws), cells := (s.underGeometry ws).plane.cells
      stack := (s.underGeometry ws).plane.stack }
    field := { s.field with
      records := (s.underGeometry ws).field.records, occupancy := (s.underGeometry ws).field.occupancy }
    video := { s.video with
      cursor := (s.underGeometry ws).video.cursor, cursorChanges := (s.underGeometry ws).video.cursorChanges } } := by
  by_cases same : s.plane.geometry = some (setupGeometry ws)
  · rw [underGeometry_same same, ← same]
  · rw [underGeometry_new same]
    simp [regeometry, PlaneController.regeometry, FieldUnit.regeometry]

/-- The commit, all of it but what the geometry changes. -/
theorem commit_eq (s : State) (ws : List Word) : s.commit ws = { s with
    control := { s.control with
      device := .running, lastStart := .done, stage := .idle, block := [], loaderInput := none }
    ports := withCause (withCause (withCause s.ports .t .startDone) .a .device) .b .device
    field := { s.field with
      absentGlyph := setupAbsentGlyph ws, inbox := joinTrigger s.field.inbox
      records := (s.underGeometry ws).field.records, occupancy := (s.underGeometry ws).field.occupancy }
    highlight := { s.highlight with holds := setupHolds ws }
    plane := { s.plane with
      geometry := some (setupGeometry ws), cells := (s.underGeometry ws).plane.cells
      stack := (s.underGeometry ws).plane.stack }
    video := { s.video with
      palette := setupPalette ws, pens := setupPens ws, glyphHeight := some (setupByte ws 2)
      blinkHalf := setupByte ws 3, blinkCounter := 0, shown := true, glyphWrite := none
      cursor := (s.underGeometry ws).video.cursor, cursorChanges := (s.underGeometry ws).video.cursorChanges }
    rings := ⟨(commitRings s.rings ws).a.started, (commitRings s.rings ws).b.started, (commitRings s.rings ws).t.started⟩
    memory := { s.memory with sent := startedRequests s.memory.sent (commitRings s.rings ws) } } := by
  have whole : s.commit ws = ((((((s.underGeometry ws).commitShares ws).endStart .running .done).sendCause .a .device).sendCause
      .b .device).commitTrigger.startRing .a |>.startRing .b |>.startRing .t) := rfl
  rw [whole, startRings_eq, underGeometry_frame]
  rfl

end State

/-! ### The field table and the occupancy map under a new geometry (R45) -/

/-- The cells of the span of a record under a geometry. -/
def FieldRec.cellsUnder (g : Geometry) (r : FieldRec) : List Nat :=
  (List.range r.width).map fun i => r.row * g.columns + (r.col + i)

/-- Does a listed record cover a cell: is it BOUND, with the cell in its span? -/
abbrev Covering (g : Geometry) (n : Nat) (e : Nat × FieldRec) : Prop := e.2.state = .bound ∧ n ∈ e.2.cellsUnder g

/-- What the spans of the BOUND records of a list leave to be read. -/
theorem foldl_spans (g : Geometry) {n : Nat} (small : n < 6144) : ∀ (l : Tab FieldRec) (occ : Tab (Option Nat)),
    Tab.WF occSpec occ →
    (((l.foldl (fun occ e => if e.2.state = .bound then markCells occ (e.2.cellsUnder g) (some e.1) else occ) occ).get
        occSpec n = none) ↔ occ.get occSpec n = none ∧ ∀ e ∈ l, ¬Covering g n e) ∧
    ∀ f, (l.foldl (fun occ e => if e.2.state = .bound then markCells occ (e.2.cellsUnder g) (some e.1) else occ) occ).get
        occSpec n = some f → occ.get occSpec n = some f ∨ ∃ e ∈ l, e.1 = f ∧ Covering g n e
  | [], occ, _ => ⟨by simp, fun f h => .inl h⟩
  | e :: rest, occ, wf => by
    have ih := foldl_spans g small rest (if e.2.state = .bound then markCells occ (e.2.cellsUnder g) (some e.1) else occ)
      (by split
          · exact markCells_wf _ _ _ wf
          · exact wf)
    have marked : (if e.2.state = .bound then markCells occ (e.2.cellsUnder g) (some e.1) else occ).get occSpec n =
        if Covering g n e then some e.1 else occ.get occSpec n := by
      by_cases bound : e.2.state = .bound
      · simp only [bound, if_true, Covering, true_and]
        exact get_markCells _ n small _ _ wf
      · simp [Covering, bound]
    obtain ⟨empty, named⟩ := ih
    rw [marked] at empty named
    simp only [List.foldl_cons, List.forall_mem_cons]
    by_cases covering : Covering g n e
    · refine ⟨?_, fun f h => ?_⟩
      · rw [empty, if_pos covering]
        simp [covering]
      · rcases named f h with here | ⟨v, listed, same, covers⟩
        · rw [if_pos covering] at here
          exact .inr ⟨e, by simp, Option.some.inj here, covering⟩
        · exact .inr ⟨v, List.mem_cons_of_mem _ listed, same, covers⟩
    · refine ⟨?_, fun f h => ?_⟩
      · rw [empty, if_neg covering]
        simp [covering]
      · rcases named f h with here | ⟨v, listed, same, covers⟩
        · rw [if_neg covering] at here
          exact .inl here
        · exact .inr ⟨v, List.mem_cons_of_mem _ listed, same, covers⟩

/-- The occupancy map rebuilt from a field table: a cell names a BOUND field whose span covers it, and none where there is
no such field. -/
theorem occupancyOf_get (g : Geometry) {records : Tab FieldRec} (wf : Tab.WF fieldSpec records) {n : Nat} (small : n < 6144) :
    ((occupancyOf g records).get occSpec n = none ↔ ∀ f, ¬Covering g n (f, records.get fieldSpec f)) ∧
    ∀ f, (occupancyOf g records).get occSpec n = some f → Covering g n (f, records.get fieldSpec f) := by
  have listed {f : Nat} {v : FieldRec} (bound : v.state = .bound) : (f, v) ∈ records ↔ records.get fieldSpec f = v :=
    Tab.mem_iff wf f v fun cleared => by simp [cleared, fieldSpec, FieldRec.cleared] at bound
  obtain ⟨empty, named⟩ := foldl_spans g small records [] (Tab.nil_wf _)
  rw [Tab.get_nil] at empty named
  constructor
  · refine empty.trans ⟨fun none f covering => ?_, fun none => ⟨rfl, fun e member covering => ?_⟩⟩
    · exact none.2 _ ((listed covering.1).mpr rfl) covering
    · refine none e.1 ?_
      rwa [(listed covering.1).mp member]
  · intro f here
    rcases named f here with unmarked | ⟨e, member, rfl, covering⟩
    · exact absurd unmarked (by simp [occSpec])
    · rwa [(listed covering.1).mp member]

theorem regeometry_record {s : State} (wf : Tab.WF fieldSpec s.field.records) (g : Geometry) (f : Nat) :
    (s.regeometry g).record f = (s.record f).regeometry g :=
  Tab.get_mapListed fieldSpec (FieldRec.regeometry g) (FieldRec.regeometry_cleared g) _ f wf

theorem FieldRec.regeometry_eq (g : Geometry) (r : FieldRec) : r.regeometry g = { r with
    state := if r.state = .bound ∧ ¬(r.row < g.rows ∧ r.col + r.width ≤ g.columns) then .suspended else r.state } := by
  have fits : (!r.fits g) = true ↔ ¬(r.row < g.rows ∧ r.col + r.width ≤ g.columns) := by
    simp only [FieldRec.fits, Bool.not_eq_true', ← Bool.not_eq_true, Bool.and_eq_true, decide_eq_true_eq]
  unfold FieldRec.regeometry
  simp only [fits]
  split <;> rfl

theorem mem_cellsUnder (g : Geometry) (r : FieldRec) (n : Nat) :
    n ∈ r.cellsUnder g ↔ ∃ i < r.width, n = r.row * g.columns + (r.col + i) := by
  simp only [FieldRec.cellsUnder, List.mem_map, List.mem_range, eq_comm]

namespace State

variable {s : State} {ws : List Word}

theorem commit_rings (s : State) (ws : List Word) (r : RingId) :
    (s.commit ws).rings.get r = ((commitRings s.rings ws).get r).started := by
  rw [commit_eq]
  cases r <;> rfl

theorem commitRings_state (rings : PerRing RingUnit) (r : RingId) (other : r ≠ .t) :
    ((commitRings rings ws).get r).state = (rings.get r).state := by
  cases r with
  | a | b => rfl
  | t => exact absurd rfl other

/-- The field table and the occupancy map after a commit with a new geometry. -/
theorem commit_field (new : s.plane.geometry ≠ some (setupGeometry ws)) :
    (s.commit ws).field.records = (s.regeometry (setupGeometry ws)).field.records ∧
    (s.commit ws).field.occupancy = occupancyOf (setupGeometry ws) (s.regeometry (setupGeometry ws)).field.records := by
  rw [commit_eq, underGeometry_new new]
  exact ⟨rfl, rfl⟩

end State

/-- The records and the occupancy map that a new geometry leaves. -/
theorem commit_spans {s : State} {ws : List Word} (new : s.plane.geometry ≠ some (setupGeometry ws))
    (wf : Tab.WF fieldSpec s.field.records) :
    (∀ f, (s.commit ws).record f = (s.record f).regeometry (setupGeometry ws)) ∧
    ∀ n < 6144, ((s.commit ws).field.occupancy.get occSpec n = none ↔
        ∀ f, ¬Covering (setupGeometry ws) n (f, (s.commit ws).record f)) ∧
      ∀ f, (s.commit ws).field.occupancy.get occSpec n = some f →
        Covering (setupGeometry ws) n (f, (s.commit ws).record f) := by
  obtain ⟨records, occupancy⟩ := State.commit_field new
  have wf' : Tab.WF fieldSpec (s.commit ws).field.records :=
    records ▸ Tab.mapListed_wf fieldSpec (FieldRec.regeometry (setupGeometry ws)) _ wf
  constructor
  · intro f
    rw [State.record, records]
    exact regeometry_record wf _ f
  · intro n small
    rw [occupancy, ← records]
    exact occupancyOf_get _ wf' small

/-- The commit, as the statement gives it. -/
theorem committed (s : State) (ws : List Word) : Committed s (s.commit ws) ws := by
  unfold Committed
  intro g covers
  have sent : (s.commit ws).memory.sent = startedRequests s.memory.sent (commitRings s.rings ws) := by rw [State.commit_eq]
  have inbox : (s.commit ws).field.inbox = joinTrigger s.field.inbox := by rw [State.commit_eq]
  refine ⟨?_, fun none => inbox.trans (joinTrigger_append _ none), fun earlier later held first => ?_,
    sent ▸ startedRequests_loader _ _, fun r => ?_, fun same => ?_, fun new => ?_⟩
  · rw [State.commit_eq]
    rfl
  · rw [inbox, held, joinTrigger_step _ _ first]
  · rw [sent, startedRequests_get, State.commit_rings]
    rfl
  · have same : s.plane.geometry = some (setupGeometry ws) := same
    have plane : (s.commit ws).plane = s.plane := by
      rw [State.commit_eq, State.underGeometry_same same]
      simp only [← same]
    refine ⟨plane, ?_⟩
    rw [State.commit_eq, State.underGeometry_same same]
    exact ⟨rfl, rfl, rfl, rfl⟩
  · have new : s.plane.geometry ≠ some (setupGeometry ws) := new
    have board : (s.commit ws).plane.cells = Tab.filled cellSpec ⟨32, 0⟩ ∧ (s.commit ws).plane.stack = [] ∧
        (s.commit ws).video.cursor = Cursor.reset ∧ (s.commit ws).video.cursorChanges = [] := by
      rw [State.commit_eq, State.underGeometry_new new]
      simp [State.regeometry, PlaneController.regeometry]
    obtain ⟨cells, stack, cursor, changes⟩ := board
    refine ⟨fun n small => ?_, stack, cursor, changes, fun wf => ?_⟩
    · rw [cells]
      exact Tab.get_filled _ _ _ small
    · obtain ⟨records, spans⟩ := commit_spans new wf
      refine ⟨fun f => (records f).trans (FieldRec.regeometry_eq _ _), fun n small => ?_⟩
      have covered (f : Nat) : covers f n ↔ Covering (setupGeometry ws) n (f, (s.commit ws).record f) :=
        and_congr_right fun _ => (mem_cellsUnder _ _ _).symm
      simp only [covered]
      exact spans n small

/-! ### The fields of the setup block (11.5, 11.6) -/

theorem setupPalette_get (ws : List Word) (n : Fin 16) :
    let h := setupHalf ws (24 + 2 * n.val)
    let c := (setupPalette ws).get n
    c.blue.toNat = h % 16 ∧ c.green.toNat = h / 16 % 16 ∧ c.red.toNat = h / 256 % 16 := by
  intro h c
  have entry : c = colourOf h := tabulate_get _ n
  rw [entry]
  exact ⟨BitVec.toNat_ofNat .., BitVec.toNat_ofNat .., BitVec.toNat_ofNat ..⟩

theorem penOf_some {h : Nat} {p : Pen} (made : penOf h = some p) : p.foreground.toNat = h % 16 ∧
    p.background.toNat = h / 16 % 16 ∧ blinkOf (h / 256 % 4) = some p.blink ∧
    p.underline = decide (h / 1024 % 2 = 1) ∧ p.reverse = decide (h / 2048 % 2 = 1) := by
  obtain ⟨b, blink, rfl⟩ := Option.map_eq_some_iff.mp made
  exact ⟨BitVec.toNat_ofNat .., BitVec.toNat_ofNat .., blink, rfl, rfl⟩

theorem blinkOf_some {n : Nat} {b : BlinkClass} (small : n < 4) (made : blinkOf n = some b) :
    (b = .steady ↔ n = 0) ∧ (b = .phase0 ↔ n = 1) := by
  interval_cases n <;> cases made <;> decide

theorem setupPens_get (ws : List Word) (n : Fin 32) :
    let h := setupHalf ws (56 + 2 * n.val)
    let p := (setupPens ws).get n
    h / 256 % 4 ≠ 3 → p.foreground.toNat = h % 16 ∧ p.background.toNat = h / 16 % 16 ∧
      (p.blink = .steady ↔ h / 256 % 4 = 0) ∧ (p.blink = .phase0 ↔ h / 256 % 4 = 1) ∧
      (p.underline = true ↔ h / 1024 % 2 = 1) ∧ (p.reverse = true ↔ h / 2048 % 2 = 1) := by
  intro h p legal
  have pen : p = (penOf h).getD Pen.reset := tabulate_get _ n
  cases made : penOf h with
  | none =>
    have class3 := (setupPen_none ws n).mp (by rw [setupPen, made]; rfl)
    exact absurd class3 legal
  | some q =>
    rw [made, Option.getD_some] at pen
    obtain ⟨foreground, background, blink, underline, reverse⟩ := penOf_some made
    obtain ⟨steady, phase0⟩ := blinkOf_some (Nat.mod_lt _ (by decide)) blink
    rw [pen, underline, reverse, decide_eq_true_iff, decide_eq_true_iff]
    exact ⟨foreground, background, steady, phase0, Iff.rfl, Iff.rfl⟩

/-- Settles O20. -/
theorem commitGivesEachBlockItsShare : Obligations.CommitGivesEachBlockItsShare := by
  refine ⟨fun s ws input stage passes noFont => ?_, fun s w sent last => ?_, fun ws => ?_⟩
  · refine answers_of (State.exec_setupReadEnd_eq input stage) ?_
    rw [State.takeSetup_commit passes noFont]
    exact committed _ ws
  · refine answers_of (t := (s.storeGlyph w).commit s.control.block)
      (by simp [exec, execGlyphWrite, sent, last, State.storeGlyph]) ?_
    have stored := committed (s.storeGlyph w) s.control.block
    rw [State.storeGlyph, last] at stored ⊢
    exact stored
  · refine ⟨fun n => ⟨byteOf_eq_toNat_extractLsb' _ _, rfl⟩, by simp [setupFontLoad], ?_, ?_, fun legal => ?_, fun k => ?_,
      setupPalette_get ws, setupPens_get ws⟩
    · simp [setupAbsentGlyph]
    · exact alignBase_toNat (ws.getD 3 0)
    · have code : setupByte ws 6 < 7 := by omega
      simp [setupLength, code]
    · fin_cases k <;> rfl

end Sys2Proof.Machine

/-! The Memory Master: the round robin and the terminal bus (R169 to R175). -/

namespace Sys2Proof.Machine

open Sys2Proof.Statement

/-! ### The round robin (R171, R172) -/

/-- The order in which the round robin looks at the rings. -/
def MemoryMaster.turns (m : MemoryMaster) : List RingId := [m.pointer, nextRing m.pointer, nextRing (nextRing m.pointer)]

/-- Does a ring's request come before those of the rings that the round robin looks at later? -/
abbrev MemoryMaster.First (m : MemoryMaster) (r : RingId) : Prop :=
  r = m.pointer ∨ (r = nextRing m.pointer ∧ m.held.rings.get m.pointer = none) ∨
    (r = nextRing (nextRing m.pointer) ∧ m.held.rings.get m.pointer = none ∧ m.held.rings.get (nextRing m.pointer) = none)

namespace MemoryMaster

variable {m : MemoryMaster} {r : RingId} {tx : Transaction}

theorem pick_first (holds : m.held.rings.get r = some tx) (first : m.First r) : m.pick = some r := by
  rcases first with rfl | ⟨rfl, before⟩ | ⟨rfl, before, between⟩
  · simp [pick, holds]
  · simp [pick, holds, before]
  · simp [pick, holds, before, between]

theorem pick_none (empty : ∀ q, m.held.rings.get q = none) : m.pick = none := by
  simp [pick, empty]

/-- The grant to the ring whose turn it is. -/
theorem grant_first (free : m.inFlight = none) (holds : m.held.rings.get r = some tx) (first : m.First r) :
    m.grant = { m with
      inFlight := some tx, held := { m.held with rings := m.held.rings.set r none }, pointer := nextRing r } := by
  rw [grant_ring m r free (pick_first holds first), holds]
  rfl

/-- Some ring's turn it is as long as one holds a request. -/
theorem exists_first (holds : (m.held.rings.get r).isSome = true) : ∃ q tx, m.held.rings.get q = some tx ∧ m.First q := by
  cases now : m.held.rings.get m.pointer with
  | some tx => exact ⟨_, tx, now, .inl rfl⟩
  | none =>
    cases next : m.held.rings.get (nextRing m.pointer) with
    | some tx => exact ⟨_, tx, next, .inr (.inl ⟨rfl, now⟩)⟩
    | none =>
      cases last : m.held.rings.get (nextRing (nextRing m.pointer)) with
      | some tx => exact ⟨_, tx, last, .inr (.inr ⟨rfl, now, next⟩)⟩
      | none =>
        have empty : m.held.rings.get r = none := by
          revert now next last
          cases m.pointer <;> cases r <;> simp [nextRing] <;> intros <;> assumption
        simp [empty] at holds

/-- How many rings the round robin looks at before a ring. -/
def turnsBefore (pointer r : RingId) : Nat :=
  if r = pointer then 0 else if r = nextRing pointer then 1 else 2

theorem turnsBefore_le (pointer r : RingId) : turnsBefore pointer r ≤ 2 := by
  unfold turnsBefore
  split_ifs <;> decide

/-- The turn of a ring comes closer when another ring before it is granted. -/
theorem turnsBefore_next {pointer q r : RingId} (before : turnsBefore pointer q < turnsBefore pointer r) :
    turnsBefore (nextRing q) r < turnsBefore pointer r := by
  cases pointer <;> cases q <;> cases r <;> revert before <;> decide

/-- The ring whose turn it is comes before every other that holds a request. -/
theorem First.before {q : RingId} (first : m.First q) (holds : (m.held.rings.get r).isSome = true) (other : q ≠ r) :
    turnsBefore m.pointer q < turnsBefore m.pointer r := by
  have notHere {p : RingId} (empty : m.held.rings.get p = none) : r ≠ p := fun same => by simp [same, empty] at holds
  have distinct : nextRing m.pointer ≠ m.pointer := by cases m.pointer <;> decide
  unfold turnsBefore
  rcases first with rfl | ⟨rfl, now⟩ | ⟨rfl, now, next⟩
  · rw [if_pos rfl, if_neg other.symm]
    split <;> decide
  · rw [if_neg distinct, if_pos rfl, if_neg (notHere now), if_neg other.symm]
    decide
  · have rest : r = nextRing (nextRing m.pointer) := by
      have a := notHere now
      have b := notHere next
      revert a b
      cases m.pointer <;> cases r <;> simp [nextRing]
    exact absurd rest.symm other

/-- Ring `r` holds a request, nothing is in flight, and requests are held under the names of their rings. -/
structure Waits (m : MemoryMaster) (r : RingId) : Prop where
  free : m.inFlight = none
  holds : (m.held.rings.get r).isSome = true
  names : ∀ q tx, m.held.rings.get q = some tx → tx.kind.requester = .ring q

/-- Is the transaction in flight one of ring `r`? -/
abbrev Serves (m : MemoryMaster) (r : RingId) : Prop := ∃ tx, m.inFlight = some tx ∧ tx.kind.requester = .ring r

/-- One grant: the ring's own, or one that brings its turn closer. -/
theorem Waits.grant (waits : m.Waits r) : m.grant.Serves r ∨
    (({ m.grant with inFlight := none } : MemoryMaster).Waits r ∧ turnsBefore m.grant.pointer r < turnsBefore m.pointer r) := by
  obtain ⟨q, tx, request, first⟩ := exists_first waits.holds
  rw [grant_first waits.free request first]
  by_cases own : q = r
  · subst own
    exact .inl ⟨tx, rfl, waits.names _ _ request⟩
  · refine .inr ⟨⟨rfl, ?_, fun p t held => ?_⟩, turnsBefore_next (First.before first waits.holds own)⟩
    · simpa [PerRing.get_set_ne _ _ _ _ (Ne.symm own)] using waits.holds
    · by_cases same : p = q
      · subst same
        simp at held
      · exact waits.names p t (by simpa [PerRing.get_set_ne _ _ _ _ same] using held)

end MemoryMaster

/-- Settles O22: three grants bring the turn of a ring below 0 unless one of them is its own. -/
theorem roundRobinGrant : Obligations.RoundRobinGrant := by
  refine ⟨⟨fun m r tx free holds first => MemoryMaster.grant_first free holds first, fun m tx free held => ?_,
    fun m idle => ?_⟩, fun m r free holds names => ?_⟩
  · rw [MemoryMaster.grant_loader m free (MemoryMaster.pick_none fun q => by rw [held]; cases q <;> rfl), held]
    rfl
  · rcases idle with busy | empty
    · obtain ⟨tx, busy⟩ := Option.isSome_iff_exists.mp busy
      exact MemoryMaster.grant_busy m tx busy
    · cases flight : m.inFlight with
      | some tx => exact MemoryMaster.grant_busy m tx flight
      | none =>
        rw [MemoryMaster.grant_loader m flight (MemoryMaster.pick_none fun q => by rw [empty]; cases q <;> rfl), empty]
  · intro one two three own
    have far := MemoryMaster.turnsBefore_le m.pointer r
    rcases MemoryMaster.Waits.grant ⟨free, holds, names⟩ with first | ⟨waits, closer⟩
    · exact .inl first
    · rcases waits.grant with second | ⟨waits, closer'⟩
      · exact .inr (.inl second)
      · rcases waits.grant with third | ⟨-, closer''⟩
        · exact .inr (.inr third)
        · dsimp only at closer' closer''
          omega

/-! ### The terminal bus (R169, R173 to R175) -/

theorem State.returnCompletion_eq (s : State) (k : TxKind) (ws : List Word) : s.returnCompletion k ws =
    (let back (r : RingId) (i : RingInput) : PerRing RingUnit :=
      s.rings.set r { s.rings.get r with input := (s.rings.get r).input ++ [i] }
     { s with
      rings := match k with
        | .statusRead r => back r (.statusEnd (ws.headD 0))
        | .bodyRead r => back r (.bodyEnd ws)
        | .writeBack r => back r .writeBackEnd
        | .setupRead => s.rings
        | .glyphRead => s.rings
      control := match k with
        | .setupRead => { s.control with loaderInput := some (.setupWords ws) }
        | .glyphRead => { s.control with loaderInput := some (.glyphWords ws) }
        | .statusRead _ => s.control
        | .bodyRead _ => s.control
        | .writeBack _ => s.control }) := by
  cases k <;> rfl

theorem State.returnFault_eq (s : State) (k : TxKind) : s.returnFault k = { s with
    rings := match k.requester with
      | .ring r => s.rings.set r { s.rings.get r with input := (s.rings.get r).input ++ [.fault] }
      | .loader => s.rings
    control := match k.requester with
      | .ring _ => s.control
      | .loader => { s.control with loaderInput := some .fault } } := by
  unfold returnFault
  cases k.requester <;> rfl

section
variable {s : State} {tx : Transaction}

theorem exec_transferAcknowledge_of_transferring (flight : s.memory.inFlight = some tx)
    (phase : tx.phase = .transferring) (w : Word) :
    exec (.transferAcknowledge w) s = .next (s.answerWord tx w) := by
  simp only [exec, execTransferAcknowledge, flight, phase]

theorem busWord_of_transferring (flight : s.memory.inFlight = some tx) (phase : tx.phase = .transferring) :
    s.busWord = some (tx, tx.moved) := by
  simp only [State.busWord, flight, phase]

theorem busWord_of_requesting (flight : s.memory.inFlight = some tx) (phase : tx.phase = .requesting) : s.busWord = none := by
  simp only [State.busWord, flight, phase]

theorem bus_of_none (word : s.busWord = none) : s.busAddress = none ∧ s.readStrobe = false ∧ s.writeStrobe = false := by
  simp [State.busAddress, State.readStrobe, State.writeStrobe, word]

end

/-- Settles O23. -/
theorem busTransfersAndTheirEnds : Obligations.BusTransfersAndTheirEnds := by
  refine ⟨fun s tx flight => ?_, ⟨fun s tx w flight phase more => ?_, fun s tx w flight phase last => ?_, fun s w idle => ?_⟩,
    ⟨fun s tx flight phase => ?_, fun s idle => ?_⟩, fun s r a w3 w0 k small flight => ?_, fun s tx flight read phase => ?_,
    fun s tx flight phase => ?_, fun s free => ?_, fun s => ?_, fun r => ⟨rfl, rfl, rfl, rfl, rfl, rfl⟩, rfl, rfl, rfl, rfl⟩
  · simp only [exec, execBusGrant, flight]
  · refine answers_of (exec_transferAcknowledge_of_transferring flight phase w) ?_
    rw [State.answerWord, if_pos more]
    rfl
  · refine answers_of (exec_transferAcknowledge_of_transferring flight phase w) ?_
    intro ws back
    rw [State.answerWord, if_neg (by omega), State.returnCompletion_eq]
    have read (reads : tx.kind.isWrite = false) : (tx.answer w).data = ws := by simp [Transaction.answer, reads, ws]
    cases kind : tx.kind with
    | writeBack r => rfl
    | statusRead r | bodyRead r => rw [read (by rw [kind]; rfl)]; rfl
    | setupRead | glyphRead => rw [read (by rw [kind]; rfl)]; rfl
  · simp only [exec, execTransferAcknowledge]
    split
    · rfl
    · next tx flight => rw [idle tx flight]
  · refine answers_of (t := (s.returnFault tx.kind).endTransaction)
      (by simp only [exec, execResponseLimitExpiry, flight, phase]) ?_
    rw [State.returnFault_eq]
    rfl
  · simp only [exec, execResponseLimitExpiry]
    split
    · rfl
    · next tx flight => rw [idle tx flight]
  · have word := busWord_of_transferring flight rfl
    interval_cases k <;>
      simp [State.busAddress, State.busData, State.writeStrobe, State.readStrobe, State.busRequest, word, flight,
        Transaction.address, TxKind.isWrite]
  · have word := busWord_of_transferring flight phase
    simp [State.busAddress, State.busData, State.writeStrobe, State.readStrobe, word, Transaction.address, read]
  · exact ⟨by simp [State.busRequest, flight], bus_of_none (busWord_of_requesting flight phase)⟩
  · exact ⟨by simp [State.busRequest, free], bus_of_none (by simp [State.busWord, free])⟩
  · cases word : s.busWord with
    | none => simp [State.readStrobe, State.writeStrobe, State.byteEnables, word]
    | some w => simp [State.readStrobe, State.writeStrobe, State.byteEnables, word]

end Sys2Proof.Machine

/-! The Quote Engine: the requests it takes, the applies, SET_SOURCES and the binding requests (Sections 1 and 2). -/

namespace Sys2Proof.Machine

open Sys2Proof.Statement

/-! ### Taking the front request (R7) -/

section Front

variable {s : State} {q : QuoteRequest} {r : RingId} {d : Descriptor} {rest : List QuoteRequest}

theorem State.quoteFront_of (ready : s.quote.wait = none) (front : s.quote.inbox = q :: rest) : s.quoteFront = some q := by
  simp [State.quoteFront, ready, front]

theorem exec_update (front : s.quoteFront = some (.apply r d)) (kind : d.kind = 1) :
    exec .update s = .next (s.dropQuote.takeUpdate r d) := by
  simp [exec, execUpdate, front, kind]

theorem exec_snapshot (front : s.quoteFront = some (.apply r d)) (kind : d.kind = 2) :
    exec .snapshot s = .next (s.dropQuote.takeSnapshot r d) := by
  simp [exec, execSnapshot, front, kind]

theorem exec_condition (front : s.quoteFront = some (.apply r d)) (kind : d.kind = 3) :
    exec .condition s = .next (s.dropQuote.takeCondition r d) := by
  simp [exec, execCondition, front, kind]

theorem exec_setSources (front : s.quoteFront = some (.setSources d)) :
    exec .setSources s = .next (s.dropQuote.takeSetSources d) := by
  simp [exec, execSetSources, front]

end Front

@[simp] theorem State.dropQuote_slot (s : State) (i : Nat) : s.dropQuote.slot i = s.slot i := rfl

@[simp] theorem State.dropQuote_lookup (s : State) (key : Word) : s.dropQuote.quote.lookup key = s.quote.lookup key := rfl

@[simp] theorem State.dropQuote_fieldItem (s : State) (f : Nat) : s.dropQuote.fieldItem f = s.fieldItem f := rfl

@[simp] theorem State.dropQuote_arbitrate (s : State) (r : RingId) (d : Descriptor)
    (table : SeqState → SeqCompare → Verdict) : s.dropQuote.arbitrate r d table = s.arbitrate r d table := rfl

@[simp] theorem State.dropQuote_renderable (s : State) (i : Nat) : s.dropQuote.renderable (s.slot i) = shown s i := rfl

/-! ### An event that sends renders (R47) -/

/-- What the taking of a request leaves when it replaces slot `i` and its renders and outcome follow: all the renders
are sent and the outcome with them, or the event waits with the rest. -/
theorem State.quoteFinish_leaves {s : State} (ready : s.quote.wait = none) (r : RingId) (i : Nat) (v : Slot)
    (renders : List RenderRequest) (st : Status) (w : Word) :
    (s.dropQuote.setSlot i v).quoteFinish renders r st w =
      let held := s.field.inbox.countP FieldRequest.isRender
      { s with
        quote := { quoteTaken s.quote with
          slots := s.quote.slots.set slotSpec i v
          wait := if renders.length ≤ 64 - held then none else some ⟨renders.drop (64 - held), r, st, w⟩ }
        field := { s.field with inbox := s.field.inbox ++ (renders.take (64 - held)).map .render }
        rings := if renders.length ≤ 64 - held then outcomeTo s.rings r st w else s.rings } := by
  by_cases room : renders.length ≤ 64 - s.field.inbox.countP FieldRequest.isRender
  case pos =>
    rw [quoteFinish_done (s.dropQuote.setSlot i v) _ _ _ _ room]
    simp only [room, if_true, List.take_of_length_le room, ← ready]
    rfl
  case neg =>
    rw [quoteFinish_waits (s.dropQuote.setSlot i v) _ _ _ _ (Nat.not_le.mp room)]
    simp only [room, if_false]
    rfl

theorem State.acceptApply_applied {s : State} (ready : s.quote.wait = none) (r : RingId) (i : Nat) (v : Slot)
    (renders : List RenderRequest) (st : Status) :
    Applied s (s.dropQuote.acceptApply r i v renders st) r i v renders st :=
  quoteFinish_leaves ready r i v renders st _

/-! ### The items of a slot (R30, R33) -/

theorem setItem_get (items : Vector (Option Item) 8) (p : Pair) (k : Fin 8) :
    (setItem items p).get k = if p.item = k then some ⟨p.value, p.scale⟩ else items.get k := by
  simp [setItem, Vector.get_eq_getElem, Vector.getElem_set, Fin.ext_iff]

/-- An item that no pair names keeps its contents. -/
theorem storePairs_get_unnamed (ps : List Pair) (items : Vector (Option Item) 8) (k : Fin 8)
    (unnamed : ∀ p ∈ ps, p.item ≠ k) : (storePairs items ps).get k = items.get k := by
  induction ps generalizing items with
  | nil => rfl
  | cons p ps ih =>
    obtain ⟨here, later⟩ := List.forall_mem_cons.mp unnamed
    change (storePairs (setItem items p) ps).get k = _
    rw [ih _ later, setItem_get, if_neg here]

/-- An item that a pair names holds the pair's value and scale, when no two pairs name the same item. -/
theorem storePairs_get_named (ps : List Pair) (items : Vector (Option Item) 8) (distinct : (ps.map Pair.item).Nodup) :
    ∀ p ∈ ps, (storePairs items ps).get p.item = some ⟨p.value, p.scale⟩ := by
  induction ps generalizing items with
  | nil => simp
  | cons first ps ih =>
    obtain ⟨fresh, distinct⟩ := List.nodup_cons.mp distinct
    intro p named
    change (storePairs (setItem items first) ps).get p.item = _
    obtain rfl | later := List.mem_cons.mp named
    · rw [storePairs_get_unnamed ps _ _ fun q there same => fresh (List.mem_map.mpr ⟨q, there, same⟩), setItem_get,
        if_pos rfl]
    · exact ih _ distinct p later

theorem Descriptor.pairsForm_nodup {d : Descriptor} {least most : Nat} {ps : List Pair}
    (form : d.pairsForm least most = some ps) : (ps.map Pair.item).Nodup :=
  (pairs_eq_some_iff.mp (pairsForm_eq_some_iff.mp form).2).2

/-! ### Accepted applies (R30 to R34) -/

/-- The render of a field on an accepted UPDATE, with the values written out. -/
theorem updateRender_eq (old : Slot) (ps : List Pair) (changed : Prop) [Decidable changed] (f : Nat) (item : Fin 8) :
    updateRender old ps (decide changed) f item =
      match ps.find? fun p => decide (p.item = item) with
      | some p => some (.tick f ((old.items.get item).map fun it => it.value.toInt * 10 ^ (6 - it.scale.val))
          (p.value.toInt * 10 ^ (6 - p.scale.val)))
      | none => if changed then some (.plain f) else none := by
  unfold updateRender
  cases ps.find? fun p => decide (p.item = item) with
  | some p => rfl
  | none => simp only [decide_eq_true_eq]

theorem State.fieldItem_of_filled {s : State} {f : Nat} (filled : (s.record f).state ≠ .free ∨ s.field.command = none) :
    s.fieldItem f = (s.record f).item := by
  unfold State.fieldItem
  split
  next unfilled pending => simp [unfilled, pending] at filled
  next => rfl

theorem State.fieldItem_of_binding {s : State} {f : Nat} {d : Descriptor} (unfilled : (s.record f).state = .free)
    (pending : s.field.command = some d) :
    s.fieldItem f = if d.fieldNumber = f then d.item.getD (s.record f).item else (s.record f).item := by
  simp [State.fieldItem, unfilled, pending]

/-- Settles O34: the taking of an UPDATE that passes its form check and arbitration stores the pairs and sends the
renders; the item of a field is read by cases on its record and the command in progress. -/
theorem updateAccepted : Obligations.UpdateAccepted := by
  refine ⟨?accepted, fun s f => ⟨State.fieldItem_of_filled, fun d unfilled pending => ⟨?other, ?own⟩⟩⟩
  case accepted =>
    intro s r d rest ps i new st ready front kind form verdict
    refine answers_of (exec_update (State.quoteFront_of ready front) kind)
      ⟨storePairs (s.slot i).items ps, ?_, ?_, storePairs_get_unnamed ps _⟩
    · simp only [State.takeUpdate, form, State.dropQuote_arbitrate, verdict, State.dropQuote_slot,
        State.dropQuote_renderable, State.dropQuote_fieldItem]
      refine Eq.subst (motive := fun renders => Applied s _ r i _ renders st) ?_ (State.acceptApply_applied ready ..)
      exact List.filterMap_congr fun f _ => updateRender_eq ..
    · exact storePairs_get_named ps _ (Descriptor.pairsForm_nodup (Descriptor.updateForm_eq_some_iff.mp form).2)
  case other =>
    intro apart
    rw [State.fieldItem_of_binding unfilled pending, if_neg fun same => apart same.symm]
  case own =>
    intro same inRange
    rw [State.fieldItem_of_binding unfilled pending, if_pos (show d.fieldNumber = f from same.symm),
      Descriptor.item, dif_pos (by omega)]
    rfl

/-- An accepted SNAPSHOT leaves the sequence state SYNCED. -/
theorem arbitrateSnapshot_synced {state : SeqState} {compare : SeqCompare} {new : SeqState} {st : Status}
    (verdict : arbitrateSnapshot state compare = .accept new st) : new = .synced := by
  revert verdict
  cases state <;> cases compare <;> simp +contextual [arbitrateSnapshot, eq_comm]

theorem State.arbitrate_accepted {s : State} {r : RingId} {d : Descriptor} {table : SeqState → SeqCompare → Verdict}
    {i : Nat} {new : SeqState} {st : Status} (verdict : s.arbitrate r d table = .inl (i, new, st)) :
    table (s.slot i).seqState (compareSeq d.sequence (s.slot i).lastSeq) = .accept new st := by
  unfold State.arbitrate at verdict
  split at verdict
  next => cases verdict
  next j pos found =>
    dsimp only at verdict
    split at verdict
    next =>
      split at verdict
      next accepted => cases verdict; exact accepted
      next => cases verdict
    next => cases verdict

/-- Settles O35: both accepted applies replace the slot and send one render per shown field. -/
theorem snapshotAndConditionAccepted : Obligations.SnapshotAndConditionAccepted := by
  refine ⟨?snapshot, ?condition⟩
  case snapshot =>
    intro s r d rest ps c i new st ready front kind form verdict
    refine answers_of (exec_snapshot (State.quoteFront_of ready front) kind)
      ⟨storePairs Slot.cleared.items ps, ?_, ?named, ?unnamed,
        arbitrateSnapshot_synced (State.arbitrate_accepted verdict)⟩
    · simp only [State.takeSnapshot, form, State.dropQuote_arbitrate, verdict, State.dropQuote_slot,
        State.dropQuote_renderable]
      exact State.acceptApply_applied ready ..
    case named =>
      exact storePairs_get_named ps _ (Descriptor.pairsForm_nodup (Descriptor.snapshotForm_eq_some_iff.mp form).1)
    case unnamed =>
      intro k unnamed
      rw [storePairs_get_unnamed ps _ k unnamed]
      exact Vector.get_replicate_const ..
  case condition =>
    intro s r d rest c i new st ready front kind form verdict
    refine answers_of (exec_condition (State.quoteFront_of ready front) kind) ?_
    simp only [State.takeCondition, form, State.dropQuote_arbitrate, verdict, State.dropQuote_slot,
      State.dropQuote_renderable]
    exact State.acceptApply_applied ready ..

/-! ### Refused applies (R22, R24 to R29) -/

theorem State.arbitrate_unknown {s : State} {d : Descriptor} (unknown : s.quote.lookup d.key = none) (r : RingId)
    (table : SeqState → SeqCompare → Verdict) : s.arbitrate r d table = .inr (0, .noKey) := by
  simp [State.arbitrate, unknown]

theorem State.refuseApply_eq (s : State) (r : RingId) (i : Nat) (st : Status) :
    s.dropQuote.refuseApply r i st = { s with
      quote := quoteTaken s.quote
      rings := outcomeTo s.rings r st
        (ofBytes i 0 (s.video.frameNumber.toNat % 256) (s.video.frameNumber.toNat / 256)) } := rfl

/-- Settles O36: arbitration by its cases, and each kind's taking when its form or its arbitration refuses. -/
theorem applyChecksAndRefusals : Obligations.ApplyChecksAndRefusals := by
  refine ⟨fun s r d table => ⟨fun unknown => State.arbitrate_unknown unknown r table, fun i pos found => ?found⟩, ?refused⟩
  case found =>
    refine ⟨fun outside => ?_, fun source => ⟨fun new st accepts => ?_, fun st refuses => ?_⟩⟩
    · simp [State.arbitrate, found, outside]
    · simp [State.arbitrate, found, source, accepts]
    · simp [State.arbitrate, found, source, refuses]
  case refused =>
    intro s r d rest ready front
    have first := State.quoteFront_of ready front
    refine ⟨fun kind form => ?updateForm, fun kind form => ?snapshotForm, fun kind form => ?conditionForm,
      fun i st kind form refused => ?update, fun i st kind form refused => ?snapshot,
      fun i st kind form refused => ?condition⟩
    case updateForm =>
      refine answers_of (exec_update first kind) ?_
      simp only [State.takeUpdate, form, State.refuseApply_eq]
    case snapshotForm =>
      refine answers_of (exec_snapshot first kind) ?_
      simp only [State.takeSnapshot, form, State.refuseApply_eq]
    case conditionForm =>
      refine answers_of (exec_condition first kind) ?_
      simp only [State.takeCondition, form, State.refuseApply_eq]
    case update =>
      obtain ⟨ps, form⟩ := Option.isSome_iff_exists.mp form
      refine answers_of (exec_update first kind) ?_
      simp only [State.takeUpdate, form, State.dropQuote_arbitrate, refused, State.refuseApply_eq]
    case snapshot =>
      obtain ⟨⟨ps, c⟩, form⟩ := Option.isSome_iff_exists.mp form
      refine answers_of (exec_snapshot first kind) ?_
      simp only [State.takeSnapshot, form, State.dropQuote_arbitrate, refused, State.refuseApply_eq]
    case condition =>
      obtain ⟨c, form⟩ := Option.isSome_iff_exists.mp form
      refine answers_of (exec_condition first kind) ?_
      simp only [State.takeCondition, form, State.dropQuote_arbitrate, refused, State.refuseApply_eq]

/-! ### SET_SOURCES (R13) -/

theorem State.completeCommand_eq (s : State) (st : Status) (w : Word) :
    s.dropQuote.completeCommand st w =
      { s with quote := quoteTaken s.quote, rings := outcomeTo s.rings .t st w } := rfl

/-- Settles O38. -/
theorem setSources : Obligations.SetSources := by
  intro s d rest ready front
  have first := State.quoteFront_of ready front
  refine ⟨fun unsound => ?badForm, fun mask sound unknown => ?notFound, fun mask i pos sound found => ?done⟩
  case badForm =>
    refine answers_of (exec_setSources first) ?_
    simp only [State.takeSetSources, unsound, State.completeCommand_eq]
  case notFound =>
    refine answers_of (exec_setSources first) ?_
    simp only [State.takeSetSources, sound, State.dropQuote_lookup, unknown, State.completeCommand_eq]
  case done =>
    refine answers_of (exec_setSources first) ?_
    simp only [State.takeSetSources, sound, State.dropQuote_lookup, found, State.dropQuote_slot,
      State.dropQuote_renderable, State.quoteFinish_leaves ready]
    rfl

/-! ### The binding requests (R16, R52) -/

theorem unbind_slots {s : State} (wf : Tab.WF slotSpec s.quote.slots) (f i : Nat) :
    (s.quote.unbind f).slots.get slotSpec i =
      { s.slot i with bindings := (s.slot i).bindings.filter fun g => decide (g ≠ f) } := by
  unfold QuoteEngine.unbind
  exact Tab.get_mapListed slotSpec (fun v => { v with bindings := v.bindings.filter fun g => decide (g ≠ f) }) rfl _ _ wf

/-- Settles O39: the lookup answers from the table, the append and the removal change the binding lists alone. -/
theorem bindingRequests : Obligations.BindingRequests := by
  refine ⟨?lookup, ?append, ?removal⟩
  case lookup =>
    intro s key rest ready front
    refine answers_of
      (t := s.dropQuote.sendField (.lookupResult (s.bindingLookup key))) ?_ rfl
    simp [exec, execBindingLookup, State.quoteFront_of ready front]
  case append =>
    intro s f i rest ready front
    refine answers_of
      (t := (s.dropQuote.setSlot i { s.slot i with bindings := (s.slot i).bindings ++ [f] }).sendField
        (.appendDone f i)) ?_ rfl
    simp [exec, execAppend, State.quoteFront_of ready front]
  case removal =>
    intro s f rest ready front wf
    have run : exec .removal s =
        .next ({ s.dropQuote with quote := s.dropQuote.quote.unbind f }.sendField (.removalDone f)) := by
      simp [exec, execRemoval, State.quoteFront_of ready front]
    exact answers_of run ⟨rfl, unbind_slots wf f⟩

end Sys2Proof.Machine

/-! DEFINE_INSTRUMENT and REMOVE_INSTRUMENT: the chains, the lookup, and the links (Section 1). -/

namespace Sys2Proof.Machine

open Sys2Proof.Statement

/-! ### Chains and lookup (R5, R6) -/

theorem chainFrom_first (slots : Tab Slot) (n : Nat) (head : Option Nat) : (chainFrom slots (n + 1) head)[0]? = head := by
  cases head <;> rfl

/-- A chain goes on by the link of its member, as long as its bound allows. -/
theorem chainFrom_next (slots : Tab Slot) (n k : Nat) (head : Option Nat) (bounded : k + 1 < n) :
    (chainFrom slots n head)[k + 1]? =
      (chainFrom slots n head)[k]?.bind fun i => (slots.get slotSpec i).link := by
  induction n generalizing k head with
  | zero => omega
  | succ n ih =>
    cases head with
    | none => rfl
    | some i =>
      simp only [chainFrom, List.getElem?_cons_succ]
      cases k with
      | zero =>
        obtain ⟨m, rfl⟩ := Nat.exists_eq_succ_of_ne_zero (show n ≠ 0 by omega)
        simp [chainFrom_first]
      | succ k => exact ih k _ (by omega)

/-- What the walk along a list finds: the first slot that holds the key, with the number of slots before it. -/
theorem findKey_eq_some_iff (slots : Tab Slot) (key : Word) (l : List Nat) (n i k : Nat) :
    findKey slots key l n = some (i, n + k) ↔ l[k]? = some i ∧ (slots.get slotSpec i).key = key ∧
      ∀ m < k, ∀ j, l[m]? = some j → (slots.get slotSpec j).key ≠ key := by
  induction l generalizing n k with
  | nil => simp [findKey]
  | cons first rest ih =>
    by_cases holds : (slots.get slotSpec first).key = key
    case pos =>
      rw [findKey, if_pos holds]
      cases k with
      | zero =>
        suffices first = i ↔ first = i ∧ (slots.get slotSpec i).key = key by simpa
        exact ⟨fun same => ⟨same, same ▸ holds⟩, And.left⟩
      | succ k =>
        constructor
        · intro found
          simp at found
        · exact fun ⟨_, _, before⟩ => (before 0 (by omega) first rfl holds).elim
    case neg =>
      rw [findKey, if_neg holds]
      cases k with
      | zero =>
        constructor
        · intro found
          have := (findKey_some _ _ _ _ _ _ found).2.1
          omega
        · rintro ⟨here, held, -⟩
          simp only [List.getElem?_cons_zero, Option.some.injEq] at here
          exact (holds (here ▸ held)).elim
      | succ k =>
        rw [show n + (k + 1) = n + 1 + k by omega, ih, List.getElem?_cons_succ]
        refine and_congr_right fun _ => and_congr_right fun _ => ⟨fun before m below => ?_, fun before m below => ?_⟩
        · cases m with
          | zero => simpa using holds
          | succ m => simpa using before m (by omega)
        · simpa using before (m + 1) (by omega)

theorem QuoteEngine.lookup_eq_some_iff (q : QuoteEngine) (key : Word) (i pos : Nat) :
    q.lookup key = some (i, pos) ↔ key ≠ 0 ∧ (q.chain (bucketOf key))[pos]? = some i ∧
      (q.slots.get slotSpec i).key = key ∧
        ∀ k < pos, ∀ j, (q.chain (bucketOf key))[k]? = some j → (q.slots.get slotSpec j).key ≠ key := by
  have found := findKey_eq_some_iff q.slots key (q.chain (bucketOf key)) 0 i pos
  rw [Nat.zero_add] at found
  unfold QuoteEngine.lookup
  split
  next zero => simp [zero]
  next nonzero => rw [found]; exact (and_iff_right nonzero).symm

/-! ### The lowest FREE slot (R11) -/

theorem QuoteEngine.lowestFree_of {q : QuoteEngine} {i : Nat} (inRange : i < 256)
    (free : (q.slots.get slotSpec i).occupied = false)
    (lowest : ∀ j < i, (q.slots.get slotSpec j).occupied = true) : q.lowestFree = some i := by
  rw [lowestFree, List.find?_range_eq_some]
  exact ⟨by simp [free], List.mem_range.mpr inRange, fun j below => by simp [lowest j below]⟩

theorem QuoteEngine.lowestFree_of_full {q : QuoteEngine}
    (full : ∀ i < 256, (q.slots.get slotSpec i).occupied = true) : q.lowestFree = none := by
  rw [lowestFree, List.find?_range_eq_none]
  exact fun i below => by simp [full i below]

/-! ### The links (R11, R12) -/

namespace QuoteEngine

variable {q : QuoteEngine} {b i : Nat}

theorem link_eq (q : QuoteEngine) (b i : Nat) :
    q.link b i = { q with slots := (q.link b i).slots, heads := (q.link b i).heads } := by
  unfold link
  split <;> rfl

/-- A slot put at the tail of a chain is the link of the slot that was last. -/
theorem link_slots (wf : Tab.WF slotSpec q.slots) (b i j : Nat) :
    (q.link b i).slots.get slotSpec j =
      if (q.chain b).getLast? = some j ∧ j < 256 then { q.slots.get slotSpec j with link := some i }
      else q.slots.get slotSpec j := by
  unfold link
  split
  next empty => simp [empty]
  next last tail =>
    rw [Tab.get_set _ _ _ _ _ wf]
    by_cases same : j = last
    · simp [same, tail, slotSpec]
    · simp [same, Ne.symm same, tail]

/-- A slot put at the tail of an empty chain is the bucket's head. -/
theorem link_heads (wf : Tab.WF headSpec q.heads) (bucket : b < 128) (i c : Nat) :
    (q.link b i).heads.get headSpec c = if c = b ∧ q.chain b = [] then some i else q.heads.get headSpec c := by
  unfold link
  split
  next empty =>
    rw [List.getLast?_eq_none_iff] at empty
    rw [Tab.get_set _ _ _ _ _ wf]
    simp [empty, headSpec, bucket]
  next last tail =>
    have member : q.chain b ≠ [] := fun empty => by simp [empty] at tail
    simp [member]

theorem unlink_eq (q : QuoteEngine) (b i pos : Nat) :
    q.unlink b i pos = { q with slots := (q.unlink b i pos).slots, heads := (q.unlink b i pos).heads } := by
  unfold unlink
  dsimp only
  split
  next => rfl
  next => split <;> rfl

/-- The head of a chain leaves it: its link is the new head. -/
theorem unlink_head (q : QuoteEngine) (b i : Nat) :
    q.unlink b i 0 = { q with heads := q.heads.set headSpec b (q.slots.get slotSpec i).link } := rfl

/-- A later slot of a chain leaves it: the slot before it takes over its link. -/
theorem unlink_later {before k : Nat} (earlier : (q.chain b)[k]? = some before) (i : Nat) :
    q.unlink b i (k + 1) = { q with
      slots := q.slots.set slotSpec before
        { q.slots.get slotSpec before with link := (q.slots.get slotSpec i).link } } := by
  simp [unlink, earlier]

end QuoteEngine

/-! ### The takings of DEFINE_INSTRUMENT and REMOVE_INSTRUMENT -/

section Takings

variable {s : State} {d : Descriptor}

theorem exec_defineInstrument (front : s.quoteFront = some (.define d)) :
    exec .defineInstrument s = .next (s.dropQuote.takeDefine d) := by
  simp [exec, execDefineInstrument, front]

theorem exec_removeInstrument (front : s.quoteFront = some (.remove d)) :
    exec .removeInstrument s = .next (s.dropQuote.takeRemove d) := by
  simp [exec, execRemoveInstrument, front]

/-- A slot occupied, and DONE returned, touches the slots, the heads, and Ring T. -/
theorem occupy_eq (s : State) (i : Nat) (key : Word) (mask : PerRing Bool) (w : Word) :
    let t := (s.dropQuote.occupy i key mask).completeCommand .done w
    t = { s with
      quote := { quoteTaken s.quote with slots := t.quote.slots, heads := t.quote.heads }
      rings := outcomeTo s.rings .t .done w } := by
  simp only [State.occupy]
  rw [QuoteEngine.link_eq]
  rfl

theorem freeSlot_eq (s : State) (i : Nat) (key : Word) (pos : Nat) (w : Word) :
    let t := (s.dropQuote.freeSlot i key pos).completeCommand .done w
    t = { s with
      quote := { quoteTaken s.quote with slots := t.quote.slots, heads := t.quote.heads }
      rings := outcomeTo s.rings .t .done w } := by
  simp only [State.freeSlot]
  rw [QuoteEngine.unlink_eq]
  rfl

end Takings

/-- DEFINE_INSTRUMENT with a legal key and mask, and a FREE slot. -/
theorem takeDefine_done {s : State} {d : Descriptor} {mask : PerRing Bool} {i : Nat} (key : d.key ≠ 0)
    (sound : maskOf (d.byte 4 0) = some mask) (unknown : s.quote.lookup d.key = none)
    (lowest : s.quote.lowestFree = some i) :
    s.dropQuote.takeDefine d = (s.dropQuote.occupy i d.key mask).completeCommand .done
      (ofBytes i (bucketOf d.key) 0 (s.quote.chain (bucketOf d.key)).length) := by
  have lowest : s.dropQuote.quote.lowestFree = some i := lowest
  simp only [State.takeDefine, key, if_false, sound, State.dropQuote_lookup, unknown, lowest]
  rfl

/-- REMOVE_INSTRUMENT of a slot with an empty binding list. -/
theorem takeRemove_done {s : State} {d : Descriptor} {i pos : Nat} (found : s.quote.lookup d.key = some (i, pos))
    (unbound : (s.slot i).bindings = []) :
    s.dropQuote.takeRemove d =
      (s.dropQuote.freeSlot i d.key pos).completeCommand .done (ofBytes i (bucketOf d.key) 0 pos) := by
  simp only [State.takeRemove, State.dropQuote_lookup, found, State.dropQuote_slot, unbound, ne_eq, not_true_eq_false,
    if_false]

/-- The slots after DEFINE_INSTRUMENT: the new one, the one that was last in the chain, and the others. -/
theorem occupy_slot {s : State} (wf : Tab.WF slotSpec s.quote.slots) {i : Nat} (inRange : i < 256) (key : Word)
    (mask : PerRing Bool) (j : Nat) :
    (s.dropQuote.occupy i key mask).slot j =
      if j = i then { Slot.cleared with occupied := true, key := key, sources := mask }
      else if (s.quote.chain (bucketOf key)).getLast? = some j ∧ j < 256 then { s.slot j with link := some i }
      else s.slot j := by
  have linked : Tab.WF slotSpec (s.dropQuote.quote.link (bucketOf key) i).slots := by
    unfold QuoteEngine.link
    split
    · exact wf
    · exact Tab.set_wf _ _ _ _ wf
  simp only [State.occupy, State.slot, slots_set _ _ _ _ linked inRange]
  rw [QuoteEngine.link_slots (q := s.dropQuote.quote) wf]
  rfl

/-- The slots after REMOVE_INSTRUMENT of the head of a chain. -/
theorem freeSlot_head_slot {s : State} (wf : Tab.WF slotSpec s.quote.slots) {i : Nat} (inRange : i < 256) (key : Word)
    (j : Nat) : (s.dropQuote.freeSlot i key 0).slot j = if j = i then Slot.cleared else s.slot j := by
  simp only [State.freeSlot, QuoteEngine.unlink_head, State.slot]
  exact slots_set _ _ _ _ wf inRange

/-- The slots after REMOVE_INSTRUMENT of a later slot of a chain. -/
theorem freeSlot_later_slot {s : State} (wf : Tab.WF slotSpec s.quote.slots) {i before k : Nat} (inRange : i < 256)
    (beforeInRange : before < 256) (key : Word) (earlier : (s.quote.chain (bucketOf key))[k]? = some before) (j : Nat) :
    (s.dropQuote.freeSlot i key (k + 1)).slot j = if j = i then Slot.cleared
      else if j = before then { s.slot before with link := (s.slot i).link } else s.slot j := by
  simp only [State.freeSlot, QuoteEngine.unlink_later (q := s.dropQuote.quote) earlier, State.slot]
  refine (slots_set _ _ _ _ (Tab.set_wf slotSpec s.quote.slots before _ wf) inRange).trans ?_
  exact if_congr Iff.rfl rfl (slots_set _ _ _ _ wf beforeInRange)

/-- The slot that REMOVE_INSTRUMENT frees is cleared, whatever its place in the chain. -/
theorem freeSlot_self {s : State} (wf : Tab.WF slotSpec s.quote.slots) {i : Nat} (inRange : i < 256) (key : Word)
    (pos : Nat) : (s.dropQuote.freeSlot i key pos).slot i = Slot.cleared := by
  have unlinked : Tab.WF slotSpec (s.dropQuote.quote.unlink (bucketOf key) i pos).slots := by
    unfold QuoteEngine.unlink
    dsimp only
    split
    · exact wf
    · split
      · exact wf
      · exact Tab.set_wf _ _ _ _ wf
  simp only [State.freeSlot, State.slot, slots_set _ _ _ _ unlinked inRange, if_true]

theorem maskOf_eq_none_iff (b : Nat) : maskOf b = none ↔ b = 0 ∨ 8 ≤ b := by
  simp [maskOf, or_iff_not_imp_left]

theorem maskOf_bits {b : Nat} {m : PerRing Bool} (sound : maskOf b = some m) :
    (m.a = true ↔ b % 2 = 1) ∧ (m.b = true ↔ b / 2 % 2 = 1) ∧ (m.t = true ↔ b / 4 % 2 = 1) := by
  unfold maskOf at sound
  split_ifs at sound
  cases sound
  simp only [decide_eq_true_eq, true_and]

/-- Settles O37: the two takings by their checks, the chains by the links, and the lookup by the walk along a chain. -/
theorem defineAndRemoveInstrument : Obligations.DefineAndRemoveInstrument := by
  refine ⟨?define, ?remove, fun q b => ⟨?first, fun k bounded => ?next⟩, QuoteEngine.lookup_eq_some_iff,
    fun b => ⟨maskOf_eq_none_iff b, fun m => maskOf_bits⟩⟩
  case first => exact chainFrom_first ..
  case next => exact chainFrom_next _ _ _ _ (by omega)
  case define =>
    intro s d rest ready front b refused
    have run := exec_defineInstrument (State.quoteFront_of ready front)
    refine ⟨fun unsound => ?badForm, fun mask i pos key sound found => ?existing,
      fun mask key sound unknown full => ?tableFull, fun mask i key sound unknown inRange free lowest wf => ?done⟩
    case badForm =>
      refine answers_of run ?_
      have none_sound : (if d.key = 0 then none else maskOf (d.byte 4 0)) = none := by
        rcases unsound with zero | unsound
        · rw [if_pos zero]
        · rw [unsound, ite_self]
      simp only [State.takeDefine, none_sound]
      rfl
    case existing =>
      refine answers_of run ?_
      simp only [State.takeDefine, key, if_false, sound, State.dropQuote_lookup, found]
      rfl
    case tableFull =>
      refine answers_of run ?_
      have full : s.dropQuote.quote.lowestFree = none := QuoteEngine.lowestFree_of_full full
      simp only [State.takeDefine, key, if_false, sound, State.dropQuote_lookup, unknown, full]
      rfl
    case done =>
      rw [takeDefine_done key sound unknown (QuoteEngine.lowestFree_of inRange free lowest)] at run
      have slots := occupy_slot wf.slots inRange d.key mask
      refine answers_of run ⟨occupy_eq s i d.key mask _, ?new, fun j other between => ?kept,
        fun j other inRange last => ?linked, fun c _ => ?heads⟩
      case new => exact (slots i).trans (if_pos rfl)
      case kept => exact (slots j).trans (by simp [b, other, between])
      case linked => exact (slots j).trans (by simp [b, other, inRange, last])
      case heads => exact QuoteEngine.link_heads (q := s.dropQuote.quote) wf.heads (bucketOf_lt d.key) i c
  case remove =>
    intro s d rest ready front b refused
    have run := exec_removeInstrument (State.quoteFront_of ready front)
    refine ⟨fun unknown => ?notFound, fun i pos found bound => ?hasBindings,
      fun i pos found unbound wf inRange => ?done⟩
    case notFound =>
      refine answers_of run ?_
      simp only [State.takeRemove, State.dropQuote_lookup, unknown]
      rfl
    case hasBindings =>
      refine answers_of run ?_
      simp only [State.takeRemove, State.dropQuote_lookup, found, State.dropQuote_slot, ne_eq, bound, not_false_eq_true,
        if_true]
      rfl
    case done =>
      rw [takeRemove_done found unbound] at run
      refine answers_of run ⟨freeSlot_eq s i d.key pos _, freeSlot_self wf.slots inRange d.key pos, ?head, ?later⟩
      case head =>
        rintro rfl
        refine ⟨fun j other => (freeSlot_head_slot wf.slots inRange d.key j).trans (if_neg other), fun c _ => ?_⟩
        exact heads_set _ _ _ _ wf.heads (bucketOf_lt d.key)
      case later =>
        rintro k before rfl earlier apart beforeInRange
        have slots := freeSlot_later_slot wf.slots inRange beforeInRange d.key earlier
        refine ⟨?_, (slots before).trans (by simp [apart]), fun j other neither => (slots j).trans (by simp [other, neither])⟩
        have same := QuoteEngine.unlink_later (q := s.dropQuote.quote) earlier i
        change (s.dropQuote.quote.unlink b i (k + 1)).heads = s.quote.heads
        rw [same]
        rfl

end Sys2Proof.Machine

/-! The formatter's text: digits, sign, and fitting to the width (R61 to R65). -/

namespace Sys2Proof.Machine

open Sys2Proof.Statement

/-! ### Decimal digits (R63) -/

/-- The number that digits stand for, most significant first. -/
abbrev digitsValue (ds : List Nat) : Nat := ds.foldl (fun n d => 10 * n + d) 0

theorem decimal_eq (k m : Nat) (acc : List Nat) (bounded : m < 10 ^ k) :
    decimal k m acc = (Nat.digits 10 m).reverse ++ acc := by
  induction k generalizing m acc with
  | zero =>
    obtain rfl : m = 0 := by simpa using bounded
    rfl
  | succ k ih =>
    unfold decimal
    split
    next zero => simp [zero]
    next nonzero =>
      rw [ih _ _ (by rw [pow_succ] at bounded; omega), Nat.digits_def' (by decide) (Nat.pos_of_ne_zero nonzero)]
      simp

theorem digitsValue_replicate_zero (z : Nat) (ds : List Nat) : digitsValue (List.replicate z 0 ++ ds) = digitsValue ds := by
  induction z with
  | zero => rfl
  | succ z ih => simpa [digitsValue, List.replicate_succ] using ih

theorem digitsValue_digits (m : Nat) : digitsValue (Nat.digits 10 m).reverse = m := by
  conv_rhs => rw [← Nat.ofDigits_digits 10 m, Nat.ofDigits_eq_foldr]
  rw [digitsValue, List.foldl_reverse]
  congr 1
  funext d n
  simp [Nat.add_comm]

section Padded

variable {m p : Nat}

theorem paddedDigits_eq (bounded : m < 10 ^ 20) :
    paddedDigits m p = List.replicate (p + 1 - (Nat.digits 10 m).length) 0 ++ (Nat.digits 10 m).reverse := by
  simp [paddedDigits, decimal_eq _ _ _ bounded]

theorem paddedDigits_value (bounded : m < 10 ^ 20) : digitsValue (paddedDigits m p) = m := by
  rw [paddedDigits_eq bounded, digitsValue_replicate_zero, digitsValue_digits]

theorem paddedDigits_lt_ten (bounded : m < 10 ^ 20) : ∀ d ∈ paddedDigits m p, d < 10 := by
  intro d listed
  rw [paddedDigits_eq bounded, List.mem_append, List.mem_replicate, List.mem_reverse] at listed
  obtain ⟨-, rfl⟩ | digit := listed
  · decide
  · exact Nat.digits_lt_base (by decide) digit

theorem lt_length_paddedDigits : p < (paddedDigits m p).length := by
  simp only [paddedDigits, List.length_append, List.length_replicate]
  omega

/-- No leading zero when there are more digits than the places and one. -/
theorem head_paddedDigits (bounded : m < 10 ^ 20) (long : p + 2 ≤ (paddedDigits m p).length) :
    (paddedDigits m p).head? ≠ some 0 := by
  rw [paddedDigits_eq bounded] at long ⊢
  have unpadded : p + 1 - (Nat.digits 10 m).length = 0 := by
    simp only [List.length_append, List.length_replicate, List.length_reverse] at long
    omega
  rw [unpadded, List.replicate_zero, List.nil_append, List.head?_reverse]
  intro leading
  have nonzero : m ≠ 0 := by
    rintro rfl
    simp at leading
  rw [List.getLast?_eq_some_getLast (Nat.digits_ne_nil_iff_ne_zero.mpr nonzero), Option.some.injEq] at leading
  exact Nat.getLast_digit_ne_zero 10 nonzero leading

end Padded

/-! ### Fitting to the width (R64) -/

/-- The text with `k` of the fraction digits. -/
def textWith (head frac : List (BitVec 9)) (k : Nat) : List (BitVec 9) :=
  head ++ if k = 0 then [] else 46 :: frac.take k

/-- A text with spaces before it up to the width. -/
def padded (width : Nat) (text : List (BitVec 9)) : List (BitVec 9) := List.replicate (width - text.length) 32 ++ text

section Fit

variable {width : Nat} {head frac : List (BitVec 9)}

theorem textWith_all : textWith head frac frac.length = head ++ if frac = [] then [] else 46 :: frac := by
  simp [textWith]

theorem textWith_dropLast {k : Nat} (fewer : k ≤ frac.length - 1) :
    textWith head frac.dropLast k = textWith head frac k := by
  rw [textWith, textWith, List.dropLast_eq_take, List.take_take, Nat.min_eq_left fewer]

/-- Without room to drop digits the whole text fits or it does not. -/
theorem fitText_zero : fitText width head 0 frac =
    if (textWith head frac frac.length).length ≤ width then some (padded width (textWith head frac frac.length))
    else none := by
  rw [fitText, textWith_all]
  rfl

theorem fitText_of_fits {n : Nat} (fits : (textWith head frac frac.length).length ≤ width) :
    fitText width head n frac = some (padded width (textWith head frac frac.length)) := by
  rw [textWith_all] at fits ⊢
  rw [fitText.eq_def]
  exact if_pos fits

theorem fitText_succ {n : Nat} (long : width < (textWith head frac frac.length).length) :
    fitText width head (n + 1) frac = fitText width head n frac.dropLast := by
  rw [textWith_all] at long
  rw [fitText]
  exact if_neg (Nat.not_le.mpr long)

/-- Fraction digits are dropped up to the longest text that fits. -/
theorem fitText_longest {n k : Nat} (all : frac.length = n) (atMost : k ≤ n)
    (fits : (textWith head frac k).length ≤ width)
    (longest : ∀ j ≤ n, k < j → width < (textWith head frac j).length) :
    fitText width head n frac = some (padded width (textWith head frac k)) := by
  induction n generalizing frac with
  | zero =>
    obtain rfl : k = frac.length := by omega
    exact fitText_of_fits fits
  | succ n ih =>
    obtain rfl | fewer : k = n + 1 ∨ k ≤ n := by omega
    · rw [← all] at fits ⊢
      exact fitText_of_fits fits
    · have same {j : Nat} (below : j ≤ n) : textWith head frac.dropLast j = textWith head frac j :=
        textWith_dropLast (by omega)
      rw [fitText_succ (all ▸ longest (n + 1) (Nat.le_refl _) (by omega)),
        ih (by simp [all]) fewer (by rwa [same fewer]) fun j below later => by
          rw [same below]
          exact longest j (by omega) later,
        same fewer]

/-- No text fits when even the shortest is too long. -/
theorem fitText_none {n : Nat} (all : frac.length = n) (long : ∀ k ≤ n, width < (textWith head frac k).length) :
    fitText width head n frac = none := by
  induction n generalizing frac with
  | zero =>
    rw [fitText_zero, if_neg]
    exact Nat.not_le.mpr (all ▸ long 0 (Nat.le_refl _))
  | succ n ih =>
    rw [fitText_succ (all ▸ long (n + 1) (Nat.le_refl _))]
    refine ih (by simp [all]) fun k below => ?_
    rw [textWith_dropLast (by omega)]
    exact long k (by omega)

end Fit

/-! ### The formatter (R61 to R65) -/

section Format

variable {i : Item} {width : Nat} {st : Style}

/-- The integer digits of a shifted magnitude. -/
def wholeDigits (m p : Nat) : List Nat := (paddedDigits m p).take ((paddedDigits m p).length - p)

/-- Its fraction digits. -/
def fracDigits (m p : Nat) : List Nat := (paddedDigits m p).drop ((paddedDigits m p).length - p)

theorem wholeDigits_append_fracDigits (m p : Nat) : wholeDigits m p ++ fracDigits m p = paddedDigits m p :=
  List.take_append_drop ..

@[simp] theorem length_fracDigits (m p : Nat) : (fracDigits m p).length = p := by
  have := lt_length_paddedDigits (m := m) (p := p)
  simp only [fracDigits, List.length_drop]
  omega

theorem length_wholeDigits (m p : Nat) : (wholeDigits m p).length = (paddedDigits m p).length - p := by
  simp [wholeDigits]

theorem one_le_length_wholeDigits (m p : Nat) : 1 ≤ (wholeDigits m p).length := by
  have := lt_length_paddedDigits (m := m) (p := p)
  rw [length_wholeDigits]
  omega

theorem head_wholeDigits {m p : Nat} (bounded : m < 10 ^ 20) (long : 2 ≤ (wholeDigits m p).length) :
    (wholeDigits m p).head? ≠ some 0 := by
  rw [length_wholeDigits] at long
  rw [wholeDigits, List.head?_take, if_neg (by omega)]
  exact head_paddedDigits bounded (by omega)

/-- The sign and integer digits of a present item. -/
def presentHead (i : Item) (st : Style) : List (BitVec 9) :=
  signGlyphs i.value.toInt (i.shifted st.places.val) st.plus ++
    (wholeDigits (i.shifted st.places.val) st.places.val).map digitGlyph

/-- Its fraction digits. -/
def presentFrac (i : Item) (st : Style) : List (BitVec 9) :=
  (fracDigits (i.shifted st.places.val) st.places.val).map digitGlyph

/-- The text of a present item with `k` fraction digits. -/
def presentText (i : Item) (st : Style) (k : Nat) : List (BitVec 9) := textWith (presentHead i st) (presentFrac i st) k

@[simp] theorem length_presentFrac (i : Item) (st : Style) : (presentFrac i st).length = st.places.val := by
  simp [presentFrac]

theorem presentText_eq (i : Item) (st : Style) (k : Nat) : presentText i st k =
    let m := i.shifted st.places.val
    signGlyphs i.value.toInt m st.plus ++ (wholeDigits m st.places.val).map digitGlyph ++
      if k = 0 then [] else 46 :: ((fracDigits m st.places.val).take k).map digitGlyph := by
  simp only [presentText, textWith, presentHead, presentFrac, List.map_take]

theorem presentText_all (i : Item) (st : Style) : presentText i st st.places.val =
    let m := i.shifted st.places.val
    signGlyphs i.value.toInt m st.plus ++ (wholeDigits m st.places.val).map digitGlyph ++
      if st.places.val = 0 then [] else 46 :: (fracDigits m st.places.val).map digitGlyph := by
  simp only [presentText_eq, List.take_of_length_le (length_fracDigits _ _).le]

/-- The fitting of a present item's text. -/
def presentFit (i : Item) (width : Nat) (st : Style) : Option (List (BitVec 9)) :=
  fitText width (presentHead i st) (if st.squeeze then (presentFrac i st).length else 0) (presentFrac i st)

theorem presentFit_eq (i : Item) (width : Nat) (st : Style) :
    let m := i.shifted st.places.val
    let ds := (paddedDigits m st.places.val).map digitGlyph
    let frac := ds.drop (ds.length - st.places.val)
    fitText width (signGlyphs i.value.toInt m st.plus ++ ds.take (ds.length - st.places.val))
      (if st.squeeze then frac.length else 0) frac = presentFit i width st := by
  simp only [presentFit, presentHead, presentFrac, wholeDigits, fracDigits, List.length_map, ← List.map_take,
    ← List.map_drop]

theorem formatPresent_of_fits {text : List (BitVec 9)} (fits : presentFit i width st = some text) :
    formatPresent i width st = ⟨text, false⟩ := by
  simp only [formatPresent, presentFit_eq, fits]

theorem formatPresent_of_long (long : presentFit i width st = none) :
    formatPresent i width st = ⟨List.replicate width 35, true⟩ := by
  simp only [formatPresent, presentFit_eq, long]

theorem formatPresent_plain (plain : st.squeeze = false) : formatPresent i width st =
    if (presentText i st st.places.val).length ≤ width then ⟨padded width (presentText i st st.places.val), false⟩
    else ⟨List.replicate width 35, true⟩ := by
  have fit : presentFit i width st =
      if (presentText i st st.places.val).length ≤ width then some (padded width (presentText i st st.places.val))
      else none := by
    rw [presentFit, plain, if_neg Bool.false_ne_true, fitText_zero, length_presentFrac]
    rfl
  by_cases fits : (presentText i st st.places.val).length ≤ width
  · rw [if_pos fits]
    exact formatPresent_of_fits (fit.trans (if_pos fits))
  · rw [if_neg fits]
    exact formatPresent_of_long (fit.trans (if_neg fits))

theorem formatPresent_longest (squeeze : st.squeeze = true) {k : Nat} (atMost : k ≤ st.places.val)
    (fits : (presentText i st k).length ≤ width)
    (longest : ∀ j ≤ st.places.val, k < j → width < (presentText i st j).length) :
    formatPresent i width st = ⟨padded width (presentText i st k), false⟩ := by
  refine formatPresent_of_fits ?_
  rw [presentFit, if_pos squeeze, length_presentFrac]
  exact fitText_longest (length_presentFrac i st) atMost fits longest

theorem formatPresent_tooLong (squeeze : st.squeeze = true)
    (long : ∀ k ≤ st.places.val, width < (presentText i st k).length) :
    formatPresent i width st = ⟨List.replicate width 35, true⟩ := by
  refine formatPresent_of_long ?_
  rw [presentFit, if_pos squeeze, length_presentFrac]
  exact fitText_none (length_presentFrac i st) long

theorem format_present (shown : ¬(i.value = 0 ∧ st.blankZero = true)) (absent : BitVec 9) :
    format (some i) width st absent = formatPresent i width st := if_neg shown

theorem shifted_bounded (i : Item) (st : Style) : i.shifted st.places.val < 10 ^ 20 :=
  (Item.shifted_le (by omega)).trans_lt (by decide)

/-- A text that is fitted has the width. -/
theorem length_fitText {head frac text : List (BitVec 9)} {n : Nat} (fits : fitText width head n frac = some text) :
    text.length = width := by
  induction n generalizing frac with
  | zero =>
    rw [fitText_zero] at fits
    split_ifs at fits with room
    cases fits
    simp only [padded, List.length_append, List.length_replicate]
    omega
  | succ n ih =>
    by_cases room : (textWith head frac frac.length).length ≤ width
    · rw [fitText_of_fits room] at fits
      cases fits
      simp only [padded, List.length_append, List.length_replicate]
      omega
    · rw [fitText_succ (Nat.not_le.mp room)] at fits
      exact ih fits

theorem length_formatPresent : (formatPresent i width st).glyphs.length = width := by
  cases fit : presentFit i width st with
  | some text => rw [formatPresent_of_fits fit]; exact length_fitText fit
  | none => rw [formatPresent_of_long fit]; exact List.length_replicate

theorem overflow_formatPresent (fill : (formatPresent i width st).overflow = true) :
    (formatPresent i width st).glyphs = List.replicate width 35 := by
  cases fit : presentFit i width st with
  | some text =>
    rw [formatPresent_of_fits fit] at fill
    cases fill
  | none => rw [formatPresent_of_long fit]

theorem length_format (i : Option Item) (width : Nat) (st : Style) (absent : BitVec 9) (wide : 1 ≤ width) :
    (format i width st absent).glyphs.length = width := by
  unfold format
  split
  next => simp only [List.length_append, List.length_replicate, List.length_singleton]; omega
  next v =>
    split
    next => exact List.length_replicate
    next => exact length_formatPresent

theorem overflow_format (i : Option Item) (width : Nat) (st : Style) (absent : BitVec 9)
    (fill : (format i width st absent).overflow = true) :
    (format i width st absent).glyphs = List.replicate width 35 := by
  unfold format at fill ⊢
  split
  next => cases fill
  next v =>
    dsimp only at fill
    split
    next blanked =>
      rw [if_pos blanked] at fill
      cases fill
    next shown =>
      rw [if_neg shown] at fill
      exact overflow_formatPresent fill

end Format

/-- Settles O41: the digits are those of the shifted magnitude with its leading zeros, and the fitting drops fraction
digits down to the longest text that fits, or gives up. -/
theorem formatterText : Obligations.FormatterText := by
  refine ⟨⟨length_format, overflow_format, fun w st a => rfl, fun i w st a zero blank => if_pos ⟨zero, blank⟩⟩,
    ?whole, ?squeezed⟩
  case whole =>
    intro i w st a shown plain p m sign
    have bounded : m < 10 ^ 20 := shifted_bounded i st
    refine ⟨wholeDigits m p, fracDigits m p, ?digits, ?value, length_fracDigits m p, one_le_length_wholeDigits m p,
      head_wholeDigits bounded, ?text⟩
    case digits => rw [wholeDigits_append_fracDigits]; exact paddedDigits_lt_ten bounded
    case value => rw [wholeDigits_append_fracDigits]; exact paddedDigits_value bounded
    case text =>
      intro glyph text
      rw [format_present shown, formatPresent_plain plain, presentText_all]
      rfl
  case squeezed =>
    intro i w st a shown squeeze p m sign
    have bounded : m < 10 ^ 20 := shifted_bounded i st
    refine ⟨wholeDigits m p, fracDigits m p, ?digits, ?value, length_fracDigits m p, one_le_length_wholeDigits m p,
      head_wholeDigits bounded, ?text⟩
    case digits => rw [wholeDigits_append_fracDigits]; exact paddedDigits_lt_ten bounded
    case value => rw [wholeDigits_append_fracDigits]; exact paddedDigits_value bounded
    case text =>
      intro glyph text
      have same (k : Nat) : presentText i st k = text k := presentText_eq i st k
      rw [format_present shown]
      refine ⟨fun k atMost fits longest => ?_, fun long => ?_⟩
      · rw [formatPresent_longest squeeze atMost (same k ▸ fits) fun j below later => same j ▸ longest j below later, same]
        rfl
      · exact formatPresent_tooLong squeeze fun k below => same k ▸ long k below

end Sys2Proof.Machine

/-! The Field Unit: the requests it takes, and the renders (Sections 3.3 and 4.1). -/

namespace Sys2Proof.Machine

open Sys2Proof.Statement

theorem tail_of_front {α : Type} {l rest : List α} {q : α} (front : l = q :: rest) : rest = l.tail := by
  rw [front]
  rfl

/-! ### Taking the front request (R46) -/

section Front

variable {s : State} {q : FieldRequest} {f : Nat} {rest : List FieldRequest}

theorem State.fieldFront_of (idle : s.field.event = none) (front : s.field.inbox = q :: rest) : s.fieldFront = some q := by
  simp [State.fieldFront, idle, front]

theorem State.isBound_of (bound : (s.record f).state = .bound) : s.isBound f = true := by simp [State.isBound, bound]

theorem State.isBound_of_not (unbound : (s.record f).state ≠ .bound) : s.isBound f = false := by
  simp [State.isBound, unbound]

@[simp] theorem State.dropField_isBound (s : State) (f : Nat) : s.dropField.isBound f = s.isBound f := rfl

@[simp] theorem State.dropField_record (s : State) (f : Nat) : s.dropField.record f = s.record f := rfl

theorem exec_plainRender (front : s.fieldFront = some (.render (.plain f))) :
    exec .plainRender s = .next (if s.isBound f then s.dropField.render f [] .nothing else s.dropField) := by
  simp only [exec, execPlainRender, front, State.dropField_isBound]
  exact (apply_ite Host.Outcome.next ..).symm

theorem exec_tickRender {old : Option Int} {new : Int} (front : s.fieldFront = some (.render (.tick f old new))) :
    exec .tickRender s = .next
      (if s.isBound f then (s.dropField.determineTick f old new).render f [] .nothing else s.dropField) := by
  simp only [exec, execTickRender, front, State.dropField_isBound]
  exact (apply_ite Host.Outcome.next ..).symm

theorem exec_resetRender (front : s.fieldFront = some (.render (.reset f))) :
    exec .resetRender s = .next
      (if s.isBound f then (s.dropField.clearTick f).render f [] .nothing else s.dropField) := by
  simp only [exec, execResetRender, front, State.dropField_isBound]
  exact (apply_ite Host.Outcome.next ..).symm

theorem exec_expiry (front : s.fieldFront = some (.expiry f)) :
    exec .expiry s = .next (s.dropField.takeExpiry f) := by
  simp only [exec, execExpiry, front]

end Front

/-! ### What a render leaves (R48, R49, R65) -/

/-- What a render leaves with room for its span write: the write sent, and an overflow counted and reported. -/
def State.rendered (s : State) (f : Nat) : State :=
  { s with
    plane := { s.plane with inbox := s.plane.inbox ++ [.span (renderOf s f)] }
    ports := portsRendered s f
    field := { s.field with records := recordsRendered s f } }

section Render

variable {s : State} (f : Nat) (after : FieldAfter)

theorem State.countOverflow_eq (s : State) (f : Nat) :
    s.countOverflow f = { s with
      ports := portsRendered s f, field := { s.field with records := recordsRendered s f } } := by
  have same : overflows s f = (s.formatted f).overflow := rfl
  simp only [State.countOverflow, portsRendered, recordsRendered, same]
  split <;> rfl

theorem State.render_sent (room : s.heldSpans < 64) (quiet : s.highlight.requests = []) (idle : s.field.event = none) :
    s.render f [] after = (s.rendered f).runAfter after := by
  rw [State.render, State.countOverflow_eq]
  exact State.beginEvent_done _ [s.renderWrite f] _ (Nat.sub_pos_of_lt room) quiet idle

theorem State.render_asked (room : s.heldSpans < 64) (asked : s.highlight.requests ≠ []) :
    s.render f [] after =
      { s.rendered f with field := { (s.rendered f).field with event := some ⟨[], after⟩ } } := by
  rw [State.render, State.countOverflow_eq]
  exact State.beginEvent_waits _ [s.renderWrite f] _ (Nat.sub_pos_of_lt room) asked

theorem State.render_full (full : 64 ≤ s.heldSpans) :
    s.render f [] after = { s with
      ports := portsRendered s f
      field := { s.field with event := some ⟨[renderOf s f], after⟩, records := recordsRendered s f } } := by
  rw [State.render, State.countOverflow_eq]
  exact State.beginEvent_full _ [s.renderWrite f] _ (List.cons_ne_nil _ _) full

/-- A render while the Highlight Timer has a request outstanding: the event goes on, its write sent or waiting. -/
theorem State.render_asking (asked : s.highlight.requests ≠ []) :
    let room : Prop := s.plane.inbox.countP PlaneRequest.isSpan < 64
    s.render f [] after = { s with
      plane := if room then { s.plane with inbox := s.plane.inbox ++ [.span (renderOf s f)] } else s.plane
      ports := portsRendered s f
      field := { s.field with
        event := some ⟨if room then [] else [renderOf s f], after⟩, records := recordsRendered s f } } := by
  intro room
  by_cases sent : room
  case pos =>
    simp only [sent, if_true]
    exact State.render_asked f after sent asked
  case neg =>
    simp only [sent, if_false]
    exact State.render_full f after (Nat.not_lt.mp sent)

end Render

/-- A render that is an event of its own sends its write, or waits with it. -/
theorem render_plain {s : State} (f : Nat) (quiet : s.highlight.requests = []) (idle : s.field.event = none) :
    (s.heldSpans < 64 → Rendered s (s.render f [] .nothing) f [renderOf s f] s.rings) ∧
      (64 ≤ s.heldSpans → RenderWaits s (s.render f [] .nothing) f s.field.inbox .nothing) :=
  ⟨fun room => State.render_sent f _ room quiet idle, fun full => State.render_full f _ full⟩

/-- A render counts at most its own field's overflow. -/
theorem recordsRendered_self {s : State} {f : Nat} (wf : s.field.records.WF fieldSpec) (inRange : f < 512) :
    (recordsRendered s f).get fieldSpec f =
      if overflows s f then { s.record f with
        overflow := if (s.record f).overflow < 255 then (s.record f).overflow + 1 else (s.record f).overflow }
      else s.record f := by
  simp only [recordsRendered]
  split
  · exact Tab.get_set_self _ _ _ _ wf inRange
  · rfl

theorem recordsRendered_other {s : State} {f g : Nat} (wf : s.field.records.WF fieldSpec) (other : g ≠ f) :
    (recordsRendered s f).get fieldSpec g = s.record g := by
  simp only [recordsRendered]
  split
  · exact Tab.get_set_ne _ _ _ _ _ wf other
  · rfl

/-! ### Plain and discarded renders (R46, R48) -/

theorem takeExpiry_unlisted {s : State} {f : Nat} (bound : (s.record f).state = .bound)
    (unlisted : s.highlight.entry f = none) :
    s.dropField.takeExpiry f = s.dropField.render f [] .nothing := by
  simp [State.takeExpiry, State.isBound_of bound, unlisted]

theorem takeExpiry_listed {s : State} {f : Nat} {e : HighlightEntry} (bound : (s.record f).state = .bound)
    (listed : s.highlight.entry f = some e) :
    s.dropField.takeExpiry f =
      if e.expired then (s.dropField.clearTick f).render f [] .nothing else s.dropField := by
  simp [State.takeExpiry, State.isBound_of bound, listed]

theorem takeExpiry_discarded {s : State} {f : Nat} (unbound : (s.record f).state ≠ .bound) :
    s.dropField.takeExpiry f = s.dropField := by
  simp [State.takeExpiry, State.isBound_of_not unbound]

/-- Settles O44: a render of a BOUND field is `render_plain`, and one of another field only drops its request. -/
theorem plainAndDiscardedRenders : Obligations.PlainAndDiscardedRenders := by
  refine ⟨fun s f rest idle => ⟨fun front => ?plain, fun front => ?expiry⟩, fun s f rest idle unbound =>
    ⟨fun front => ?reset, fun old new front => ?tick⟩⟩
  case plain =>
    obtain rfl := tail_of_front front
    have run := exec_plainRender (State.fieldFront_of idle front)
    refine ⟨fun bound quiet room => ?_, fun bound quiet full => ?_, fun unbound => ?_⟩
    · rw [if_pos (State.isBound_of bound)] at run
      exact answers_of run ((render_plain (s := s.dropField) f quiet idle).1 room)
    · rw [if_pos (State.isBound_of bound)] at run
      exact answers_of run ((render_plain (s := s.dropField) f quiet idle).2 full)
    · rw [run, State.isBound_of_not unbound]
      rfl
  case expiry =>
    obtain rfl := tail_of_front front
    have run := exec_expiry (State.fieldFront_of idle front)
    refine ⟨fun bound unlisted quiet room => ?_, fun bound unlisted quiet full => ?_, fun unbound => ?_⟩
    · rw [takeExpiry_unlisted bound unlisted] at run
      exact answers_of run ((render_plain (s := s.dropField) f quiet idle).1 room)
    · rw [takeExpiry_unlisted bound unlisted] at run
      exact answers_of run ((render_plain (s := s.dropField) f quiet idle).2 full)
    · rw [run, takeExpiry_discarded unbound]
      rfl
  case reset =>
    rw [exec_resetRender (State.fieldFront_of idle front), State.isBound_of_not unbound]
    rfl
  case tick =>
    rw [exec_tickRender (State.fieldFront_of idle front), State.isBound_of_not unbound]
    rfl

/-! ### Renders that change a tick (R67, R68, R79) -/

/-- What follows a tick that is set with a request to the Highlight Timer: the render, which goes on until the request is
taken. -/
theorem ticked_render {s : State} {f : Nat} (wf : s.field.records.WF fieldSpec) (inRange : f < 512) (tick : Tick)
    (q : HighlightRequest) :
    let room : Prop := s.plane.inbox.countP PlaneRequest.isSpan < 64
    let u := ticked s f tick q
    let t := u.render f [] .nothing
    t = { u with
      plane := if room then { s.plane with inbox := s.plane.inbox ++ [.span (renderOf u f)] } else s.plane
      ports := portsRendered u f
      field := { s.field with
        inbox := s.field.inbox.tail, event := some ⟨if room then [] else [renderOf u f], .nothing⟩,
        records := recordsRendered u f } } ∧
    (t.record f).tick = tick ∧ ∀ g, g ≠ f → t.record g = s.record g := by
  intro room u t
  have left : t = { u with
      plane := if room then { s.plane with inbox := s.plane.inbox ++ [.span (renderOf u f)] } else s.plane
      ports := portsRendered u f
      field := { s.field with
        inbox := s.field.inbox.tail, event := some ⟨if room then [] else [renderOf u f], .nothing⟩,
        records := recordsRendered u f } } :=
    State.render_asking f _ (List.append_ne_nil_of_right_ne_nil _ (List.cons_ne_nil _ _))
  have set : u.field.records.WF fieldSpec := Tab.set_wf _ _ _ _ wf
  have self : u.record f = { s.record f with tick := tick } := Tab.get_set_self _ _ _ _ wf inRange
  have records : t.field.records = recordsRendered u f := by rw [left]
  refine ⟨left, ?_, fun g other => ?_⟩
  · rw [State.record, records, recordsRendered_self set inRange, self]
    split <;> rfl
  · rw [State.record, records, recordsRendered_other set other]
    exact Tab.get_set_ne _ _ _ _ _ wf other

section DetermineTick

variable {s : State} {f : Nat}

theorem State.running_iff : s.running = true ↔ s.control.device = .running := by simp [State.running]

theorem determineTick_cleared {old : Option Int} {new : Int} (rule : (s.record f).style.rule = .tick)
    (cleared : s.control.device ≠ .running ∨ old = none) :
    s.dropField.determineTick f old new = ticked s f .steady (.remove f) := by
  have running : s.dropField.running = s.running := rfl
  simp only [State.determineTick, State.dropField_record, rule, if_true, running]
  rcases cleared with stopped | rfl
  · rw [if_neg fun on => stopped (State.running_iff.mp on)]
    rfl
  · simp only [ite_self]
    rfl

theorem determineTick_running {v new : Int} (rule : (s.record f).style.rule = .tick)
    (running : s.control.device = .running) :
    s.dropField.determineTick f (some v) new =
      if v < new then ticked s f .up (.arm f (s.record f).style.hold)
      else if new < v then ticked s f .down (.arm f (s.record f).style.hold) else s.dropField := by
  have running : s.dropField.running = true := State.running_iff.mpr running
  simp only [State.determineTick, State.dropField_record, rule, if_true, running]
  rfl

/-- The tick stays for another colour rule, and for an item whose value stays. -/
theorem determineTick_kept {old : Option Int} {new : Int}
    (kept : (s.record f).style.rule ≠ .tick ∨ (s.control.device = .running ∧ old = some new)) :
    s.dropField.determineTick f old new = s.dropField := by
  by_cases rule : (s.record f).style.rule = .tick
  case pos =>
    obtain ⟨running, rfl⟩ := kept.resolve_left (not_not_intro rule)
    rw [determineTick_running rule running, if_neg (lt_irrefl _), if_neg (lt_irrefl _)]
  case neg => simp [State.determineTick, rule]

end DetermineTick

/-- Settles O43: each of these events sets the tick, asks the Highlight Timer, and renders, which is `ticked_render`; a
tick that stays leaves a plain render. -/
theorem tickChangingRenders : Obligations.TickChangingRenders := by
  intro s f rest idle wf inRange bound room sends
  have held := State.isBound_of bound
  refine ⟨fun front => ?reset, fun e front listed expired => ?expired, fun e front listed waiting => ?waiting,
    fun old new front rule => ?tick, fun old new front quiet kept => ?kept⟩
  all_goals obtain rfl := tail_of_front front
  case reset =>
    have run := exec_resetRender (State.fieldFront_of idle front)
    rw [if_pos held] at run
    exact answers_of run (ticked_render wf inRange .steady (.remove f))
  case expired =>
    have run := exec_expiry (State.fieldFront_of idle front)
    rw [takeExpiry_listed bound listed, if_pos expired] at run
    exact answers_of run (ticked_render wf inRange .steady (.remove f))
  case waiting =>
    rw [exec_expiry (State.fieldFront_of idle front), takeExpiry_listed bound listed, waiting]
    rfl
  case tick =>
    have run := exec_tickRender (State.fieldFront_of idle front)
    rw [if_pos held] at run
    refine ⟨fun stopped => ?_, fun running absent => ?_, fun v running before rise => ?_,
      fun v running before fall => ?_⟩
    · rw [determineTick_cleared rule (.inl stopped)] at run
      exact answers_of run (ticked_render wf inRange .steady (.remove f))
    · rw [determineTick_cleared rule (.inr absent)] at run
      exact answers_of run (ticked_render wf inRange .steady (.remove f))
    · rw [before, determineTick_running rule running, if_pos rise] at run
      exact answers_of run (ticked_render wf inRange .up _)
    · rw [before, determineTick_running rule running, if_neg (lt_asymm fall), if_pos fall] at run
      exact answers_of run (ticked_render wf inRange .down _)
  case kept =>
    have run := exec_tickRender (State.fieldFront_of idle front)
    rw [if_pos held, determineTick_kept kept] at run
    have left := render_plain (s := s.dropField) f quiet idle
    exact answers_of run ⟨left.1, fun full => left.2 (Nat.not_lt.mp full)⟩

end Sys2Proof.Machine

/-! Events that wait for room in a queue, and the end of a pass (R47, R49, R128). -/

namespace Sys2Proof.Machine

open Sys2Proof.Statement

/-! ### The end of a pass (R128, step 3) -/

section Sweep

variable {s : State}

theorem State.requestStep_eq (s : State) : s.requestStep = { s with field := { s.field with
    inbox := s.field.inbox ++ (if s.field.sweep.stepOut then [] else [.step])
    sweep := { s.field.sweep with stepOut := true } } } := by
  unfold State.requestStep
  split
  next out =>
    have same : { s.field.sweep with stepOut := true } = s.field.sweep := by rw [← out]
    rw [same, List.append_nil]
  next => rfl

/-- What the end of a pass returns to Ring T. -/
def passReturned (rings : PerRing RingUnit) (w : Sweep) : PerRing RingUnit :=
  match w.repaint with
  | .thisPass rr => outcomeTo rings .t .done (ofBytes (w.rendered % 256) (w.rendered / 256) 0 (if rr then 1 else 0))
  | .none => rings
  | .nextPass => rings

theorem State.passEnd_rerun (rerun : s.field.sweep.rerun = true) : s.passEnd =
    { s with
      rings := passReturned s.rings s.field.sweep
      field := { s.field with
        inbox := s.field.inbox ++ (if s.field.sweep.stepOut then [] else [.step])
        sweep := { s.field.sweep with
          stepOut := true, rerun := false, position := 0, rendered := 0,
          repaint := if s.field.sweep.repaint = .nextPass then .thisPass true else .none } } } := by
  simp only [State.passEnd, rerun, if_true, State.requestStep_eq, passReturned]
  cases s.field.sweep.repaint <;> rfl

theorem State.passEnd_last (last : s.field.sweep.rerun = false) : s.passEnd =
    { s with
      rings := passReturned s.rings s.field.sweep
      field := { s.field with sweep := { s.field.sweep with
        active := false, position := 0, rendered := 0,
        repaint := if s.field.sweep.repaint = .nextPass then .nextPass else .none } } } := by
  simp only [State.passEnd, last, Bool.false_eq_true, if_false, passReturned]
  cases s.field.sweep.repaint <;> rfl

/-- The end of a pass touches the field's inbox, its sweep, and the rings. -/
theorem State.passEnd_eq (s : State) : s.passEnd = { s with
    rings := s.passEnd.rings
    field := { s.field with inbox := s.passEnd.field.inbox, sweep := s.passEnd.field.sweep } } := by
  cases again : s.field.sweep.rerun
  case true => rw [State.passEnd_rerun again]
  case false => rw [State.passEnd_last again]

theorem State.passEnd_ended (s : State) : PassEnded s s.passEnd s.field.sweep s.field.inbox := by
  refine ⟨?rings, fun again => ?rerun, fun last next => ?idle⟩
  case rings =>
    change s.passEnd.rings = passReturned s.rings s.field.sweep
    cases again : s.field.sweep.rerun
    case true => rw [State.passEnd_rerun again]
    case false => rw [State.passEnd_last again]
  case rerun =>
    rw [State.passEnd_rerun again]
    exact ⟨rfl, rfl⟩
  case idle =>
    rw [State.passEnd_last last, if_neg next]
    exact ⟨rfl, rfl⟩

/-! ### What follows a position of the sweep (R128) -/

/-- A sweep with its last render counted. -/
def Sweep.counted (w : Sweep) (rendered : Bool) : Sweep :=
  { w with rendered := if rendered then w.rendered + 1 else w.rendered }

theorem State.sweepAdvance_idle (idle : s.field.sweep.active = false) (rendered : Bool) : s.sweepAdvance rendered = s := by
  simp [State.sweepAdvance, idle]

theorem State.sweepAdvance_next (active : s.field.sweep.active = true) (more : s.field.sweep.position < 511)
    (rendered : Bool) : s.sweepAdvance rendered = { s with field := { s.field with
      inbox := s.field.inbox ++ (if s.field.sweep.stepOut then [] else [.step])
      sweep := { s.field.sweep.counted rendered with stepOut := true, position := s.field.sweep.position + 1 } } } :=
  (if_pos active).trans ((if_pos more).trans (State.requestStep_eq _))

theorem State.sweepAdvance_last (active : s.field.sweep.active = true) (last : s.field.sweep.position = 511)
    (rendered : Bool) : s.sweepAdvance rendered = (s.setSweep (s.field.sweep.counted rendered)).passEnd :=
  (if_pos active).trans (if_neg (by omega))

/-- At the last position the pass ends. -/
theorem State.sweepAdvance_ended (active : s.field.sweep.active = true) (last : s.field.sweep.position = 511)
    (rendered : Bool) : let t := s.sweepAdvance rendered
    t = { s with
      rings := t.rings
      field := { s.field with inbox := t.field.inbox, sweep := t.field.sweep } } ∧
    PassEnded s t (s.field.sweep.counted rendered) s.field.inbox := by
  rw [State.sweepAdvance_last active last]
  exact ⟨State.passEnd_eq _, State.passEnd_ended _⟩

end Sweep

/-! ### An event that waits for room (R47, R49) -/

section Room

variable {s : State} {w : SpanWrite} {more : List SpanWrite} {after : FieldAfter}

theorem exec_spanQueueRoom (waiting : s.field.event = some ⟨w :: more, after⟩) (room : s.heldSpans < 64) :
    exec .spanQueueRoom s = .next (s.sendSpan w ⟨more, after⟩) := by
  simp only [exec, execSpanQueueRoom, waiting, room, if_true]

theorem exec_spanQueueRoom_full (waiting : s.field.event = some ⟨w :: more, after⟩) (full : 64 ≤ s.heldSpans) :
    exec .spanQueueRoom s = .next s := by
  simp only [exec, execSpanQueueRoom, waiting, Nat.not_lt.mpr full, if_false]

/-- The last span write of an event that is no move, the Highlight Timer with a request outstanding. -/
theorem State.sendSpan_asked (s : State) (w : SpanWrite) (noMove : ∀ m, after ≠ .moveTo m)
    (asked : s.highlight.requests ≠ []) : s.sendSpan w ⟨[], after⟩ = { s with
      plane := { s.plane with inbox := s.plane.inbox ++ [.span w] }
      field := { s.field with event := some ⟨[], after⟩ } } := by
  have waits := State.fieldFinish_waits { s with
      plane := { s.plane with inbox := s.plane.inbox ++ [.span w] }
      field := { s.field with event := some ⟨[], after⟩ } } asked
  cases after with
  | moveTo m => exact (noMove m rfl).elim
  | _ => exact waits

/-- The state with the last span write of its event sent. -/
def State.lastSpan (s : State) (w : SpanWrite) : State :=
  { s with plane := { s.plane with inbox := s.plane.inbox ++ [.span w] }, field := { s.field with event := none } }

theorem exec_lastSpan (waiting : s.field.event = some ⟨[w], after⟩) (room : s.heldSpans < 64)
    (quiet : s.highlight.requests = []) (noMove : ∀ m, after ≠ .moveTo m) :
    exec .spanQueueRoom s = .next ((s.lastSpan w).runAfter after) := by
  rw [exec_spanQueueRoom waiting room, State.sendSpan_done s w _ noMove quiet]
  rfl

/-- The Quote Engine's event sends its next render, and ends with the last. -/
theorem exec_renderQueueRoom {q : RenderRequest} {renders : List RenderRequest} {r : RingId} {st : Status} {result : Word}
    (waiting : s.quote.wait = some ⟨q :: renders, r, st, result⟩) (room : s.heldRenders < 64) :
    exec .renderQueueRoom s = .next { s with
      field := { s.field with inbox := s.field.inbox ++ [.render q] }
      quote := { s.quote with wait := if renders = [] then none else some ⟨renders, r, st, result⟩ }
      rings := if renders = [] then outcomeTo s.rings r st result else s.rings } := by
  cases renders with
  | nil =>
    simp only [exec, execRenderQueueRoom, waiting, room, if_true, List.length_singleton, Nat.le_refl]
    rfl
  | cons next renders =>
    simp only [exec, execRenderQueueRoom, waiting, room, if_true, List.length_cons, List.cons_ne_nil, if_false,
      show ¬renders.length + 1 + 1 ≤ 1 by omega]
    rfl

theorem exec_renderQueueRoom_full {wait : QuoteWait} (waiting : s.quote.wait = some wait) (full : 64 ≤ s.heldRenders) :
    exec .renderQueueRoom s = .next s := by
  simp only [exec, execRenderQueueRoom, waiting, Nat.not_lt.mpr full, if_false]

theorem State.quoteFront_waiting (waiting : s.quote.wait ≠ none) : s.quoteFront = none := by
  obtain ⟨wait, waits⟩ := Option.ne_none_iff_exists'.mp waiting
  simp only [State.quoteFront, waits]

theorem State.fieldFront_waiting (waiting : s.field.event ≠ none) : s.fieldFront = none := by
  obtain ⟨event, waits⟩ := Option.ne_none_iff_exists'.mp waiting
  simp only [State.fieldFront, waits]

end Room

/-- Settles O45: the next write or render is sent; with the last one the event ends by its own rule, which for the sweep
is the lemmas on `sweepAdvance`. -/
theorem roomSendsNextRequest : Obligations.RoomSendsNextRequest := by
  refine ⟨fun s q more r st w waiting => ⟨fun room => ?render, fun full => ?renderFull⟩,
    fun s w more after waiting => ⟨fun room goesOn => ?more, ?nothing, ?complete, ?freeAndComplete, ?sweep, ?pass,
      fun full => exec_spanQueueRoom_full waiting full⟩, fun s waiting => ?quoteHeld, fun s waiting => ?fieldHeld⟩
  case render => exact answers_of (exec_renderQueueRoom waiting room) rfl
  case renderFull => exact exec_renderQueueRoom_full waiting full
  case more =>
    have run := exec_spanQueueRoom waiting room
    cases more with
    | cons next more =>
      rw [State.sendSpan_more _ _ _ (List.cons_ne_nil _ _)] at run
      exact answers_of run rfl
    | nil =>
      obtain ⟨asked, noMove⟩ := goesOn.resolve_left (not_not_intro rfl)
      rw [State.sendSpan_asked s w noMove asked] at run
      exact answers_of run rfl
  case nothing =>
    rintro room rfl quiet rfl
    exact answers_of (exec_lastSpan waiting room quiet (by simp)) rfl
  case complete =>
    rintro st r room rfl quiet rfl
    exact answers_of (exec_lastSpan waiting room quiet (by simp)) rfl
  case freeAndComplete =>
    rintro f r room rfl quiet rfl
    exact answers_of (exec_lastSpan waiting room quiet (by simp)) rfl
  case sweep =>
    rintro b room rfl quiet rfl goesOn
    refine answers_of (exec_lastSpan waiting room quiet (by simp)) ?_
    cases active : s.field.sweep.active with
    | false => exact State.sweepAdvance_idle (s := s.lastSpan w) active b
    | true =>
      have more : s.field.sweep.position < 511 := goesOn.resolve_left (by simp [active])
      refine (State.sweepAdvance_next (s := s.lastSpan w) active more b).trans ?_
      cases out : s.field.sweep.stepOut <;> simp [State.lastSpan, Sweep.counted, active, out]
  case pass =>
    rintro b room rfl quiet rfl active last
    exact answers_of (exec_lastSpan waiting room quiet (by simp))
      (State.sweepAdvance_ended (s := s.lastSpan w) active last b)
  case quoteHeld =>
    have held := State.quoteFront_waiting waiting
    intro c listed
    simp only [List.mem_cons, List.not_mem_nil, or_false] at listed
    rcases listed with rfl | rfl | rfl | rfl | rfl | rfl | rfl | rfl | rfl <;>
      simp only [exec, execUpdate, execSnapshot, execCondition, execDefineInstrument, execRemoveInstrument, execSetSources,
        execBindingLookup, execAppend, execRemoval, held]
  case fieldHeld =>
    have held := State.fieldFront_waiting waiting
    intro c listed
    simp only [List.mem_cons, List.not_mem_nil, or_false] at listed
    rcases listed with rfl | rfl | rfl | rfl | rfl | rfl | rfl | rfl | rfl | rfl | rfl | rfl | rfl | rfl | rfl <;>
      simp only [exec, execPlainRender, execTickRender, execResetRender, execBindField, execLookupResult,
        execAppendCompletion, execUnbindField, execRemovalCompletion, execMoveField, execStyleField, execSetPen,
        execExpiry, execSweepTrigger, execSweepStep, execRepaint, held]

end Sys2Proof.Machine

/-! The repaint sweep: triggers, steps and REPAINT (Section 7, R126 to R130). -/

namespace Sys2Proof.Machine

open Sys2Proof.Statement

section Sweep

variable {s : State}

theorem exec_sweepTrigger (front : s.fieldFront = some .trigger) : exec .sweepTrigger s = .next s.dropField.trigger := by
  simp only [exec, execSweepTrigger, front]

theorem exec_sweepStep (front : s.fieldFront = some .step) : exec .sweepStep s = .next s.dropField.takeStep := by
  simp only [exec, execSweepStep, front]

theorem exec_repaint (front : s.fieldFront = some .repaint) : exec .repaint s = .next s.dropField.takeRepaint := by
  simp only [exec, execRepaint, front]

/-! ### Triggers (R126) -/

theorem trigger_begins (running : s.control.device = .running) (idle : s.field.sweep.active = false) :
    s.trigger = { s with field := { s.field with
      inbox := s.field.inbox ++ (if s.field.sweep.stepOut then [] else [.step])
      sweep := { s.field.sweep with active := true, position := 0, rendered := 0, stepOut := true } } } := by
  have running : s.running = true := State.running_iff.mpr running
  simp only [State.trigger, running, if_true, idle, Bool.false_eq_true, if_false, State.requestStep_eq]
  rfl

theorem trigger_reruns (running : s.control.device = .running) (active : s.field.sweep.active = true) :
    s.trigger = { s with field := { s.field with sweep := { s.field.sweep with rerun := true } } } := by
  have running : s.running = true := State.running_iff.mpr running
  rw [State.trigger, if_pos running, if_pos active]
  rfl

theorem trigger_ignored (stopped : s.control.device ≠ .running) : s.trigger = s :=
  if_neg fun running => stopped (State.running_iff.mp running)

/-! ### Steps (R128) -/

/-- The state with the step request taken. -/
def State.stepTaken (s : State) : State := s.dropField.setSweep { s.field.sweep with stepOut := false }

theorem takeStep_idle (idle : s.field.sweep.active = false) : s.dropField.takeStep = s.stepTaken :=
  if_neg (Bool.eq_false_iff.mp idle)

theorem takeStep_renders (active : s.field.sweep.active = true) (bound : (s.record s.field.sweep.position).state = .bound) :
    s.dropField.takeStep = s.stepTaken.render s.field.sweep.position [] (.sweepAdvance true) :=
  (if_pos active).trans (if_pos (State.isBound_of bound))

theorem takeStep_passes (active : s.field.sweep.active = true)
    (unbound : (s.record s.field.sweep.position).state ≠ .bound) :
    s.dropField.takeStep = s.stepTaken.sweepAdvance false :=
  (if_pos active).trans (if_neg (Bool.eq_false_iff.mp (State.isBound_of_not unbound)))

/-! ### REPAINT (R129, R130) -/

theorem takeRepaint_running (running : s.control.device = .running) :
    s.takeRepaint = s.trigger.setSweep
      { s.trigger.field.sweep with repaint := if s.field.sweep.active then .nextPass else .thisPass false } :=
  if_pos (State.running_iff.mpr running)

theorem takeRepaint_stopped (stopped : s.control.device ≠ .running) :
    s.takeRepaint = s.completeCommand .done (ofBytes 0 0 2 0) :=
  if_neg fun running => stopped (State.running_iff.mp running)

end Sweep

/-- Settles O51: triggers, steps and REPAINT by the sweep's cases; a step of a BOUND field is a render, and what follows
it is `sweepAdvance`. -/
theorem sweepAndRepaint : Obligations.SweepAndRepaint := by
  refine ⟨fun s rest idle front => ?trigger, fun s rest idle front quiet => ?step, fun s rest idle front => ?repaint⟩
  all_goals obtain rfl := tail_of_front front
  case trigger =>
    have run := exec_sweepTrigger (State.fieldFront_of idle front)
    refine ⟨fun running inactive => ?_, fun running active => ?_, fun stopped => ?_⟩
    · rw [trigger_begins (s := s.dropField) running inactive] at run
      exact answers_of run rfl
    · rw [trigger_reruns (s := s.dropField) running active] at run
      exact answers_of run rfl
    · rw [trigger_ignored (s := s.dropField) stopped] at run
      exact run
  case step =>
    have run := exec_sweepStep (State.fieldFront_of idle front)
    intro w renders room
    refine ⟨fun inactive => ?idle, fun active unbound more => ?passes, fun active bound full => ?waits,
      fun active bound room more => ?renders, fun active last roomy => ?last⟩
    case idle =>
      rw [takeStep_idle inactive] at run
      exact answers_of run rfl
    case passes =>
      rw [takeStep_passes active unbound] at run
      exact answers_of run (State.sweepAdvance_next (s := s.stepTaken) active more false)
    case waits =>
      rw [takeStep_renders active bound] at run
      exact answers_of run (State.render_full (s := s.stepTaken) _ _ (Nat.not_lt.mp full))
    case renders =>
      rw [takeStep_renders active bound, State.render_sent (s := s.stepTaken) _ _ room quiet idle] at run
      exact answers_of run (State.sweepAdvance_next (s := s.stepTaken.rendered w.position) active more true)
    case last =>
      by_cases bound : renders
      case pos =>
        rw [takeStep_renders active bound, State.render_sent (s := s.stepTaken) _ _ (roomy bound) quiet idle] at run
        simp only [bound, if_true]
        exact answers_of run (State.sweepAdvance_ended (s := s.stepTaken.rendered w.position) active last true)
      case neg =>
        rw [takeStep_passes active bound] at run
        simp only [bound, if_false]
        exact answers_of run (State.sweepAdvance_ended (s := s.stepTaken) active last false)
  case repaint =>
    have run := exec_repaint (State.fieldFront_of idle front)
    refine ⟨fun running inactive => ?_, fun running active => ?_, fun stopped => ?_⟩
    · have inactive : s.dropField.field.sweep.active = false := inactive
      rw [takeRepaint_running (s := s.dropField) running, if_neg (Bool.eq_false_iff.mp inactive),
        trigger_begins (s := s.dropField) running inactive] at run
      exact answers_of run rfl
    · have active : s.dropField.field.sweep.active = true := active
      rw [takeRepaint_running (s := s.dropField) running, if_pos active, trigger_reruns (s := s.dropField) running active] at run
      exact answers_of run rfl
    · rw [takeRepaint_stopped (s := s.dropField) stopped] at run
      exact answers_of run rfl

end Sys2Proof.Machine

/-! BIND_FIELD: its form, its checks, and what its lookup's result leads to (Section 3.4, R50 to R53). -/

namespace Sys2Proof.Machine

open Sys2Proof.Statement

/-! ### The style and the form of BIND_FIELD (R51) -/

theorem ruleOf_isSome_iff (b : Nat) : (ruleOf b).isSome = true ↔ b ≤ 2 := by
  unfold ruleOf
  split
  next => decide
  next => decide
  next => decide
  next not0 not1 not2 =>
    have : b ≠ 0 := not0
    have : b ≠ 1 := not1
    have : b ≠ 2 := not2
    simp only [Option.isSome_none, Bool.false_eq_true, false_iff]
    omega

theorem ruleOf_given {b : Nat} {rule : ColourRule} (given : ruleOf b = some rule) :
    (rule = .plain ↔ b = 0) ∧ (rule = .sign ↔ b = 1) ∧ (rule = .tick ↔ b = 2) := by
  unfold ruleOf at given
  split at given <;> cases given <;> decide

theorem penNumberOf_eq_some_iff {b : Nat} {p : BitVec 5} : penNumberOf b = some p ↔ p.toNat = b := by
  unfold penNumberOf
  split
  next inRange =>
    rw [Option.some.injEq, ← BitVec.toNat_inj, BitVec.toNat_ofNat, Nat.mod_eq_of_lt inRange, eq_comm]
  next outside =>
    have := p.isLt
    simp only [reduceCtorEq, false_iff]
    omega

theorem penNumberOf_isSome_iff (b : Nat) : (penNumberOf b).isSome = true ↔ b ≤ 31 := by
  unfold penNumberOf
  split
  next inRange => simp only [Option.isSome_some, true_iff]; omega
  next outside => simp only [Option.isSome_none, Bool.false_eq_true, false_iff]; omega

namespace Descriptor

variable {d : Descriptor}

theorem style_eq_some_iff {st : Style} : d.style = some st ↔
    (d.byte 5 2 = st.places.val ∧ ruleOf (d.byte 5 3) = some st.rule ∧ d.byte 6 0 = st.hold.val) ∧
    (penNumberOf (d.byte 7 0) = some st.steadyPen ∧ penNumberOf (d.byte 7 1) = some st.upPen ∧
      penNumberOf (d.byte 7 2) = some st.downPen ∧ penNumberOf (d.byte 7 3) = some st.stalePen) ∧
    d.byte 6 1 < 8 ∧ st.plus = decide (d.byte 6 1 % 2 = 1) ∧ st.blankZero = decide (d.byte 6 1 / 2 % 2 = 1) ∧
      st.squeeze = decide (d.byte 6 1 / 4 % 2 = 1) := by
  unfold style
  constructor
  · intro given
    split_ifs at given with places hold flags
    case pos =>
      split at given
      next ruleGiven steady up down stale =>
        cases given
        exact ⟨⟨rfl, ruleGiven, rfl⟩, ⟨steady, up, down, stale⟩, flags, rfl, rfl, rfl⟩
      next => cases given
    case neg => split at given <;> cases given
  · obtain ⟨places, rule, hold, steadyPen, upPen, downPen, stalePen, plus, blankZero, squeeze⟩ := st
    rintro ⟨⟨placesIs, ruleIs, holdIs⟩, ⟨steady, up, down, stale⟩, flags, rfl, rfl, rfl⟩
    rw [dif_pos (by omega), dif_pos (by omega), ruleIs, steady, up, down, stale]
    simp only [flags, if_true, placesIs, holdIs]

theorem style_isSome_iff : d.style.isSome = true ↔ d.byte 5 2 ≤ 6 ∧ d.byte 5 3 ≤ 2 ∧ d.byte 6 0 ≤ 3 ∧
    d.byte 7 0 ≤ 31 ∧ d.byte 7 1 ≤ 31 ∧ d.byte 7 2 ≤ 31 ∧ d.byte 7 3 ≤ 31 ∧ d.byte 6 1 ≤ 7 := by
  rw [Option.isSome_iff_exists]
  constructor
  · rintro ⟨st, given⟩
    obtain ⟨⟨places, rule, hold⟩, ⟨steady, up, down, stale⟩, flags, -⟩ := style_eq_some_iff.mp given
    exact ⟨by omega, (ruleOf_isSome_iff _).mp (rule ▸ rfl), by omega, (penNumberOf_isSome_iff _).mp (steady ▸ rfl),
      (penNumberOf_isSome_iff _).mp (up ▸ rfl), (penNumberOf_isSome_iff _).mp (down ▸ rfl),
      (penNumberOf_isSome_iff _).mp (stale ▸ rfl), by omega⟩
  · rintro ⟨places, rule, hold, steady, up, down, stale, flags⟩
    obtain ⟨rule, ruleIs⟩ := Option.isSome_iff_exists.mp ((ruleOf_isSome_iff _).mpr rule)
    obtain ⟨steady, steadyIs⟩ := Option.isSome_iff_exists.mp ((penNumberOf_isSome_iff _).mpr steady)
    obtain ⟨up, upIs⟩ := Option.isSome_iff_exists.mp ((penNumberOf_isSome_iff _).mpr up)
    obtain ⟨down, downIs⟩ := Option.isSome_iff_exists.mp ((penNumberOf_isSome_iff _).mpr down)
    obtain ⟨stale, staleIs⟩ := Option.isSome_iff_exists.mp ((penNumberOf_isSome_iff _).mpr stale)
    exact ⟨⟨⟨d.byte 5 2, by omega⟩, rule, ⟨d.byte 6 0, by omega⟩, steady, up, down, stale, _, _, _⟩,
      style_eq_some_iff.mpr ⟨⟨rfl, ruleIs, rfl⟩, ⟨steadyIs, upIs, downIs, staleIs⟩, by omega, rfl, rfl, rfl⟩⟩

theorem item_eq_some_iff {item : Fin 8} : d.item = some item ↔ item.val = d.byte 4 2 := by
  unfold Descriptor.item
  split
  next inRange => rw [Option.some.injEq, Fin.ext_iff, eq_comm]
  next outside => simp only [reduceCtorEq, false_iff]; omega

theorem bindForm_eq_some_iff {item : Fin 8} {st : Style} : d.bindForm = some (item, st) ↔
    d.item = some item ∧ d.style = some st ∧ 1 ≤ d.fieldWidth ∧ d.fieldWidth ≤ 20 := by
  unfold bindForm
  split
  next i style itemIs styleIs =>
    simp only [itemIs, styleIs, Option.ite_none_right_eq_some, Option.some.injEq, Prod.mk.injEq]
    tauto
  next other =>
    simp only [reduceCtorEq, false_iff]
    rintro ⟨itemIs, styleIs, -⟩
    exact other _ _ itemIs styleIs

theorem bindForm_isSome_iff : d.bindForm.isSome = true ↔
    d.style.isSome = true ∧ d.byte 4 2 ≤ 7 ∧ 1 ≤ d.byte 4 3 ∧ d.byte 4 3 ≤ 20 := by
  simp only [Option.isSome_iff_exists, Prod.exists, bindForm_eq_some_iff, item_eq_some_iff]
  constructor
  · rintro ⟨item, st, itemIs, style, width⟩
    exact ⟨⟨st, style⟩, by omega, width⟩
  · rintro ⟨⟨st, style⟩, item, width⟩
    exact ⟨⟨d.byte 4 2, by omega⟩, st, rfl, style, width⟩

end Descriptor

/-! ### The checks of BIND_FIELD (R50, R51) -/

section Commands

variable {s : State} {d : Descriptor}

/-- A field command that ends with an outcome and nothing else. -/
theorem endCommand_ended (idle : s.field.event = none) (quiet : s.highlight.requests = []) (st : Status) (w : Word) :
    EndedWith s (s.dropField.endCommand st w) st w :=
  State.endCommand_eq s.dropField st w quiet idle

theorem exec_bindField (front : s.fieldFront = some (.bind d)) :
    exec .bindField s = .next (s.dropField.takeBind d) := by
  simp only [exec, execBindField, front]

theorem exec_lookupResult {l : LookupResult} (front : s.fieldFront = some (.lookupResult l))
    (command : s.field.command = some d) : exec .lookupResult s = .next (s.dropField.takeLookupResult d l) := by
  simp only [exec, execLookupResult, front, command]

end Commands

/-- Settles O46: the taking of BIND_FIELD by its checks, and the form by the bytes it reads. -/
theorem bindFieldChecks : Obligations.BindFieldChecks := by
  refine ⟨fun s d rest idle front quiet => ?checks, fun d => ⟨Descriptor.style_isSome_iff, ?form, ?carried, ?style⟩,
    fun f slot st fieldInRange slotInRange => ?bytes⟩
  case checks =>
    obtain rfl := tail_of_front front
    have run := exec_bindField (State.fieldFront_of idle front)
    intro f v
    have number : d.fieldNumber = f := rfl
    refine ⟨fun outside => ?_, fun inside unformed => ?_, fun inside formed used => ?_, fun inside formed free => ?_⟩
    · refine answers_of run ?_
      simp only [State.takeBind, number, outside, if_true]
      exact endCommand_ended idle quiet _ _
    · refine answers_of run ?_
      simp only [State.takeBind, number, Nat.not_le.mpr inside, if_false, unformed]
      exact endCommand_ended idle quiet _ _
    · obtain ⟨form, formed⟩ := Option.isSome_iff_exists.mp formed
      refine answers_of run ?_
      have used : (s.record f).state ≠ .free := used
      simp only [State.takeBind, number, Nat.not_le.mpr inside, if_false, formed, State.dropField_record, used]
      exact endCommand_ended idle quiet _ _
    · obtain ⟨form, formed⟩ := Option.isSome_iff_exists.mp formed
      refine answers_of run ?_
      have free : (s.record f).state = .free := free
      simp only [State.takeBind, number, Nat.not_le.mpr inside, if_false, formed, State.dropField_record, free, if_true]
      rfl
  case form => exact Descriptor.bindForm_isSome_iff.trans (and_congr_left' Descriptor.style_isSome_iff)
  case carried =>
    intro item st given
    obtain ⟨itemIs, style, -⟩ := Descriptor.bindForm_eq_some_iff.mp given
    exact ⟨Descriptor.item_eq_some_iff.mp itemIs, style⟩
  case style =>
    intro st given
    obtain ⟨⟨places, rule, hold⟩, ⟨steady, up, down, stale⟩, -, plus, blankZero, squeeze⟩ :=
      Descriptor.style_eq_some_iff.mp given
    obtain ⟨plain, sign, tick⟩ := ruleOf_given rule
    exact ⟨places.symm, hold.symm, plain, sign, tick, penNumberOf_eq_some_iff.mp steady, penNumberOf_eq_some_iff.mp up,
      penNumberOf_eq_some_iff.mp down, penNumberOf_eq_some_iff.mp stale, by simp [plus], by simp [blankZero],
      by simp [squeeze]⟩
  case bytes =>
    rw [fieldResult, byteOf_ofBytes_zero, byteOf_ofBytes_one, byteOf_ofBytes_two, byteOf_ofBytes_three]
    refine ⟨by omega, by omega, by omega, ?_⟩
    cases st <;> rfl

end Sys2Proof.Machine

/-! Fields placed on the screen: spans and the occupancy map, and the end of BIND_FIELD (Section 3.4, R53, R54). -/

namespace Sys2Proof.Machine

open Sys2Proof.Statement

/-! ### Spans (R44, R53) -/

section Span

variable {s : State} {row col width : Nat}

theorem State.spanFits_iff : s.spanFits row col width = true ↔ row < s.rows ∧ col < s.columns ∧ col + width ≤ s.columns := by
  simp [State.spanFits, and_assoc]

theorem State.spanTaken_eq_false_iff {other : Nat → Bool} : s.spanTaken row col width other = false ↔
    ∀ i < width, ∀ g, s.field.occupancy.get occSpec (row * s.columns + (col + i)) = some g → other g = false := by
  simp only [State.spanTaken, List.any_eq_false, List.mem_range, State.occupant, State.cellIndex]
  refine forall₂_congr fun i _ => ?_
  cases s.field.occupancy.get occSpec (row * s.columns + (col + i)) <;> simp

theorem State.mem_spanCells_iff {n : Nat} :
    n ∈ s.spanCells row col width ↔ ∃ i < width, n = row * s.columns + (col + i) := by
  simp [State.spanCells, State.cellIndex, eq_comm]

theorem State.markSpan_get (wf : s.field.occupancy.WF occSpec) (v : Option Nat) {n : Nat} (inRange : n < 6144) :
    (s.markSpan row col width v).field.occupancy.get occSpec n =
      if ∃ i < width, n = row * s.columns + (col + i) then v else s.field.occupancy.get occSpec n := by
  rw [State.occupancy_markSpan s row col width v wf n inRange]
  exact if_congr State.mem_spanCells_iff rfl rfl

end Span

/-! ### A render that ends a command (R48, R50) -/

section Done

variable {s t : State} {f : Nat} {w : Word}

theorem render_done (idle : s.field.event = none) (quiet : s.highlight.requests = []) :
    RenderedDone s (s.render f [] (.complete .done w)) f w := by
  unfold RenderedDone
  intro room
  by_cases sent : room
  case pos =>
    simp only [sent, if_true, ← idle]
    exact State.render_sent f _ sent quiet idle
  case neg =>
    simp only [sent, if_false]
    exact State.render_full f _ (Nat.not_lt.mp sent)

theorem records_of_renderedDone (left : RenderedDone s t f w) : t.field.records = recordsRendered s f := by
  unfold RenderedDone at left
  rw [left]

theorem occupancy_of_renderedDone (left : RenderedDone s t f w) : t.field.occupancy = s.field.occupancy := by
  unfold RenderedDone at left
  rw [left]

/-- A render leaves its field's record but for the overflow count. -/
theorem record_self_of_renderedDone (left : RenderedDone s t f w) (wf : s.field.records.WF fieldSpec) (inRange : f < 512) :
    t.record f = { s.record f with overflow := (t.record f).overflow } := by
  have self : t.record f = _ := (congrArg (Tab.get fieldSpec · f) (records_of_renderedDone left)).trans
    (recordsRendered_self wf inRange)
  rw [self]
  split <;> rfl

theorem record_other_of_renderedDone (left : RenderedDone s t f w) (wf : s.field.records.WF fieldSpec) {g : Nat}
    (other : g ≠ f) : t.record g = s.record g :=
  (congrArg (Tab.get fieldSpec · g) (records_of_renderedDone left)).trans (recordsRendered_other wf other)

end Done

/-- A field put on the screen: its record is written, its span entered, and it is rendered (R54, R58). -/
theorem enter_and_render {s : State} {f : Nat} (v : FieldRec) (w : Word) (inRange : f < 512)
    (recordsWF : s.field.records.WF fieldSpec) (occupancyWF : s.field.occupancy.WF occSpec)
    (idle : s.field.event = none) (quiet : s.highlight.requests = []) :
    let t := ((s.setRecord f v).enterSpan f).render f [] (.complete .done w)
    RenderedDone { s with field := { s.field with
      records := s.field.records.set fieldSpec f v, occupancy := t.field.occupancy } } t f w ∧
    t.record f = { v with overflow := if overflows ((s.setRecord f v).enterSpan f) f then
      (if v.overflow < 255 then v.overflow + 1 else v.overflow) else v.overflow } ∧
    (∀ g, g ≠ f → t.record g = s.record g) ∧
    (∀ n < 6144, t.field.occupancy.get occSpec n =
      if ∃ i < v.width, n = v.row * s.columns + (v.col + i) then some f else s.field.occupancy.get occSpec n) := by
  intro t
  have left : RenderedDone ((s.setRecord f v).enterSpan f) t f w := render_done idle quiet
  have set : Tab.WF fieldSpec (s.field.records.set fieldSpec f v) := Tab.set_wf _ _ _ _ recordsWF
  have self : ((s.setRecord f v).enterSpan f).record f = v := Tab.get_set_self _ _ _ _ recordsWF inRange
  refine ⟨?done, ?record, fun g other => ?other, fun n below => ?occupancy⟩
  case done =>
    rw [occupancy_of_renderedDone left]
    exact left
  case record =>
    rw [State.record, records_of_renderedDone left, recordsRendered_self set inRange, self]
    split <;> rfl
  case other => exact (record_other_of_renderedDone left set other).trans (Tab.get_set_ne _ _ _ _ _ recordsWF other)
  case occupancy =>
    have self : (s.setRecord f v).record f = v := self
    rw [occupancy_of_renderedDone left, State.enterSpan, self]
    exact State.markSpan_get (s := s.setRecord f v) occupancyWF _ below

/-! ### The end of BIND_FIELD (R52 to R54) -/

/-- A BIND_FIELD that ends on its lookup's result. -/
theorem bind_ended {s : State} (idle : s.field.event = none) (quiet : s.highlight.requests = []) (st : Status) (w : Word) :
    s.dropField.dropCommand.endCommand st w = { s with
      field := { fieldTaken s.field with command := none }, rings := outcomeTo s.rings .t st w } :=
  State.endCommand_eq s.dropField.dropCommand st w quiet idle

theorem exec_appendCompletion {s : State} {d : Descriptor} {f slot : Nat}
    (front : s.fieldFront = some (.appendDone f slot)) (command : s.field.command = some d) :
    exec .appendCompletion s = .next (s.dropField.takeAppendDone d f slot) := by
  simp only [exec, execAppendCompletion, front, command]

/-- Settles O47: the lookup's result by its cases, and the append's completion as a field put on the screen. -/
theorem bindingCompletes : Obligations.BindingCompletes := by
  refine ⟨fun s d l rest idle front command quiet => ?lookup, fun s d slot rest item st idle front command quiet form
    inRange wf => ?completion⟩
  all_goals obtain rfl := tail_of_front front
  case lookup =>
    have run := exec_lookupResult (State.fieldFront_of idle front) command
    intro f row col width fits clear ended
    have inGeometry : s.dropField.spanFits d.fieldRow d.fieldCol d.fieldWidth = true ↔ fits := State.spanFits_iff
    have unoccupied : s.dropField.spanTaken d.fieldRow d.fieldCol d.fieldWidth (fun _ => true) = false ↔ clear := by
      rw [State.spanTaken_eq_false_iff]
      refine forall₂_congr fun i _ => ?_
      simp only [Bool.true_eq_false, imp_false]
      exact Option.eq_none_iff_forall_ne_some.symm
    refine ⟨?notFound, ?full, ?outOfRange, ?overlap, ?append⟩
    case notFound =>
      rintro rfl
      exact answers_of run (bind_ended idle quiet _ _)
    case full =>
      rintro i rfl
      exact answers_of run (bind_ended idle quiet _ _)
    case outOfRange =>
      rintro i rfl outside
      refine answers_of run ?_
      simp only [State.takeLookupResult, Bool.eq_false_iff.mpr (mt inGeometry.mp outside), Bool.not_false, if_true]
      exact bind_ended idle quiet _ _
    case overlap =>
      rintro i rfl inside taken
      refine answers_of run ?_
      simp only [State.takeLookupResult, inGeometry.mpr inside, Bool.not_true, Bool.false_eq_true, if_false,
        Bool.eq_true_of_not_eq_false (mt unoccupied.mp taken), if_true]
      exact bind_ended idle quiet _ _
    case append =>
      rintro i rfl inside free
      refine answers_of run ?_
      simp only [State.takeLookupResult, inGeometry.mpr inside, Bool.not_true, Bool.false_eq_true, if_false,
        unoccupied.mpr free]
      rfl
  case completion =>
    have run := exec_appendCompletion (State.fieldFront_of idle front) command
    simp only [State.takeAppendDone, form] at run
    have placed := enter_and_render (s := s.dropField.dropCommand) (boundRecord d slot item st)
      (fieldResult (d.half 4 0) slot .bound) inRange wf.records wf.occupancy idle quiet
    obtain ⟨done, self, others, occupancy⟩ := placed
    refine answers_of run ⟨done, ?_, others, occupancy⟩
    rw [self]
    split
    · exact .inr rfl
    · exact .inl rfl

end Sys2Proof.Machine

/-! UNBIND_FIELD, MOVE_FIELD and STYLE_FIELD (Sections 3.4 and 3.5, R55 to R59). -/

namespace Sys2Proof.Machine

open Sys2Proof.Statement

/-! ### Unbinding (R55, R56) -/

section Unbind

variable {s : State} {d : Descriptor} {f : Nat}

theorem exec_unbindField (front : s.fieldFront = some (.unbind d)) :
    exec .unbindField s = .next (s.dropField.takeUnbind d) := by
  simp only [exec, execUnbindField, front]

theorem exec_removalCompletion (front : s.fieldFront = some (.removalDone f)) (command : s.field.command = some d) :
    exec .removalCompletion s = .next (s.dropField.takeRemovalDone d f) := by
  simp only [exec, execRemovalCompletion, front, command]

theorem exec_removeRequest {rest : List HighlightRequest} (front : s.highlight.requests = .remove f :: rest) :
    exec .removeRequest s = .next (s.highlightTaken (s.highlight.drop f)) := by
  simp only [exec, execRemoveRequest, front]

/-- The Highlight Timer takes the last request of an event whose span writes are sent: the event ends. -/
theorem highlightTaken_last {q : HighlightRequest} {after : FieldAfter} (h : HighlightTimer)
    (front : s.highlight.requests = [q]) (waiting : s.field.event = some ⟨[], after⟩) :
    s.highlightTaken h = State.runAfter { s with
      highlight := { h with requests := [] }, field := { s.field with event := none } } after := by
  rw [State.highlightTaken, front]
  exact State.fieldFinish_done { s with highlight := { h with requests := [] } } after waiting rfl

/-- An event that begins with at most one span write while the Highlight Timer has a request outstanding. -/
theorem beginEvent_asked (asked : s.highlight.requests ≠ []) (sends : Prop) [Decidable sends] (w : SpanWrite)
    (after : FieldAfter) :
    s.beginEvent (if sends then [w] else []) after =
      let room : Prop := s.plane.inbox.countP PlaneRequest.isSpan < 64
      { s with
        plane := if sends ∧ room then { s.plane with inbox := s.plane.inbox ++ [.span w] } else s.plane
        field := { s.field with event := some ⟨if sends ∧ ¬room then [w] else [], after⟩ } } := by
  by_cases send : sends
  case neg =>
    simp only [send, if_false, false_and]
    rw [State.beginEvent_waits s [] after (Nat.zero_le _) asked, List.map_nil, List.append_nil]
  case pos =>
    by_cases room : s.plane.inbox.countP PlaneRequest.isSpan < 64
    case pos =>
      simp only [send, room, if_true, true_and, not_true_eq_false, if_false]
      exact State.beginEvent_waits s [w] after (Nat.sub_pos_of_lt room) asked
    case neg =>
      simp only [send, room, if_true, true_and, not_false_eq_true, if_false]
      exact State.beginEvent_full s [w] after (List.cons_ne_nil _ _) (Nat.not_lt.mp room)

/-- The state in which the removal's event begins: the command done with, the span of a BOUND field out of the map, the
remove request sent. -/
def State.unplaced (s : State) (f : Nat) : State :=
  (if s.isBound f then s.dropField.dropCommand.clearSpan f else s.dropField.dropCommand).sendHighlight (.remove f)

theorem unplaced_eq (s : State) (f : Nat) : s.unplaced f = { s with
    highlight := { s.highlight with requests := s.highlight.requests ++ [.remove f] }
    field := { fieldTaken s.field with command := none, occupancy := (s.unplaced f).field.occupancy } } := by
  unfold State.unplaced
  split <;> rfl

theorem unplaced_occupancy (wf : s.field.occupancy.WF occSpec) {n : Nat} (inRange : n < 6144) :
    (s.unplaced f).field.occupancy.get occSpec n =
      if (s.record f).state = .bound ∧ ∃ i < (s.record f).width, n = (s.record f).row * s.columns + ((s.record f).col + i)
      then none else s.field.occupancy.get occSpec n := by
  unfold State.unplaced
  by_cases bound : (s.record f).state = .bound
  case pos =>
    rw [if_pos (State.isBound_of bound)]
    refine (State.markSpan_get (s := s.dropField.dropCommand) wf none inRange).trans ?_
    exact if_congr (and_iff_right bound).symm rfl rfl
  case neg =>
    rw [if_neg (Bool.eq_false_iff.mp (State.isBound_of_not bound)), if_neg fun both => bound both.1]
    rfl

theorem takeRemovalDone_eq (s : State) (d : Descriptor) (f : Nat) : s.dropField.takeRemovalDone d f =
    (s.unplaced f).beginEvent
      (if (s.record f).state = .bound ∧ d.byte 4 2 ≠ 0 then [s.blankWrite f d.blankCell] else [])
      (.freeAndComplete f (fieldResult f (s.record f).slot .free)) := by
  have blanks : (s.isBound f && d.blankFlag) = true ↔ (s.record f).state = .bound ∧ d.byte 4 2 ≠ 0 := by
    simp [State.isBound, Descriptor.blankFlag]
  simp only [← blanks]
  rfl

end Unbind

/-- Settles O48: UNBIND_FIELD by its checks; the removal's completion begins an event that frees the record once the
Highlight Timer has taken the remove request. -/
theorem unbindFieldAndRemoval : Obligations.UnbindFieldAndRemoval := by
  refine ⟨fun s d rest idle front quiet => ?unbind, fun s d f rest idle front command wf => ?removal,
    fun s f g w waiting front => ?free⟩
  case unbind =>
    obtain rfl := tail_of_front front
    have run := exec_unbindField (State.fieldFront_of idle front)
    intro f
    have number : d.fieldNumber = f := rfl
    refine ⟨fun outside => ?_, fun inside free => ?_, fun inside used => ?_⟩
    · simp only [State.takeUnbind, number, outside, if_true] at run
      exact answers_of run (endCommand_ended idle quiet _ _)
    · simp only [State.takeUnbind, number, Nat.not_le.mpr inside, if_false, State.dropField_record, free, if_true] at run
      exact answers_of run (endCommand_ended idle quiet _ _)
    · simp only [State.takeUnbind, number, Nat.not_le.mpr inside, if_false, State.dropField_record, used] at run
      exact answers_of run rfl
  case removal =>
    have run := exec_removalCompletion (State.fieldFront_of idle front) command
    have asked : (s.unplaced f).highlight.requests ≠ [] := by
      rw [unplaced_eq]
      simp
    rw [takeRemovalDone_eq, beginEvent_asked asked] at run
    refine answers_of run ⟨?_, fun n below => unplaced_occupancy wf.occupancy below⟩
    rw [unplaced_eq]
    rfl
  case free =>
    refine answers_of (exec_removeRequest front) ?_
    rw [highlightTaken_last _ front waiting]
    rfl

/-! ### Moves (R57, R58) -/

section Move

variable {s : State} {d : Descriptor} {f : Nat}

theorem exec_moveField (front : s.fieldFront = some (.move d)) : exec .moveField s = .next (s.dropField.takeMove d) := by
  simp only [exec, execMoveField, front]

/-- A move, its blanking write sent: the field is put on the screen at its new place. -/
theorem makeMove_made {m : FieldMove} (inRange : m.field < 512) (recordsWF : s.field.records.WF fieldSpec)
    (occupancyWF : s.field.occupancy.WF occSpec) (idle : s.field.event = none) (quiet : s.highlight.requests = []) :
    MoveMade s (s.makeMove m) m := by
  obtain ⟨done, self, others, occupancy⟩ := enter_and_render ((s.record m.field).movedTo m.row m.col m.width)
    (fieldResult m.field (s.record m.field).slot .bound) inRange recordsWF occupancyWF idle quiet
  exact ⟨done, self.trans (by rw [State.makeMove, self]; rfl), others, occupancy⟩

theorem misplaced_iff {row col width : Nat} : (width < 1 ∨ 20 < width ∨ (!s.spanFits row col width) = true) ↔
    ¬(1 ≤ width ∧ width ≤ 20 ∧ row < s.rows ∧ col < s.columns ∧ col + width ≤ s.columns) := by
  rw [Bool.not_eq_true', Bool.eq_false_iff, ne_eq, State.spanFits_iff]
  omega

/-- MOVE_FIELD past its first two checks. -/
theorem takeMove_placed (inside : d.fieldNumber < 512) (used : (s.record d.fieldNumber).state ≠ .free) :
    s.dropField.takeMove d =
      if d.fieldWidth < 1 ∨ 20 < d.fieldWidth ∨ (!s.dropField.spanFits d.fieldRow d.fieldCol d.fieldWidth) = true then
        s.dropField.endCommand .outOfRange (s.recordResult d.fieldNumber)
      else if s.dropField.spanTaken d.fieldRow d.fieldCol d.fieldWidth (fun g => decide (g ≠ d.fieldNumber)) then
        s.dropField.endCommand .overlap (s.recordResult d.fieldNumber)
      else s.dropField.moveField d d.fieldNumber := by
  simp only [State.takeMove, Nat.not_le.mpr inside, State.dropField_record, used, if_false]
  rfl

/-- The place that MOVE_FIELD carries. -/
def Descriptor.fieldMove (d : Descriptor) : FieldMove := ⟨d.fieldNumber, d.fieldRow, d.fieldCol, d.fieldWidth⟩

theorem moveField_suspended (suspended : (s.record d.fieldNumber).state = .suspended) :
    s.moveField d d.fieldNumber = s.makeMove d.fieldMove :=
  if_neg (Bool.eq_false_iff.mp (State.isBound_of_not (by rw [suspended]; decide)))

theorem moveField_bound (bound : (s.record d.fieldNumber).state = .bound) (room : s.heldSpans < 64) :
    s.moveField d d.fieldNumber = State.makeMove { s.clearSpan d.fieldNumber with
      plane := { s.plane with inbox := s.plane.inbox ++ [.span (s.blankWrite d.fieldNumber d.blankCell)] }
      field := { (s.clearSpan d.fieldNumber).field with event := none } } d.fieldMove :=
  (if_pos (State.isBound_of bound)).trans (if_pos room)

theorem moveField_waits (bound : (s.record d.fieldNumber).state = .bound) (full : 64 ≤ s.heldSpans) :
    s.moveField d d.fieldNumber = { s.clearSpan d.fieldNumber with field := { (s.clearSpan d.fieldNumber).field with
      event := some ⟨[s.blankWrite d.fieldNumber d.blankCell], .moveTo d.fieldMove⟩ } } :=
  (if_pos (State.isBound_of bound)).trans (if_neg (Nat.not_lt.mpr full))

/-- The occupancy map with the span of a field cleared. -/
theorem clearSpan_cleared (wf : s.field.occupancy.WF occSpec) (f : Nat) :
    (s.clearSpan f).field.occupancy.WF occSpec ∧ ∀ n < 6144, (s.clearSpan f).field.occupancy.get occSpec n =
      if ∃ i < (s.record f).width, n = (s.record f).row * s.columns + ((s.record f).col + i) then none
      else s.field.occupancy.get occSpec n :=
  ⟨markCells_wf _ _ _ wf, fun _ below => State.markSpan_get wf none below⟩

end Move

/-- Settles O49: MOVE_FIELD by its checks; a move that passes them is `makeMove_made`, at once or once its blanking write
is sent. -/
theorem moveField : Obligations.MoveField := by
  refine ⟨fun s d rest idle front quiet => ?taking, fun s w m waiting inRange quiet wf room => ?sent⟩
  case taking =>
    obtain rfl := tail_of_front front
    have run := exec_moveField (State.fieldFront_of idle front)
    intro f v row col width fits free blank cleared
    have number : d.fieldNumber = f := rfl
    have misplaced : (d.fieldWidth < 1 ∨ 20 < d.fieldWidth ∨
        (!s.dropField.spanFits d.fieldRow d.fieldCol d.fieldWidth) = true) ↔ ¬fits := misplaced_iff
    have unoccupied : s.dropField.spanTaken d.fieldRow d.fieldCol d.fieldWidth (fun g => decide (g ≠ d.fieldNumber)) = false ↔
        free := by
      rw [State.spanTaken_eq_false_iff]
      refine forall₂_congr fun i _ => forall₂_congr fun g _ => ?_
      rw [decide_eq_false_iff_not, not_not, number]
    have moves (inside : f < 512) (used : v.state ≠ .free) (placed : fits) (clear : free) :
        s.dropField.takeMove d = s.dropField.moveField d d.fieldNumber := by
      rw [takeMove_placed inside used, if_neg (mt misplaced.mp (not_not_intro placed)),
        if_neg (Bool.eq_false_iff.mp (unoccupied.mpr clear))]
    refine ⟨?badForm, ?notBound, ?outOfRange, ?overlap, ?suspended, ?bound, ?waits⟩
    case badForm =>
      intro outside
      simp only [State.takeMove, number, outside, if_true] at run
      exact answers_of run (endCommand_ended idle quiet _ _)
    case notBound =>
      intro inside unbound
      have unbound : (s.record f).state = .free := unbound
      simp only [State.takeMove, number, Nat.not_le.mpr inside, if_false, State.dropField_record, unbound, if_true] at run
      exact answers_of run (endCommand_ended idle quiet _ _)
    case outOfRange =>
      intro inside used outside
      rw [takeMove_placed inside used, if_pos (misplaced.mpr outside)] at run
      exact answers_of run (endCommand_ended idle quiet _ _)
    case overlap =>
      intro inside used placed taken
      rw [takeMove_placed inside used, if_neg (mt misplaced.mp (not_not_intro placed)),
        if_pos (Bool.eq_true_of_not_eq_false (mt unoccupied.mp taken))] at run
      exact answers_of run (endCommand_ended idle quiet _ _)
    case suspended =>
      intro inside suspended placed clear wf
      rw [moves inside (by rw [suspended]; decide) placed clear, moveField_suspended (s := s.dropField) suspended] at run
      exact answers_of run (makeMove_made (s := s.dropField) inside wf.records wf.occupancy idle quiet)
    case bound =>
      intro inside bound placed clear wf room
      rw [moves inside (by rw [bound]; decide) placed clear, moveField_bound (s := s.dropField) bound room] at run
      have old := clearSpan_cleared (s := s.dropField) wf.occupancy f
      refine answers_of run ⟨(s.dropField.clearSpan f).field.occupancy, old, ?_⟩
      have made := makeMove_made (s := { s.dropField.clearSpan f with
        plane := { s.plane with inbox := s.plane.inbox ++ [.span blank] }
        field := { (s.dropField.clearSpan f).field with event := none } })
        (m := d.fieldMove) inside wf.records old.1 rfl quiet
      exact Eq.subst (motive := fun event => MoveMade { s with
        plane := { s.plane with inbox := s.plane.inbox ++ [.span blank] }
        field := { (s.dropField.clearSpan f).field with event := event } } _ _) idle.symm made
    case waits =>
      intro inside bound placed clear wf full
      rw [moves inside (by rw [bound]; decide) placed clear, moveField_waits (s := s.dropField) bound full] at run
      exact answers_of run ⟨clearSpan_cleared (s := s.dropField) wf.occupancy f, rfl⟩
  case sent =>
    have run := exec_spanQueueRoom waiting room
    rw [State.sendSpan_move] at run
    exact answers_of run (makeMove_made inRange wf.records wf.occupancy rfl quiet)

end Sys2Proof.Machine

/-! STYLE_FIELD (Section 3.5, R59). -/

namespace Sys2Proof.Machine

open Sys2Proof.Statement

section Style

variable {s u : State} {d : Descriptor} {f : Nat} {st : Style}

theorem exec_styleField (front : s.fieldFront = some (.style d)) :
    exec .styleField s = .next (s.dropField.takeStyle d) := by
  simp only [exec, execStyleField, front]

/-- Does the new style end the highlight of a field (R59)? -/
abbrev Style.Ends (old new : Style) : Prop := (old.rule = .tick ∧ new.rule ≠ .tick) ∨ new.hold ≠ old.hold

theorem Style.endsHighlight_iff (old new : Style) : old.endsHighlight new = true ↔ old.Ends new := by
  simp [Style.endsHighlight]

/-- What is rendered reads the field's record, the instrument table, the rings and the absent glyph alone. -/
theorem renderOf_congr (record : u.record f = s.record f) (slots : u.quote.slots = s.quote.slots) (rings : u.rings = s.rings)
    (glyph : u.field.absentGlyph = s.field.absentGlyph) : renderOf u f = renderOf s f := by
  simp only [renderOf, record, State.slot, slots, rings, glyph]

theorem portsRendered_congr (record : u.record f = s.record f) (slots : u.quote.slots = s.quote.slots)
    (ports : u.ports = s.ports) (glyph : u.field.absentGlyph = s.field.absentGlyph) :
    portsRendered u f = portsRendered s f := by
  have same : overflows u f = overflows s f := by simp only [overflows, record, State.slot, slots, glyph]
  rw [portsRendered, portsRendered, same, ports]

/-- A table of records in which one was written holds that one, but for its overflow count, and the others. -/
theorem record_of_records {t : State} {v : FieldRec} (wf : u.field.records.WF fieldSpec) (self : u.record f = v)
    (others : ∀ g, g ≠ f → u.record g = s.record g) (inRange : f < 512)
    (left : t.field.records = recordsRendered u f ∨ t.field.records = u.field.records) :
    t.record f = { v with overflow := (t.record f).overflow } ∧ ∀ g, g ≠ f → t.record g = s.record g := by
  subst self
  rcases left with left | left
  · have rendered : t.record f = _ := (congrArg (Tab.get fieldSpec · f) left).trans (recordsRendered_self wf inRange)
    refine ⟨?_, fun g other => ?_⟩
    · rw [rendered]
      split <;> rfl
    · exact ((congrArg (Tab.get fieldSpec · g) left).trans (recordsRendered_other wf other)).trans (others g other)
  · have same (g : Nat) : t.record g = u.record g := congrArg (Tab.get fieldSpec · g) left
    exact ⟨by rw [same], fun g other => (same g).trans (others g other)⟩

/-- What STYLE_FIELD ends with once the style is stored: the render of a BOUND field, and DONE. -/
def State.restyled (u : State) (f : Nat) : State :=
  let w := fieldResult f (u.record f).slot (u.record f).state
  if u.isBound f then u.render f [] (.complete .done w) else u.endCommand .done w

theorem restyled_bound (bound : (u.record f).state = .bound) :
    u.restyled f = u.render f [] (.complete .done (fieldResult f (u.record f).slot (u.record f).state)) :=
  if_pos (State.isBound_of bound)

theorem restyled_suspended (unbound : (u.record f).state ≠ .bound) :
    u.restyled f = u.endCommand .done (fieldResult f (u.record f).slot (u.record f).state) :=
  if_neg (Bool.eq_false_iff.mp (State.isBound_of_not unbound))

/-- A STYLE_FIELD that keeps the highlight. -/
theorem restyle_keeps (keeps : ¬(s.record f).style.Ends st) :
    s.restyle f st = (s.setRecord f { s.record f with style := st }).restyled f := by
  have keeps : (s.record f).style.endsHighlight st = false :=
    Bool.eq_false_iff.mpr (mt (Style.endsHighlight_iff _ _).mp keeps)
  simp only [State.restyle, keeps, Bool.false_eq_true, if_false, State.restyled]

/-- A STYLE_FIELD that ends the highlight. -/
theorem restyle_ends (ends : (s.record f).style.Ends st) :
    s.restyle f st = ((s.setRecord f { s.record f with style := st }).clearTick f).restyled f := by
  simp only [State.restyle, (Style.endsHighlight_iff _ _).mpr ends, if_true, State.restyled]

theorem setRecord_self (wf : s.field.records.WF fieldSpec) (inRange : f < 512) (v : FieldRec) :
    (s.setRecord f v).record f = v := Tab.get_set_self _ _ _ _ wf inRange

theorem setRecord_other (wf : s.field.records.WF fieldSpec) (v : FieldRec) {g : Nat} (other : g ≠ f) :
    (s.setRecord f v).record g = s.record g := Tab.get_set_ne _ _ _ _ _ wf other

/-- The records after a style that ends the highlight is stored. -/
theorem clearTick_record (wf : s.field.records.WF fieldSpec) (inRange : f < 512) (v : FieldRec) :
    let u := (s.setRecord f v).clearTick f
    u.record f = { v with tick := .steady } ∧ ∀ g, g ≠ f → u.record g = s.record g := by
  have stored : Tab.WF fieldSpec (s.setRecord f v).field.records := Tab.set_wf _ _ _ _ wf
  refine ⟨(setRecord_self stored inRange _).trans ?_, fun g other => ?_⟩
  · rw [setRecord_self wf inRange]
  · exact (setRecord_other stored _ other).trans (setRecord_other wf v other)

/-- With the highlight ended, the render's write is sent or waits, and DONE waits for the Highlight Timer. -/
theorem restyled_asking (asked : u.highlight.requests ≠ []) :
    let v := u.record f
    let room : Prop := u.plane.inbox.countP PlaneRequest.isSpan < 64
    let t := u.restyled f
    t = { u with
      plane := if v.state = .bound ∧ room then { u.plane with inbox := u.plane.inbox ++ [.span (renderOf u f)] } else u.plane
      ports := if v.state = .bound then portsRendered u f else u.ports
      field := { u.field with
        event := some ⟨if v.state = .bound ∧ ¬room then [renderOf u f] else [],
          .complete .done (fieldResult f v.slot v.state)⟩
        records := t.field.records } } ∧
    (t.field.records = recordsRendered u f ∨ t.field.records = u.field.records) := by
  intro v room t
  by_cases bound : v.state = .bound
  case pos =>
    have left : t = _ := (restyled_bound bound).trans (State.render_asking f _ asked)
    refine ⟨?_, .inl (by rw [left])⟩
    rw [left]
    simp only [and_iff_right bound, if_pos bound, ite_not]
    rfl
  case neg =>
    have left : t = _ := (restyled_suspended bound).trans (State.beginEvent_waits u [] _ (Nat.zero_le _) asked)
    refine ⟨?_, .inr (by rw [left])⟩
    rw [left]
    simp only [bound, if_false, false_and, List.map_nil, List.append_nil]
    rfl

end Style

/-- Settles O50: STYLE_FIELD by its checks; the style that keeps the highlight ends in a render and DONE, the other is
`restyled_asking`. -/
theorem styleField : Obligations.StyleField := by
  intro s d rest idle front quiet wf
  obtain rfl := tail_of_front front
  have run := exec_styleField (State.fieldFront_of idle front)
  intro f v room ends
  have number : d.fieldNumber = f := rfl
  refine ⟨?badForm, ?notBound, ?noStyle, ?keeps, ?ends⟩
  case badForm =>
    intro outside
    simp only [State.takeStyle, number, outside, if_true] at run
    exact answers_of run (endCommand_ended idle quiet _ _)
  case notBound =>
    intro inside unbound
    have unbound : (s.record f).state = .free := unbound
    simp only [State.takeStyle, number, Nat.not_le.mpr inside, if_false, State.dropField_record, unbound, if_true] at run
    exact answers_of run (endCommand_ended idle quiet _ _)
  case noStyle =>
    intro inside used unstyled
    have used : (s.record f).state ≠ .free := used
    simp only [State.takeStyle, number, Nat.not_le.mpr inside, if_false, State.dropField_record, used, unstyled] at run
    exact answers_of run (endCommand_ended idle quiet _ _)
  case keeps =>
    intro st inside used given kept
    have used : (s.record f).state ≠ .free := used
    simp only [State.takeStyle, number, Nat.not_le.mpr inside, if_false, State.dropField_record, used, given] at run
    rw [restyle_keeps (s := s.dropField) kept] at run
    let styled : FieldRec := { v with style := st }
    let u : State := s.dropField.setRecord f styled
    have run : exec .styleField s = .next (u.restyled f) := run
    have self : u.record f = styled := setRecord_self (s := s.dropField) wf.records inside styled
    have others : ∀ g, g ≠ f → u.record g = s.record g := fun g => setRecord_other (s := s.dropField) wf.records styled
    have stored : u.field.records.WF fieldSpec := Tab.set_wf _ _ _ _ wf.records
    by_cases bound : v.state = .bound
    case pos =>
      rw [restyled_bound (u := u) (by rw [self]; exact bound), self] at run
      have done := render_done (s := u) (f := f) (w := fieldResult f v.slot v.state) idle quiet
      refine answers_of run ⟨fun _ => done, fun unbound => (unbound bound).elim, ?_⟩
      exact record_of_records stored self others inside (.inl (records_of_renderedDone done))
    case neg =>
      rw [restyled_suspended (u := u) (by rw [self]; exact bound), self, State.endCommand_eq u _ _ quiet idle] at run
      exact answers_of run ⟨fun is => (bound is).elim, fun _ => rfl,
        record_of_records stored self others inside (.inr rfl)⟩
  case ends =>
    intro st inside used given ended
    have used : (s.record f).state ≠ .free := used
    simp only [State.takeStyle, number, Nat.not_le.mpr inside, if_false, State.dropField_record, used, given] at run
    rw [restyle_ends (s := s.dropField) ended] at run
    let u : State := (s.dropField.setRecord f { v with style := st }).clearTick f
    obtain ⟨self, others⟩ : u.record f = { v with style := st, tick := .steady } ∧ ∀ g, g ≠ f → u.record g = s.record g :=
      clearTick_record (s := s.dropField) wf.records inside { v with style := st }
    have stored : u.field.records.WF fieldSpec := Tab.set_wf _ _ _ _ (Tab.set_wf _ _ _ _ wf.records)
    have requests : u.highlight.requests = [.remove f] := congrArg (· ++ [HighlightRequest.remove f]) quiet
    obtain ⟨left, records⟩ := restyled_asking (u := u) (f := f) (by rw [requests]; exact List.cons_ne_nil _ _)
    refine answers_of run ⟨?_, record_of_records stored self others inside records⟩
    let u' : State := { s with field := { s.field with
      records := s.field.records.set fieldSpec f { v with style := st, tick := .steady } } }
    have self' : u'.record f = { v with style := st, tick := .steady } := setRecord_self wf.records inside _
    have render : renderOf u f = renderOf u' f := renderOf_congr (self.trans self'.symm) rfl rfl rfl
    have ports : portsRendered u f = portsRendered u' f := portsRendered_congr (self.trans self'.symm) rfl rfl rfl
    rw [render, ports, self] at left
    refine left.trans ?_
    rw [← requests]
    rfl

end Sys2Proof.Machine

/-! The Highlight Timer (Section 4.5, R75 to R78). -/

namespace Sys2Proof.Machine

open Sys2Proof.Statement

section Taken

variable {s : State} {f : Nat} {hold : Fin 4} {rest : List HighlightRequest}

theorem exec_armRequest (front : s.highlight.requests = .arm f hold :: rest) :
    exec .armRequest s = .next (s.highlightTaken (s.highlight.arm f hold)) := by
  simp only [exec, execArmRequest, front]

@[simp] theorem highlightTaken_highlight (s : State) (h : HighlightTimer) :
    (s.highlightTaken h).highlight = { h with requests := s.highlight.requests.tail } := by
  simp [State.highlightTaken]

/-- A request taken leaves the other units that are not the Field Unit or a ring as they are. -/
theorem highlightTaken_frame (s : State) (h : HighlightTimer) :
    let t := s.highlightTaken h
    t.quote = s.quote ∧ t.plane = s.plane ∧ t.video = s.video ∧ t.control = s.control ∧ t.ports = s.ports ∧
      t.memory = s.memory := by
  simp [State.highlightTaken]

/-- The event under way after a request is taken: it goes on while something is waited for, and else ends. -/
theorem highlightTaken_ends {q : HighlightRequest} (front : s.highlight.requests = q :: rest) (h : HighlightTimer) :
    EventEnds s (s.highlightTaken h) rest := by
  refine ⟨fun held => ?goesOn, fun w more after waiting => ?spans, fun waiting last => ?nothing,
    fun st w waiting last => ?complete, fun f w waiting last => ?frees⟩
  all_goals rw [highlightTaken_highlight, State.highlightTaken, front, List.tail_cons]
  case goesOn =>
    rcases held with idle | asked
    · exact State.fieldFinish_none { s with highlight := { h with requests := rest } } idle
    · exact State.fieldFinish_waits { s with highlight := { h with requests := rest } } asked
  case spans => simp [State.fieldFinish, waiting]
  all_goals
    subst last
    exact State.fieldFinish_done { s with highlight := { h with requests := [] } } _ waiting rfl

end Taken

/-! ### The place of a new entry (R76) -/

/-- The list is cut where the first entry fails the test. -/
theorem cut_at_first (p : HighlightEntry → Bool) (l : List HighlightEntry) :
    l = l.takeWhile p ++ l.dropWhile p ∧ (∀ e ∈ l.takeWhile p, p e = true) ∧
      ∀ e, (l.dropWhile p).head? = some e → p e = false :=
  ⟨(List.takeWhile_append_dropWhile).symm, fun _ taken => List.mem_takeWhile_imp taken, fun e first => by
    have := List.head?_dropWhile_not p l
    rw [first] at this
    simpa using this⟩

theorem HighlightTimer.arm_zero {h : HighlightTimer} {f : Nat} {hold : Fin 4} (zero : h.holds.get hold = 0) :
    h.arm f hold = { h with queue := dropEntry h.queue f } := if_pos zero

theorem HighlightTimer.arm_nonzero {h : HighlightTimer} {f : Nat} {hold : Fin 4} (nonzero : h.holds.get hold ≠ 0) :
    h.arm f hold = { h with queue :=
      (dropEntry h.queue f).takeWhile (h.before (h.holds.get hold)) ++
        ⟨f, h.frame + BitVec.ofNat 16 (h.holds.get hold), false⟩ ::
        (dropEntry h.queue f).dropWhile (h.before (h.holds.get hold)) } := if_neg nonzero

theorem HighlightTimer.arm_eq (h : HighlightTimer) (f : Nat) (hold : Fin 4) :
    h.arm f hold = { h with queue := (h.arm f hold).queue } := by
  by_cases zero : h.holds.get hold = 0
  · rw [HighlightTimer.arm_zero zero]
  · rw [HighlightTimer.arm_nonzero zero]

/-! ### Frame events (R78) -/

section Due

variable {n : Half} {old due rest : List HighlightEntry}

theorem markDue_rest (later : ∀ e, rest.head? = some e → e.expired = false ∧ e.expiry ≠ n) : markDue n rest = rest := by
  cases rest with
  | nil => rfl
  | cons e rest =>
    obtain ⟨waiting, notNow⟩ := later e rfl
    simp [markDue, waiting, notNow]

theorem dueFields_rest (later : ∀ e, rest.head? = some e → e.expired = false ∧ e.expiry ≠ n) : dueFields n rest = [] := by
  cases rest with
  | nil => rfl
  | cons e rest =>
    obtain ⟨waiting, notNow⟩ := later e rfl
    simp [dueFields, waiting, notNow]

theorem markDue_due (now : ∀ e ∈ due, e.expired = false ∧ e.expiry = n) :
    markDue n (due ++ rest) = due.map (fun e => { e with expired := true }) ++ markDue n rest := by
  induction due with
  | nil => rfl
  | cons e due ih =>
    obtain ⟨⟨waiting, isNow⟩, now⟩ := List.forall_mem_cons.mp now
    simp [markDue, waiting, isNow, ih now]

theorem dueFields_due (now : ∀ e ∈ due, e.expired = false ∧ e.expiry = n) :
    dueFields n (due ++ rest) = due.map HighlightEntry.field ++ dueFields n rest := by
  induction due with
  | nil => rfl
  | cons e due ih =>
    obtain ⟨⟨waiting, isNow⟩, now⟩ := List.forall_mem_cons.mp now
    simp [dueFields, waiting, isNow, ih now]

theorem markDue_old (expired : ∀ e ∈ old, e.expired = true) : markDue n (old ++ rest) = old ++ markDue n rest := by
  induction old with
  | nil => rfl
  | cons e old ih =>
    obtain ⟨here, expired⟩ := List.forall_mem_cons.mp expired
    simp [markDue, here, ih expired]

theorem dueFields_old (expired : ∀ e ∈ old, e.expired = true) : dueFields n (old ++ rest) = dueFields n rest := by
  induction old with
  | nil => rfl
  | cons e old ih =>
    obtain ⟨here, expired⟩ := List.forall_mem_cons.mp expired
    simp [dueFields, here, ih expired]

end Due

theorem exec_highlightExpiry {s : State} {n : Half} {frames : List Half} (front : s.highlight.frames = n :: frames) :
    exec .highlightExpiry s = .next (s.highlightFrame n) := by
  simp only [exec, execHighlightExpiry, front]

/-- Settles O52: the queue by the place of the new entry and by the entries that are due; the event under way by
`highlightTaken_ends`. -/
theorem highlightQueue : Obligations.HighlightQueue := by
  refine ⟨fun s f hold rest front => ?arm, fun s f rest front => ?remove,
    fun s n frames old due rest first running queue expired now later => ?running, fun s n frames first stopped => ?stopped⟩
  case arm =>
    refine answers_of (exec_armRequest front) ?_
    intro d others early
    obtain ⟨quote, plane, video, control, ports, memory⟩ := highlightTaken_frame s (s.highlight.arm f hold)
    refine ⟨?highlight, fun zero => ?none, fun nonzero => ?placed, quote, plane, video, control, ports, memory,
      highlightTaken_ends front _⟩
    case highlight =>
      rw [highlightTaken_highlight, front, HighlightTimer.arm_eq]
      rfl
    case none =>
      rw [highlightTaken_highlight, HighlightTimer.arm_zero zero]
      rfl
    case placed =>
      obtain ⟨cut, before, after⟩ := cut_at_first early others
      refine ⟨_, _, cut, before, after, ?_⟩
      rw [highlightTaken_highlight, HighlightTimer.arm_nonzero nonzero]
      rfl
  case remove =>
    refine answers_of (exec_removeRequest front) ?_
    obtain ⟨quote, plane, video, control, ports, memory⟩ := highlightTaken_frame s (s.highlight.drop f)
    refine ⟨?_, quote, plane, video, control, ports, memory, highlightTaken_ends front _⟩
    rw [highlightTaken_highlight, front]
    rfl
  case running =>
    refine answers_of (exec_highlightExpiry first) ?_
    have marked : markDue n s.highlight.queue = old ++ due.map (fun e => { e with expired := true }) ++ rest := by
      rw [queue, List.append_assoc, markDue_old expired, markDue_due now, markDue_rest later, List.append_assoc]
    have sent : dueFields n s.highlight.queue = due.map HighlightEntry.field := by
      rw [queue, List.append_assoc, dueFields_old expired, dueFields_due now, dueFields_rest later, List.append_nil]
    rw [State.highlightFrame, if_pos (State.running_iff.mpr running), marked, sent, List.map_map, first]
    rfl
  case stopped =>
    refine answers_of (exec_highlightExpiry first) ?_
    rw [State.highlightFrame, if_neg fun running => stopped (State.running_iff.mp running), first]
    rfl

end Sys2Proof.Machine

/-! Base-layer writes and span writes (Sections 5.2 and 6.4, R88, R113). -/

namespace Sys2Proof.Machine

open Sys2Proof.Statement

namespace PlaneController

variable {p : PlaneController} {row col : Nat}

/-- A covered cell is written in the slot of the lowest overlay that covers it. -/
theorem baseWrite_covered {low high : List Overlay} {o : Overlay} (stack : p.stack = low ++ o :: high)
    (below : ∀ u ∈ low, u.covers row col = false) (covers : o.covers row col = true) (v : CellValue) :
    p.baseWrite row col v = p.putSave (o.slotOf row col) v := by
  have lowest : (p.stack.find? fun o => o.covers row col) = some o :=
    List.find?_eq_some_iff_append.mpr ⟨covers, low, high, stack, fun u under => by simp [below u under]⟩
  simp only [baseWrite, lowest]

theorem baseWrite_uncovered (uncovered : ∀ u ∈ p.stack, u.covers row col = false) (v : CellValue) :
    p.baseWrite row col v = p.putCell row col v := by
  have none_covers : (p.stack.find? fun o => o.covers row col) = none :=
    List.find?_eq_none.mpr fun u under => by simp [uncovered u under]
  simp only [baseWrite, none_covers]

theorem baseWrite_geometry (p : PlaneController) (row col : Nat) (v : CellValue) :
    (p.baseWrite row col v).geometry = p.geometry := by
  rw [baseWrite_frame]

/-- One cell of a span write in a plane of the given size. -/
def spanStep (rows columns row col : Nat) (p : PlaneController) (e : CellValue × Nat) : PlaneController :=
  if row < rows ∧ col + e.2 < columns then p.baseWrite row (col + e.2) e.1 else p

theorem spanStep_geometry (rows columns row col : Nat) (p : PlaneController) (e : CellValue × Nat) :
    (spanStep rows columns row col p e).geometry = p.geometry := by
  unfold spanStep
  split
  · exact baseWrite_geometry ..
  · rfl

/-- A span write makes the steps of its cells, left to right. -/
theorem spanFrom_eq_foldl (vs : List CellValue) (k : Nat) :
    p.spanFrom row (col + k) vs = (vs.zipIdx k).foldl (spanStep p.rows p.columns row col) p := by
  induction vs generalizing k p with
  | nil => rfl
  | cons v vs ih =>
    have first : p.spanCell row (col + k) v = spanStep p.rows p.columns row col p (v, k) := rfl
    have geometry := spanStep_geometry p.rows p.columns row col p (v, k)
    have rows : (spanStep p.rows p.columns row col p (v, k)).rows = p.rows := by rw [PlaneController.rows, geometry]; rfl
    have columns : (spanStep p.rows p.columns row col p (v, k)).columns = p.columns := by
      rw [PlaneController.columns, geometry]; rfl
    rw [spanFrom, List.zipIdx_cons, List.foldl_cons, first, Nat.add_assoc, ih, rows, columns]

end PlaneController

section SpanWrite

variable {s : State} {w : SpanWrite} {rest : List PlaneRequest}

theorem exec_spanWrite (front : s.plane.inbox = .span w :: rest) :
    exec .spanWrite s = .next (if s.spansWait then s else s.takeSpan w) := by
  simp only [exec, execSpanWrite, front]
  exact (apply_ite Host.Outcome.next ..).symm

theorem takeSpan_eq (s : State) (w : SpanWrite) :
    s.takeSpan w = { s with
      plane := w.cells.zipIdx.foldl (PlaneController.spanStep s.rows s.columns w.row w.col) (planeTaken s.plane) } :=
  congrArg (fun p : PlaneController => { s with plane := p })
    (PlaneController.spanFrom_eq_foldl (p := planeTaken s.plane) (row := w.row) (col := w.col) w.cells 0)

theorem State.spansWait_of_other (other : s.control.device ≠ .loading) : s.spansWait = false := by
  simp [State.spansWait, other]

theorem State.spansWait_of_loading (loading : s.control.device = .loading) :
    s.spansWait = Config.spansWaitInLoading := by
  simp [State.spansWait, loading]

end SpanWrite

/-- Settles O54: a base-layer write by the lowest covering overlay; a span write is the fold of its cells' writes. -/
theorem spanWriteIsBaseLayerWrite : Obligations.SpanWriteIsBaseLayerWrite := by
  refine ⟨fun p row col v low o high stack below covers => PlaneController.baseWrite_covered stack below covers v,
    fun p row col v uncovered => PlaneController.baseWrite_uncovered uncovered v, fun s w rest front => ?_⟩
  have run := exec_spanWrite front
  refine ⟨fun other => ?_, fun loading => ?_⟩
  · rw [State.spansWait_of_other other, takeSpan_eq] at run
    exact answers_of run ⟨rfl, rfl⟩
  · rw [State.spansWait_of_loading loading, takeSpan_eq] at run
    refine answers_of run ?_
    split
    · rfl
    · exact ⟨rfl, rfl⟩

end Sys2Proof.Machine

/-! WRITE_CELLS and FILL_CELLS: the walk of a text command (Section 5.3, R89 to R95). -/

namespace Sys2Proof.Machine

open Sys2Proof.Statement

/-! ### The walk as a fold (R92, R95) -/

/-- One cell of a walk from `first`: the write of a cell that is hit. -/
def walkStep (hit : Nat → Prop) [DecidablePred hit] (put : PlaneController → Nat → CellValue → PlaneController)
    (first : Nat) (p : PlaneController) (e : CellValue × Nat) : PlaneController :=
  if hit (first + e.2) then put p (first + e.2) e.1 else p

/-- The cells of a walk that are hit, from offset `k` on. -/
def hitsFrom (hit : Nat → Prop) [DecidablePred hit] (first k n : Nat) : List Nat :=
  (List.range' k n).filter fun j => decide (hit (first + j))

section Walk

variable {occ : Tab (Option Nat)} {layer : Layer} {hit : Nat → Prop} [DecidablePred hit]
  {put : PlaneController → Nat → CellValue → PlaneController} {Good : PlaneController → Prop}

/-- A walk whose writes go by `hit` and `put` on the planes that it meets. -/
theorem Walk.run_eq (write : ∀ p, Good p → ∀ n v, p.textWrite occ layer n v = if hit n then some (put p n v) else none)
    (keeps : ∀ p, Good p → ∀ n v, Good (put p n v)) (first k : Nat) (vs : List CellValue) (w : Walk)
    (good : Good w.plane) :
    (Walk.run occ layer (first + k) vs w).plane = (vs.zipIdx k).foldl (walkStep hit put first) w.plane ∧
      (Walk.run occ layer (first + k) vs w).written = w.written + (hitsFrom hit first k vs.length).length := by
  induction vs generalizing k w with
  | nil => exact ⟨rfl, rfl⟩
  | cons v vs ih =>
    rw [List.zipIdx_cons, List.foldl_cons, List.length_cons]
    by_cases here : hit (first + k)
    case pos =>
      have written : w.plane.textWrite occ layer (first + k) v = some (put w.plane (first + k) v) := by
        rw [write _ good, if_pos here]
      have step : walkStep hit put first w.plane (v, k) = put w.plane (first + k) v := if_pos here
      obtain ⟨plane, count⟩ := ih (k + 1) ⟨put w.plane (first + k) v, w.written + 1, w.skipped⟩ (keeps _ good _ _)
      simp only [Walk.run, written, step]
      refine ⟨plane, count.trans ?_⟩
      simp [hitsFrom, List.range'_succ, here]
      omega
    case neg =>
      have skipped : w.plane.textWrite occ layer (first + k) v = none := by rw [write _ good, if_neg here]
      have step : walkStep hit put first w.plane (v, k) = w.plane := if_neg here
      obtain ⟨plane, count⟩ := ih (k + 1) ⟨w.plane, w.written, w.skipped + 1⟩ good
      simp only [Walk.run, skipped, step]
      refine ⟨plane, count.trans ?_⟩
      simp [hitsFrom, List.range'_succ, here]

/-- Every cell of a walk counts once. -/
theorem Walk.run_skipped (first : Nat) (vs : List CellValue) (p : PlaneController) :
    (Walk.run occ layer first vs ⟨p, 0, 0⟩).skipped = vs.length - (Walk.run occ layer first vs ⟨p, 0, 0⟩).written := by
  have counts := Walk.run_counts occ layer vs first ⟨p, 0, 0⟩
  simp only [Nat.zero_add] at counts
  omega

end Walk

/-! ### What a walk writes on each layer (R89, R90, R92) -/

namespace PlaneController

/-- Write the cell of the plane with a number. -/
def setCell (p : PlaneController) (n : Nat) (v : CellValue) : PlaneController :=
  { p with cells := p.cells.set cellSpec n v }

theorem putCell_eq_setCell {p : PlaneController} {columns : Nat} (size : p.columns = columns) (n : Nat) (v : CellValue) :
    p.putCell (n / columns) (n % columns) v = p.setCell n v := by
  rw [putCell, size, Nat.div_add_mod']
  rfl

/-- The plane has a size and a stack. -/
structure Sized (columns rows : Nat) (stack : List Overlay) (p : PlaneController) : Prop where
  columns : p.columns = columns
  rows : p.rows = rows
  stack : p.stack = stack

variable {p : PlaneController} {columns rows : Nat} {stack : List Overlay} {occ : Tab (Option Nat)}

theorem Sized.setCell (size : p.Sized columns rows stack) (n : Nat) (v : CellValue) :
    (p.setCell n v).Sized columns rows stack := ⟨size.columns, size.rows, size.stack⟩

theorem Sized.baseWrite (size : p.Sized columns rows stack) (row col : Nat) (v : CellValue) :
    (p.baseWrite row col v).Sized columns rows stack := by
  rw [baseWrite_frame]
  exact ⟨size.columns, size.rows, size.stack⟩

/-- The cells that a base-layer walk hits: those on the plane that no field occupies (R90). -/
abbrev BaseHit (columns rows : Nat) (occ : Tab (Option Nat)) (n : Nat) : Prop :=
  n < columns * rows ∧ occ.get occSpec n = none

/-- The cells that a top-layer walk hits: those on the plane inside the top overlay (R89). -/
abbrev TopHit (columns rows : Nat) (o : Overlay) (n : Nat) : Prop :=
  n < columns * rows ∧ o.inside (n / columns) (n % columns) = true

theorem textWrite_base (size : p.Sized columns rows stack) (n : Nat) (v : CellValue) :
    p.textWrite occ .base n v =
      if BaseHit columns rows occ n then some (p.baseWrite (n / columns) (n % columns) v) else none := by
  rw [textWrite, size.columns, size.rows]
  by_cases off : columns * rows ≤ n
  · rw [if_pos off, if_neg fun onPlane => Nat.not_le.mpr onPlane.1 off]
  · rw [if_neg off]
    by_cases free : occ.get occSpec n = none
    · rw [if_pos ⟨Nat.not_le.mp off, free⟩]
      simp [free]
    · rw [if_neg fun hit => free hit.2]
      simp [Option.isSome_iff_ne_none.mpr free]

theorem textWrite_bare (size : p.Sized columns rows []) (n : Nat) (v : CellValue) :
    p.textWrite occ .base n v = if BaseHit columns rows occ n then some (p.setCell n v) else none := by
  rw [textWrite_base size, baseWrite_uncovered (by simp [size.stack]), putCell_eq_setCell size.columns]

theorem textWrite_top {low : List Overlay} {o : Overlay} (size : p.Sized columns rows (low ++ [o])) (n : Nat)
    (v : CellValue) :
    p.textWrite occ .top n v = if TopHit columns rows o n then some (p.setCell n v) else none := by
  have top : p.topOverlay = some o := by rw [topOverlay, size.stack, List.getLast?_concat]
  rw [textWrite, size.columns, size.rows]
  by_cases off : columns * rows ≤ n
  · rw [if_pos off, if_neg fun onPlane => Nat.not_le.mpr onPlane.1 off]
  · simp only [off, if_false, top, putCell_eq_setCell size.columns, TopHit, Nat.not_le.mp off, true_and]

end PlaneController

/-! ### The cells after a walk that writes the plane alone -/

section SetCells

variable {hit : Nat → Prop} [DecidablePred hit] {first : Nat}

theorem foldl_setCell_frame (l : List (CellValue × Nat)) (p : PlaneController) :
    l.foldl (walkStep hit PlaneController.setCell first) p =
      { p with cells := (l.foldl (walkStep hit PlaneController.setCell first) p).cells } := by
  induction l generalizing p with
  | nil => rfl
  | cons e l ih =>
    rw [List.foldl_cons, ih]
    unfold walkStep
    split <;> rfl

/-- A cell that the walk does not reach, or does not hit, keeps its value. -/
theorem foldl_setCell_kept (vs : List CellValue) (k : Nat) {p : PlaneController} (wf : p.cells.WF cellSpec) {n : Nat}
    (kept : n < first + k ∨ first + k + vs.length ≤ n ∨ ¬hit n) :
    ((vs.zipIdx k).foldl (walkStep hit PlaneController.setCell first) p).cells.get cellSpec n = p.cells.get cellSpec n := by
  induction vs generalizing k p with
  | nil => rfl
  | cons v vs ih =>
    rw [List.length_cons] at kept
    rw [List.zipIdx_cons, List.foldl_cons]
    have step : (walkStep hit PlaneController.setCell first p (v, k)).cells.WF cellSpec ∧
        (walkStep hit PlaneController.setCell first p (v, k)).cells.get cellSpec n = p.cells.get cellSpec n := by
      unfold walkStep
      split
      next here =>
        refine ⟨Tab.set_wf _ _ _ _ wf, Tab.get_set_ne _ _ _ _ _ wf ?_⟩
        rintro rfl
        exact kept.elim (fun below => by omega) (Or.elim · (fun above => by omega) (· here))
      next => exact ⟨wf, rfl⟩
    refine (ih (k + 1) step.1 ?_).trans step.2
    obtain below | above | missed := kept
    · exact .inl (by omega)
    · exact .inr (.inl (by omega))
    · exact .inr (.inr missed)

/-- A cell that the walk hits holds its value. -/
theorem foldl_setCell_hit (vs : List CellValue) (k : Nat) {p : PlaneController} (wf : p.cells.WF cellSpec) {j : Nat}
    (below : j < vs.length) (inRange : first + k + j < 6144) (here : hit (first + k + j)) :
    ((vs.zipIdx k).foldl (walkStep hit PlaneController.setCell first) p).cells.get cellSpec (first + k + j) = vs[j] := by
  induction vs generalizing k j p with
  | nil => simp at below
  | cons v vs ih =>
    rw [List.zipIdx_cons, List.foldl_cons]
    cases j with
    | zero =>
      have step : walkStep hit PlaneController.setCell first p (v, k) = p.setCell (first + k) v := if_pos here
      rw [step, foldl_setCell_kept vs (k + 1) (Tab.set_wf _ _ _ _ wf) (.inl (by omega))]
      exact Tab.get_set_self _ _ _ _ wf inRange
    | succ j =>
      have step : (walkStep hit PlaneController.setCell first p (v, k)).cells.WF cellSpec := by
        unfold walkStep
        split
        · exact Tab.set_wf _ _ _ _ wf
        · exact wf
      have place : first + k + (j + 1) = first + (k + 1) + j := by omega
      rw [place] at inRange here ⊢
      exact ih (k + 1) step (Nat.lt_of_succ_lt_succ below) inRange here

end SetCells

/-! ### The taking of a text command (R91, R95) -/

section Text

variable {c : Instr} {s : State} {d : Descriptor} {rest : List PlaneRequest} {vs : List CellValue} {layer : Layer}

/-- The command is a text command and its request is the next one. -/
abbrev TextNext (c : Instr) (s : State) (d : Descriptor) (rest : List PlaneRequest) : Prop :=
  (c = .writeCells ∧ s.plane.inbox = .writeCells d :: rest) ∨ (c = .fillCells ∧ s.plane.inbox = .fillCells d :: rest)

theorem exec_text (next : TextNext c s d rest) : exec c s = .next (s.dropPlane.takeText d (textOf c d)) := by
  rcases next with ⟨rfl, front⟩ | ⟨rfl, front⟩
  · simp only [exec, execWriteCells, front]
    rfl
  · simp only [exec, execFillCells, front]
    rfl

theorem textLayer_eq_none (high : 2 ≤ d.byte 1 3) : d.textLayer = none := by
  obtain ⟨code, codeIs⟩ := Nat.exists_eq_add_of_le' high
  rw [Descriptor.textLayer, codeIs]
  rfl

theorem textLayer_base (code : d.byte 1 3 = 0) : d.textLayer = some .base := by
  rw [Descriptor.textLayer, code]
  rfl

theorem textLayer_top (code : d.byte 1 3 = 1) : d.textLayer = some .top := by
  rw [Descriptor.textLayer, code]
  rfl

theorem takeText_badForm {vals : Option (List CellValue)} (bad : d.textLayer = none ∨ vals = none) :
    s.takeText d vals = s.completeCommand .badForm 0 := by
  unfold State.takeText
  split
  next layer vs layerIs =>
    rw [layerIs] at bad
    simp at bad
  next => rfl

theorem takeText_noOverlay (top : d.textLayer = some .top) (empty : s.plane.stack = []) :
    s.takeText d (some vs) = s.completeCommand .noOverlay 0 := by
  simp only [State.takeText, top, empty, and_self, if_true]

theorem takeText_outOfRange (layerIs : d.textLayer = some layer) (covered : layer = .top → s.plane.stack ≠ [])
    (outside : ¬(d.byte 1 0 < s.rows ∧ d.byte 1 1 < s.columns)) :
    s.takeText d (some vs) = s.completeCommand .outOfRange 0 := by
  have outside : s.plane.rows ≤ d.textRow ∨ s.plane.columns ≤ d.textCol := by
    change ¬(d.textRow < s.plane.rows ∧ d.textCol < s.plane.columns) at outside
    omega
  have covered : ¬(layer = .top ∧ s.plane.stack = []) := fun both => covered both.1 both.2
  simp only [State.takeText, layerIs, covered, if_false, outside, if_true]

/-- The walk of a text command that passes its checks. -/
abbrev State.textWalk (s : State) (d : Descriptor) (layer : Layer) (vs : List CellValue) : Walk :=
  Walk.run s.field.occupancy layer (d.byte 1 0 * s.columns + d.byte 1 1) vs ⟨planeTaken s.plane, 0, 0⟩

theorem takeText_walks (layerIs : d.textLayer = some layer) (covered : layer = .top → s.plane.stack ≠ [])
    (inside : d.byte 1 0 < s.rows ∧ d.byte 1 1 < s.columns) :
    s.dropPlane.takeText d (some vs) = { s with
      plane := (s.textWalk d layer vs).plane
      rings := outcomeTo s.rings .t .done (ofHalves (s.textWalk d layer vs).written (s.textWalk d layer vs).skipped) } := by
  have inside : ¬(s.dropPlane.plane.rows ≤ d.textRow ∨ s.dropPlane.plane.columns ≤ d.textCol) := by
    change d.textRow < s.dropPlane.plane.rows ∧ d.textCol < s.dropPlane.plane.columns at inside
    omega
  have covered : ¬(layer = .top ∧ s.dropPlane.plane.stack = []) := fun both => covered both.1 both.2
  simp only [State.takeText, layerIs, covered, inside, if_false]
  rfl

theorem sized_taken (s : State) : (planeTaken s.plane).Sized s.columns s.rows s.plane.stack := ⟨rfl, rfl, rfl⟩

/-- A base-layer walk makes the base-layer writes of the cells that it hits. -/
theorem textWalk_base : let w := s.textWalk d .base vs
    w.plane = vs.zipIdx.foldl (walkStep (PlaneController.BaseHit s.columns s.rows s.field.occupancy)
      (fun p n v => p.baseWrite (n / s.columns) (n % s.columns) v) (d.byte 1 0 * s.columns + d.byte 1 1))
      (planeTaken s.plane) ∧
    w.written = (hitsFrom (PlaneController.BaseHit s.columns s.rows s.field.occupancy)
      (d.byte 1 0 * s.columns + d.byte 1 1) 0 vs.length).length := by
  have walk := Walk.run_eq (occ := s.field.occupancy) (Good := PlaneController.Sized s.columns s.rows s.plane.stack)
    (fun _ size => PlaneController.textWrite_base size) (fun _ size _ v => size.baseWrite _ _ v)
    (d.byte 1 0 * s.columns + d.byte 1 1) 0 vs ⟨planeTaken s.plane, 0, 0⟩ (sized_taken s)
  exact ⟨walk.1, walk.2.trans (Nat.zero_add _)⟩

/-- With no overlay it writes the plane itself. -/
theorem textWalk_bare (bare : s.plane.stack = []) :
    (s.textWalk d .base vs).plane = vs.zipIdx.foldl
      (walkStep (PlaneController.BaseHit s.columns s.rows s.field.occupancy) PlaneController.setCell
        (d.byte 1 0 * s.columns + d.byte 1 1)) (planeTaken s.plane) :=
  (Walk.run_eq (occ := s.field.occupancy) (Good := PlaneController.Sized s.columns s.rows [])
    (fun _ size => PlaneController.textWrite_bare size) (fun _ size n v => size.setCell n v)
    (d.byte 1 0 * s.columns + d.byte 1 1) 0 vs ⟨planeTaken s.plane, 0, 0⟩ (bare ▸ sized_taken s)).1

/-- A top-layer walk writes the plane inside the top overlay. -/
theorem textWalk_top {low : List Overlay} {o : Overlay} (stack : s.plane.stack = low ++ [o]) :
    let w := s.textWalk d .top vs
    w.plane = vs.zipIdx.foldl (walkStep (PlaneController.TopHit s.columns s.rows o) PlaneController.setCell
      (d.byte 1 0 * s.columns + d.byte 1 1)) (planeTaken s.plane) ∧
    w.written = (hitsFrom (PlaneController.TopHit s.columns s.rows o) (d.byte 1 0 * s.columns + d.byte 1 1) 0
      vs.length).length := by
  have walk := Walk.run_eq (occ := s.field.occupancy) (Good := PlaneController.Sized s.columns s.rows (low ++ [o]))
    (fun _ size => PlaneController.textWrite_top size) (fun _ size n v => size.setCell n v)
    (d.byte 1 0 * s.columns + d.byte 1 1) 0 vs ⟨planeTaken s.plane, 0, 0⟩ (stack ▸ sized_taken s)
  exact ⟨walk.1, walk.2.trans (Nat.zero_add _)⟩

theorem length_hitsFrom {hit : Nat → Prop} [DecidablePred hit] {test : Nat → Bool} {first : Nat}
    (same : ∀ j, test j = true ↔ hit (first + j)) (n : Nat) :
    (hitsFrom hit first 0 n).length = ((List.range n).filter test).length := by
  rw [hitsFrom, List.range_eq_range']
  congr 1
  exact List.filter_congr fun j _ => Bool.eq_iff_iff.mpr (by rw [decide_eq_true_eq, same])

theorem baseHit_iff {columns rows n : Nat} {occ : Tab (Option Nat)} :
    (decide (n < columns * rows) && (occ.get occSpec n).isNone) = true ↔ PlaneController.BaseHit columns rows occ n := by
  simp [PlaneController.BaseHit]

theorem topHit_iff {columns rows n : Nat} {o : Overlay} :
    (decide (n < columns * rows) && o.inside (n / columns) (n % columns)) = true ↔
      PlaneController.TopHit columns rows o n := by
  simp only [PlaneController.TopHit, Bool.and_eq_true, decide_eq_true_eq]

theorem plane_bounded (inv : s.Inv) : s.columns * s.rows ≤ 6144 := by
  cases size : s.plane.geometry with
  | none => simp [State.columns, size]
  | some g =>
    obtain ⟨-, -, -, -, area⟩ := inv.geometry g size
    simpa [State.columns, State.rows, size] using area

/-- What a walk that writes the plane alone leaves of it. -/
theorem setCells_after (inv : s.Inv) {hit : Nat → Prop} [DecidablePred hit] (onPlane : ∀ n, hit n → n < s.columns * s.rows)
    (first : Nat) (vs : List CellValue) {q : PlaneController}
    (walked : q = vs.zipIdx.foldl (walkStep hit PlaneController.setCell first) (planeTaken s.plane)) :
    q.save = s.plane.save ∧
    (∀ (j : Nat) (_ : j < vs.length), hit (first + j) → q.cells.get cellSpec (first + j) = vs[j]) ∧
    (∀ n, (n < first ∨ first + vs.length ≤ n ∨ ¬hit n) → q.cells.get cellSpec n = s.plane.cells.get cellSpec n) := by
  subst walked
  refine ⟨by rw [foldl_setCell_frame]; rfl, fun j below here => ?_, fun n kept => ?_⟩
  · exact foldl_setCell_hit vs 0 (p := planeTaken s.plane) inv.stores.cells below
      ((onPlane _ here).trans_le (plane_bounded inv)) here
  · exact foldl_setCell_kept vs 0 (p := planeTaken s.plane) inv.stores.cells kept

end Text

theorem cellOf_bits (h : Nat) : (cellOf h).glyph.toNat = h % 512 ∧ (cellOf h).pen.toNat = h / 512 % 32 := by
  simp [cellOf]

/-- Settles O55: a text command by its checks; one that passes them walks, and the walk is a fold of its writes. -/
theorem textCommands : Obligations.TextCommands := by
  refine ⟨fun c s d rest next => ?counts, fun c s d rest vs next text row col inv => ?cells, cellOf_bits⟩
  case counts =>
    have run := exec_text next
    intro refused first onRange
    refine ⟨?badForm, ?noOverlay, ?outOfRange, ?base, ?top⟩
    case badForm =>
      intro bad
      rw [takeText_badForm (bad.imp_left textLayer_eq_none)] at run
      exact answers_of run rfl
    case noOverlay =>
      intro vs code text empty
      rw [text, takeText_noOverlay (s := s.dropPlane) (textLayer_top code) empty] at run
      exact answers_of run rfl
    case outOfRange =>
      intro vs code text covered outside
      rw [text] at run
      obtain base | top : d.byte 1 3 = 0 ∨ d.byte 1 3 = 1 := by omega
      · rw [takeText_outOfRange (s := s.dropPlane) (textLayer_base base) (by simp) outside] at run
        exact answers_of run rfl
      · rw [takeText_outOfRange (s := s.dropPlane) (textLayer_top top) (fun _ => covered top) outside] at run
        exact answers_of run rfl
    case base =>
      intro vs code text inside
      rw [text, takeText_walks (textLayer_base code) (by simp) inside] at run
      refine answers_of run ⟨?_, Walk.run_frame ..⟩
      rw [State.textWalk, Walk.run_skipped, textWalk_base.2, length_hitsFrom fun j => baseHit_iff]
    case top =>
      intro vs o low code text inside stack
      rw [text, takeText_walks (textLayer_top code) (fun _ => by simp [stack]) inside] at run
      refine answers_of run ⟨?_, ?_⟩
      · rw [State.textWalk, Walk.run_skipped, (textWalk_top stack).2, length_hitsFrom fun j => topHit_iff]
      · rw [(textWalk_top stack).1]
        exact foldl_setCell_frame ..
  case cells =>
    have run := exec_text next
    rw [text] at run
    intro first open_ after
    refine ⟨fun code => ?base, fun code bare => ?bare, fun o low code stack => ?top⟩
    case base =>
      rw [takeText_walks (textLayer_base code) (by simp) ⟨row, col⟩] at run
      exact answers_of run textWalk_base.1
    case bare =>
      rw [takeText_walks (textLayer_base code) (by simp) ⟨row, col⟩] at run
      obtain ⟨save, written, kept⟩ := setCells_after inv (fun n hit => hit.1) first vs (textWalk_bare (d := d) bare)
      refine answers_of run ⟨save, fun j below on free => written j below ⟨on, free⟩, fun n _ out => kept n ?_⟩
      exact out.imp_right (Or.imp_right (Or.elim · (fun off hit => Nat.not_le.mpr hit.1 off) (fun no hit => no hit.2)))
    case top =>
      rw [takeText_walks (textLayer_top code) (fun _ => by simp [stack]) ⟨row, col⟩] at run
      obtain ⟨save, written, kept⟩ := setCells_after inv (fun n hit => hit.1) first vs (textWalk_top (d := d) stack).1
      refine answers_of run ⟨save, fun j below on inside => written j below ⟨on, inside⟩, fun n _ out => kept n ?_⟩
      exact out.imp_right (Or.imp_right (Or.elim · (fun off hit => Nat.not_le.mpr hit.1 off) (fun no hit => no hit.2)))

end Sys2Proof.Machine

/-! SET_PEN and SET_CURSOR (Sections 4.2, 5.4 and 8.6, R70, R97, R142). -/

namespace Sys2Proof.Machine

open Sys2Proof.Statement

/-! ### Pens and cursor modes by their codes -/

theorem blinkOf_eq_none_iff {b : Nat} : blinkOf b = none ↔ 3 ≤ b := by
  unfold blinkOf
  split
  next => decide
  next => decide
  next => decide
  next not0 not1 not2 =>
    have : b ≠ 0 := not0
    have : b ≠ 1 := not1
    have : b ≠ 2 := not2
    simp only [true_iff]
    omega

theorem blinkOf_given {b : Nat} {blink : BlinkClass} (given : blinkOf b = some blink) :
    (blink = .steady ↔ b = 0) ∧ (blink = .phase0 ↔ b = 1) := by
  unfold blinkOf at given
  split at given <;> cases given <;> decide

theorem penOf_eq_none {h : Nat} (invalid : h / 256 % 4 = 3) : penOf h = none := by
  rw [penOf, invalid]
  rfl

theorem penOf_valid {h : Nat} (valid : h / 256 % 4 ≠ 3) : ∃ p : Pen, penOf h = some p ∧
    p.foreground.toNat = h % 16 ∧ p.background.toNat = h / 16 % 16 ∧
    (p.blink = .steady ↔ h / 256 % 4 = 0) ∧ (p.blink = .phase0 ↔ h / 256 % 4 = 1) ∧
    (p.underline = true ↔ h / 1024 % 2 = 1) ∧ (p.reverse = true ↔ h / 2048 % 2 = 1) := by
  obtain ⟨blink, given⟩ := Option.ne_none_iff_exists'.mp (mt (blinkOf_eq_none_iff (b := h / 256 % 4)).mp (by omega))
  obtain ⟨steady, phase0⟩ := blinkOf_given given
  exact ⟨⟨BitVec.ofNat 4 h, BitVec.ofNat 4 (h / 16), blink, _, _⟩, by rw [penOf, given]; rfl, BitVec.toNat_ofNat ..,
    BitVec.toNat_ofNat .., steady, phase0, decide_eq_true_iff, decide_eq_true_iff⟩

theorem cursorModeOf_eq_none {b : Nat} (high : 3 ≤ b) : cursorModeOf b = none := by
  obtain ⟨k, rfl⟩ := Nat.exists_eq_add_of_le' high
  rfl

theorem cursorModeOf_valid {b : Nat} (low : b ≤ 2) : ∃ mode, cursorModeOf b = some mode ∧ mode.code = b ∧
    (mode = .off ↔ b = 0) ∧ (mode = .steady ↔ b = 1) := by
  interval_cases b
  · exact ⟨.off, by decide⟩
  · exact ⟨.steady, by decide⟩
  · exact ⟨.blink, by decide⟩

/-! ### The takings -/

section Takings

variable {s : State} {d : Descriptor}

theorem exec_setPen (front : s.fieldFront = some (.setPen d)) : exec .setPen s = .next (s.dropField.takeSetPen d) := by
  simp only [exec, execSetPen, front]

theorem exec_setCursor {rest : List PlaneRequest} (front : s.plane.inbox = .setCursor d :: rest) :
    exec .setCursor s = .next (s.dropPlane.takeSetCursor d) := by
  simp only [exec, execSetCursor, front]

theorem takeSetPen_high (high : 32 ≤ d.byte 4 0) : s.takeSetPen d = s.endCommand .badForm 0 := by
  simp only [State.takeSetPen, Nat.not_lt.mpr high, dite_false]

theorem takeSetPen_invalid (inside : d.byte 4 0 < 32) (invalid : penOf (d.half 5 0) = none) :
    s.takeSetPen d = s.endCommand .badForm (ofBytes (d.byte 4 0) 0 0 0) := by
  simp only [State.takeSetPen, inside, dite_true, invalid]

/-- An entry of the pen table replaced. -/
def State.putPen (s : State) (n : Nat) (p : Pen) (inside : n < 32) : State :=
  { s with video := { s.video with pens := s.video.pens.set n p inside } }

theorem takeSetPen_valid (inside : d.byte 4 0 < 32) {p : Pen} (valid : penOf (d.half 5 0) = some p) :
    s.takeSetPen d = (s.putPen (d.byte 4 0) p inside).endCommand .done (ofBytes (d.byte 4 0) 0 0 0) := by
  simp only [State.takeSetPen, inside, dite_true, valid, State.putPen]

theorem takeSetCursor_badForm (invalid : cursorModeOf (d.byte 4 2) = none) :
    s.takeSetCursor d = s.completeCommand .badForm 0 := by
  simp only [State.takeSetCursor, invalid]

theorem takeSetCursor_outOfRange {mode : CursorMode} (valid : cursorModeOf (d.byte 4 2) = some mode)
    (outside : s.plane.rows ≤ d.byte 4 0 ∨ s.plane.columns ≤ d.byte 4 1) :
    s.takeSetCursor d = s.completeCommand .outOfRange 0 := by
  simp only [State.takeSetCursor, valid, outside, if_true]

theorem takeSetCursor_sends {mode : CursorMode} (valid : cursorModeOf (d.byte 4 2) = some mode)
    (row : d.byte 4 0 < s.plane.rows) (col : d.byte 4 1 < s.plane.columns) :
    s.takeSetCursor d = { s with video := { s.video with
      cursorChanges := s.video.cursorChanges ++ [(⟨d.byte 4 0, d.byte 4 1, mode⟩ : Cursor)] } }.completeCommand .done
        (ofBytes (d.byte 4 0) (d.byte 4 1) mode.code 0) := by
  have inside : ¬(s.plane.rows ≤ d.byte 4 0 ∨ s.plane.columns ≤ d.byte 4 1) := by omega
  simp only [State.takeSetCursor, valid, inside, if_false]

theorem exec_cursorChange {c : Cursor} {rest : List Cursor} (front : s.video.cursorChanges = c :: rest)
    (other : s.control.device ≠ .loading) :
    exec .cursorChange s = .next { s with video := { s.video with cursor := c, cursorChanges := rest } } := by
  simp only [exec, execCursorChange, front, other, if_false]

theorem exec_cursorChange_held (loading : s.control.device = .loading) : exec .cursorChange s = .next s := by
  simp only [exec, execCursorChange, loading, if_true]
  split <;> rfl

end Takings

/-- Settles O56: SET_PEN, SET_CURSOR and CURSOR_CHANGE by their cases. -/
theorem setPenAndSetCursor : Obligations.SetPenAndSetCursor := by
  refine ⟨fun s d rest idle front quiet => ?pen, fun s d rest front => ?cursor,
    fun s c rest front other => exec_cursorChange front other, fun s loading => exec_cursorChange_held loading⟩
  case pen =>
    have run := exec_setPen (State.fieldFront_of idle front)
    intro n x
    refine ⟨fun high => ?_, fun inside invalid => ?_, fun inside valid => ?_⟩
    · rw [takeSetPen_high high] at run
      exact answers_of run (endCommand_ended idle quiet _ _)
    · rw [takeSetPen_invalid inside (penOf_eq_none invalid)] at run
      exact answers_of run (endCommand_ended idle quiet _ _)
    · obtain ⟨p, valid, foreground, background, steady, phase0, underline, reverse⟩ := penOf_valid valid
      rw [takeSetPen_valid inside valid, State.endCommand_eq (s.dropField.putPen n p inside) _ _ quiet idle] at run
      exact answers_of run ⟨p, foreground, background, steady, phase0, underline, reverse, rfl⟩
  case cursor =>
    have run := exec_setCursor front
    intro row col refused
    refine ⟨fun high => ?_, fun low outside => ?_, fun low rowInside colInside => ?_⟩
    · rw [takeSetCursor_badForm (cursorModeOf_eq_none high)] at run
      exact answers_of run rfl
    · obtain ⟨mode, valid, -⟩ := cursorModeOf_valid low
      rw [takeSetCursor_outOfRange (s := s.dropPlane) valid outside] at run
      exact answers_of run rfl
    · obtain ⟨mode, valid, code, off, steady⟩ := cursorModeOf_valid low
      rw [takeSetCursor_sends (s := s.dropPlane) valid rowInside colInside, code] at run
      exact answers_of run ⟨mode, off, steady, rfl⟩

end Sys2Proof.Machine

/-! The Video Generator: the scan of a frame, the frame event, and the dots (Sections 7.1, 8.3 and 8.4). -/

namespace Sys2Proof.Machine

open Sys2Proof.Statement

/-! ### The order in which a frame is drawn (R139) -/

section Place

variable {f : Scan} {g : Geometry} {height : Nat}

theorem Scan.total_eq (geometry : f.geometry = some g) (glyphs : f.glyphHeight = some height) :
    f.total = g.rows * height * g.columns := by
  simp only [Scan.total, geometry, glyphs]

theorem Scan.place_eq (geometry : f.geometry = some g) (glyphs : f.glyphHeight = some height) (n : Nat) :
    f.place n = if n < g.rows * height * g.columns then
      some (n / (height * g.columns), n / g.columns % height, n % g.columns) else none := by
  simp only [Scan.place, geometry, glyphs, Scan.total_eq geometry glyphs]

/-- The place of a cell in the drawing order lies below the total. -/
theorem place_lt {row line col rows columns : Nat} (rowIn : row < rows) (lineIn : line < height) (colIn : col < columns) :
    (row * height + line) * columns + col < rows * height * columns := by
  have cells : row * height + line + 1 ≤ rows * height := by
    calc row * height + line + 1 ≤ row * height + height := by omega
      _ = (row + 1) * height := (Nat.succ_mul ..).symm
      _ ≤ rows * height := Nat.mul_le_mul_right _ rowIn
  calc (row * height + line) * columns + col < (row * height + line) * columns + columns := by omega
    _ = (row * height + line + 1) * columns := (Nat.succ_mul ..).symm
    _ ≤ rows * height * columns := Nat.mul_le_mul_right _ cells

theorem Scan.place_of (geometry : f.geometry = some g) (glyphs : f.glyphHeight = some height) {row line col : Nat}
    (rowIn : row < g.rows) (lineIn : line < height) (colIn : col < g.columns) :
    f.place ((row * height + line) * g.columns + col) = some (row, line, col) := by
  have cell : ((row * height + line) * g.columns + col) / g.columns = row * height + line := by
    rw [Nat.mul_comm, Nat.mul_add_div (by omega), Nat.div_eq_of_lt colIn, Nat.add_zero]
  have column : ((row * height + line) * g.columns + col) % g.columns = col := by rw [Nat.mul_add_mod', Nat.mod_eq_of_lt colIn]
  have rowIs : (row * height + line) / height = row := by
    rw [Nat.mul_comm, Nat.mul_add_div (by omega), Nat.div_eq_of_lt lineIn, Nat.add_zero]
  have lineIs : (row * height + line) % height = line := by rw [Nat.mul_add_mod', Nat.mod_eq_of_lt lineIn]
  rw [Scan.place_eq geometry glyphs, if_pos (place_lt rowIn lineIn colIn), Nat.mul_comm height, ← Nat.div_div_eq_div_mul,
    cell, column, rowIs, lineIs]

theorem Scan.place_eq_none_iff (geometry : f.geometry = some g) (glyphs : f.glyphHeight = some height) (n : Nat) :
    f.place n = none ↔ g.rows * height * g.columns ≤ n := by
  rw [Scan.place_eq geometry glyphs, ite_eq_right_iff, ← Nat.not_lt]
  simp

end Place

/-! ### The scan and the frame event (R120 to R123, R139, R144) -/

section Frame

variable {s : State}

theorem exec_frameScanStart (shown : s.video.shown = true) (between : s.video.scan = none) :
    exec .frameScanStart s = .next { s with video := { s.video with
      scan := some ⟨s.plane.geometry, s.video.glyphHeight, s.video.cursor, 0⟩ } } := by
  simp only [exec, execFrameScanStart, between, shown, if_true]

theorem exec_frameScanStart_hidden (hidden : s.video.shown = false) : exec .frameScanStart s = .next s := by
  simp only [exec, execFrameScanStart, hidden, Bool.false_eq_true, if_false]
  split <;> rfl

theorem exec_frameEvent (scanning : s.video.scanning = true) : exec .frameEvent s = .next s.raiseFrame := by
  simp only [exec, execFrameEvent, scanning, if_true]

theorem exec_frameEvent_hidden (hidden : s.video.shown = false) : exec .frameEvent s = .next s := by
  simp only [exec, execFrameEvent, VideoGenerator.scanning, hidden, Bool.false_and, Bool.false_eq_true, if_false]

theorem exec_blinkPhaseChange (scanning : s.video.scanning = true) (turns : s.video.blinkCounter + 1 = s.video.blinkHalf) :
    exec .blinkPhaseChange s = .next s.raiseFrame := by
  simp only [exec, execBlinkPhaseChange, scanning, VideoGenerator.reachesHalf, turns, decide_true, Bool.and_self, if_true]

theorem exec_blinkPhaseChange_hidden (hidden : s.video.shown = false) : exec .blinkPhaseChange s = .next s := by
  simp only [exec, execBlinkPhaseChange, VideoGenerator.scanning, hidden, Bool.false_and, Bool.false_eq_true, if_false]

theorem frame_turns {v : VideoGenerator} (turns : v.blinkCounter + 1 = v.blinkHalf) :
    v.frame.blinkCounter = 0 ∧ v.frame.blinkPhase = !v.blinkPhase := by
  simp [VideoGenerator.frame, VideoGenerator.reachesHalf, turns]

theorem frame_goesOn {v : VideoGenerator} (goesOn : ¬v.blinkCounter + 1 = v.blinkHalf) :
    v.frame.blinkCounter = v.blinkCounter + 1 ∧ v.frame.blinkPhase = v.blinkPhase := by
  simp [VideoGenerator.frame, VideoGenerator.reachesHalf, goesOn]

end Frame

/-- Settles O59: the scan's start and the frame event by their cases; the drawing order by division. -/
theorem frameScanAndFrameEvent : Obligations.FrameScanAndFrameEvent := by
  refine ⟨fun s shown between => exec_frameScanStart shown between, fun s shown scans => ?event, fun s hidden => ?hidden,
    fun f g height geometry glyphs => ⟨fun row line col => Scan.place_of geometry glyphs,
      Scan.place_eq_none_iff geometry glyphs⟩⟩
  case event =>
    intro n turns after
    have scanning : s.video.scanning = true := by rw [VideoGenerator.scanning, shown, scans, Bool.and_self]
    have raised : after s.raiseFrame := ⟨rfl, frame_turns, frame_goesOn⟩
    exact ⟨answers_of (exec_frameEvent scanning) raised,
      fun turn => answers_of (exec_blinkPhaseChange scanning turn) raised⟩
  case hidden =>
    exact ⟨exec_frameScanStart_hidden hidden, exec_frameEvent_hidden hidden, exec_blinkPhaseChange_hidden hidden,
      by simp [State.blanked, hidden], hidden, fun x => by simp [State.colourOutput, hidden]⟩

/-! ### Dots (R140 to R142) -/

theorem shownOn_iff (c : Cursor) (row col : Nat) (phase : Bool) : c.shownOn row col phase = true ↔
    c.row = row ∧ c.col = col ∧ (c.mode = .steady ∨ (c.mode = .blink ∧ phase = false)) := by
  unfold Cursor.shownOn
  cases c.mode <;> simp [and_assoc]

/-- Ink by the line of the glyph and the underline. -/
theorem inkDot_eq (g : Glyph) (p : Pen) (height k x : Nat) (line : k < 16) :
    inkDot g p height k x = (g[k].getLsbD (7 - x) || (p.underline && decide (k = height - 1 ∧ 0 < height))) := by
  have last : k + 1 = height ↔ k = height - 1 ∧ 0 < height := by omega
  rw [inkDot, dif_pos line, Bool.or_comm, decide_eq_decide.mpr last]

theorem dotEntry_eq (g : Glyph) (p : Pen) (height k x : Nat) (phase cursor : Bool) :
    let ink : Bool := inkDot g p height k x && !p.blink.hides phase
    let inkColour := if p.reverse then p.background else p.foreground
    let paper := if p.reverse then p.foreground else p.background
    dotEntry g p height k x phase cursor =
      if cursor then (if ink then paper else inkColour) else (if ink then inkColour else paper) := by
  intro ink inkColour paper
  change (if (ink != p.reverse) != cursor then p.foreground else p.background) = _
  cases ink <;> cases cursor <;> cases reversed : p.reverse <;> simp [inkColour, paper, reversed]

section Dots

variable {s : State} {f : Scan} {g : Geometry} {height : Nat}

theorem dotColour_eq (scan : s.video.scan = some f) (geometry : f.geometry = some g) (glyphs : f.glyphHeight = some height)
    (row col k x : Nat) : s.dotColour row col k x =
      if row < g.rows ∧ col < g.columns ∧ k < height ∧ x < 8 then
        let c := s.plane.cells.get cellSpec (row * g.columns + col)
        let e := dotEntry (s.video.glyphs.get glyphSpec c.glyph.toNat) (s.video.pens.get c.pen.toFin) height k x
          s.video.blinkPhase (f.cursor.shownOn row col s.video.blinkPhase)
        some (s.video.palette.get e.toFin)
      else none := by
  simp only [State.dotColour, scan, geometry, glyphs]
  rfl

theorem colourOutput_eq {row line col : Nat} (shown : s.video.shown = true) (scan : s.video.scan = some f)
    (drawing : f.place f.drawn = some (row, line, col)) (x : Nat) :
    s.colourOutput x = (s.dotColour row col line x).getD ⟨0, 0, 0⟩ := by
  simp only [State.colourOutput, shown, if_true, State.drawing, scan, drawing]

end Dots

/-- Settles O60. -/
theorem dotsAreDrawnByPenPhaseAndCursor : Obligations.DotsAreDrawnByPenPhaseAndCursor := by
  refine ⟨fun phase => ⟨rfl, rfl, rfl⟩, shownOn_iff, fun g p height k x phase cursor line dot => ?entry,
    fun s f g height scan geometry glyphs row col k x => ⟨fun inside => ?inside, fun outside => ?outside⟩,
    fun s f row line col x c shown scan drawing colour => ?output⟩
  case entry =>
    rw [← inkDot_eq g p height k x line]
    exact dotEntry_eq g p height k x phase cursor
  case inside => exact (dotColour_eq scan geometry glyphs row col k x).trans (if_pos inside)
  case outside => exact (dotColour_eq scan geometry glyphs row col k x).trans (if_neg outside)
  case output => rw [colourOutput_eq shown scan drawing, colour, Option.getD_some]

end Sys2Proof.Machine

/-! OPEN_OVERLAY, CLOSE_OVERLAY, and the rows that an overlay saves and restores (Sections 6.2 and 6.3). -/

namespace Sys2Proof.Machine

open Sys2Proof.Statement

/-! ### The commands (R104 to R109) -/

section Commands

variable {s : State} {d : Descriptor} {rest : List PlaneRequest}

theorem exec_openOverlay (front : s.plane.inbox = .openOverlay d :: rest) :
    exec .openOverlay s = .next (s.dropPlane.takeOpen d) := by
  simp only [exec, execOpenOverlay, front]

theorem exec_closeOverlay (front : s.plane.inbox = .closeOverlay :: rest) :
    exec .closeOverlay s = .next s.dropPlane.takeClose := by
  simp only [exec, execCloseOverlay, front]

theorem takeOpen_refused {st : Status} (fails : s.plane.openFailure (s.plane.newOverlay d) = some st) :
    s.takeOpen d = s.completeOverlay st := by
  simp only [State.takeOpen, fails]

theorem takeOpen_pushes (passes : s.plane.openFailure (s.plane.newOverlay d) = none) :
    s.takeOpen d =
      { s with plane := { s.plane with stack := s.plane.stack ++ [s.plane.newOverlay d] } }.sendPlanes [.row] := by
  simp only [State.takeOpen, passes]

theorem openFailure_eq (p : PlaneController) (o : Overlay) : p.openFailure o =
    if ¬p.Holds o then some .outOfRange
    else if p.stack.length = 4 then some .stackFull
    else if 3072 - p.inUse < o.area then some .saveFull
    else none := by
  have misfits : (o.height = 0 ∨ o.width = 0 ∨ p.rows < o.top + o.height ∨ p.columns < o.left + o.width) ↔ ¬p.Holds o := by
    simp only [PlaneController.Holds]
    omega
  simp only [PlaneController.openFailure, misfits]

theorem inUse_concat {p : PlaneController} {low : List Overlay} {o : Overlay} (stack : p.stack = low ++ [o]) :
    p.inUse = o.offset + o.area := by
  have top : p.topOverlay = some o := by rw [PlaneController.topOverlay, stack, List.getLast?_concat]
  simp only [PlaneController.inUse, top]

theorem takeClose_empty (empty : s.plane.stack = []) : s.takeClose = s.completeOverlay .noOverlay := by
  have top : s.plane.topOverlay = none := by rw [PlaneController.topOverlay, empty]; rfl
  simp only [State.takeClose, top]

theorem setTop_concat {p : PlaneController} {low : List Overlay} {o : Overlay} (stack : p.stack = low ++ [o])
    (v : Overlay) : p.setTop v = { p with stack := low ++ [v] } := by
  rw [PlaneController.setTop, stack, List.dropLast_concat]

theorem takeClose_closes {low : List Overlay} {o : Overlay} (stack : s.plane.stack = low ++ [o]) :
    s.takeClose =
      { s with plane := { s.plane with stack := low ++ [{ o with state := .closing 0 }] } }.sendPlanes [.row] := by
  have top : s.plane.topOverlay = some o := by rw [PlaneController.topOverlay, stack, List.getLast?_concat]
  simp only [State.takeClose, top, setTop_concat stack]

end Commands

/-- Settles O57: the two commands by their checks. -/
theorem overlayCommands : Obligations.OverlayCommands := by
  intro s rest refused
  refine ⟨fun d front => ?opens, fun front => ?closes⟩
  all_goals obtain rfl := tail_of_front front
  case opens =>
    have run := exec_openOverlay front
    intro top left height width fits
    have holds : s.dropPlane.plane.Holds (s.dropPlane.plane.newOverlay d) ↔ fits := Iff.rfl
    have checks : s.dropPlane.plane.openFailure (s.dropPlane.plane.newOverlay d) =
        if ¬s.dropPlane.plane.Holds (s.dropPlane.plane.newOverlay d) then some .outOfRange
        else if s.plane.stack.length = 4 then some .stackFull
        else if 3072 - s.plane.inUse < height * width then some .saveFull
        else none := openFailure_eq ..
    refine ⟨fun misfits => ?_, fun inside deep => ?_, fun inside shallow tight => ?_, fun inside shallow room => ?_⟩
    · rw [if_pos (mt holds.mp misfits)] at checks
      rw [takeOpen_refused checks] at run
      exact answers_of run rfl
    · rw [if_neg (not_not_intro (holds.mpr inside)), if_pos deep] at checks
      rw [takeOpen_refused checks] at run
      exact answers_of run rfl
    · rw [if_neg (not_not_intro (holds.mpr inside)), if_neg shallow, if_pos tight] at checks
      rw [takeOpen_refused checks] at run
      exact answers_of run rfl
    · rw [if_neg (not_not_intro (holds.mpr inside)), if_neg shallow, if_neg (Nat.not_lt.mpr room)] at checks
      rw [takeOpen_pushes checks] at run
      exact answers_of run ⟨rfl, inUse_concat (low := s.plane.stack) (o := s.dropPlane.plane.newOverlay d) rfl⟩
  case closes =>
    have run := exec_closeOverlay front
    refine ⟨fun empty => ?_, fun low o stack => ?_⟩
    · rw [takeClose_empty (s := s.dropPlane) empty] at run
      exact answers_of run ⟨rfl, by simp [PlaneController.inUse, PlaneController.topOverlay, empty]⟩
    · rw [takeClose_closes (s := s.dropPlane) stack] at run
      exact answers_of run rfl

/-! ### Rows of a table -/

section Row

variable {α : Type} [DecidableEq α] (T : TabSpec α)

/-- The `n` contents from `base` on written, those of `f` in order. -/
def setRow (t : Tab α) (base n : Nat) (f : Nat → α) : Tab α :=
  (List.range n).foldl (fun t i => t.set T (base + i) (f i)) t

variable {T} {t : Tab α} {base : Nat} {f : Nat → α}

theorem setRow_succ (n : Nat) : setRow T t base (n + 1) f = (setRow T t base n f).set T (base + n) (f n) := by
  rw [setRow, List.range_succ, List.foldl_append]
  rfl

theorem setRow_wf (wf : t.WF T) (n : Nat) : (setRow T t base n f).WF T := by
  induction n with
  | zero => exact wf
  | succ n ih =>
    rw [setRow_succ]
    exact Tab.set_wf _ _ _ _ ih

theorem setRow_get_outside (wf : t.WF T) {n m : Nat} (outside : ∀ i < n, m ≠ base + i) :
    (setRow T t base n f).get T m = t.get T m := by
  induction n with
  | zero => rfl
  | succ n ih =>
    rw [setRow_succ, Tab.get_set_ne _ _ _ _ _ (setRow_wf wf n) (outside n (Nat.lt_succ_self n))]
    exact ih fun i below => outside i (Nat.lt_succ_of_lt below)

theorem setRow_get_inside (wf : t.WF T) {n i : Nat} (inside : i < n) (inRange : base + n ≤ T.size) :
    (setRow T t base n f).get T (base + i) = f i := by
  induction n with
  | zero => omega
  | succ n ih =>
    rw [setRow_succ]
    obtain rfl | below : i = n ∨ i < n := by omega
    · exact Tab.get_set_self _ _ _ _ (setRow_wf wf i) (by omega)
    · rw [Tab.get_set_ne _ _ _ _ _ (setRow_wf wf n) (by omega)]
      exact ih below (by omega)

end Row

/-! ### The rows of an overlay (R107, R110) -/

section OverlayRow

variable {o : Overlay} {p : PlaneController}

/-- The number of the first cell of row `k` of an overlay. -/
abbrev Overlay.firstCell (o : Overlay) (columns k : Nat) : Nat := (o.top + k) * columns + o.left

/-- The number of its first save slot. -/
abbrev Overlay.firstSlot (o : Overlay) (k : Nat) : Nat := o.offset + k * o.width

theorem Overlay.slotOf_eq (o : Overlay) (k i : Nat) : o.slotOf (o.top + k) (o.left + i) = o.firstSlot k + i := by
  simp [Overlay.slotOf, Overlay.firstSlot]

theorem columnList_foldl (g : PlaneController → Nat → PlaneController) (p : PlaneController) :
    o.columnList.foldl g p = (List.range o.width).foldl (fun p i => g p (o.left + i)) p := by
  rw [Overlay.columnList, List.foldl_map]

theorem Overlay.saveCell_eq (o : Overlay) (p : PlaneController) (k i : Nat) :
    o.saveCell (o.top + k) p (o.left + i) = { p with
      cells := p.cells.set cellSpec (o.firstCell p.columns k + i) o.fill
      save := p.save.set saveSpec (o.firstSlot k + i) (p.cells.get cellSpec (o.firstCell p.columns k + i)) } := by
  have cell : (o.top + k) * p.columns + (o.left + i) = o.firstCell p.columns k + i := (Nat.add_assoc ..).symm
  rw [Overlay.saveCell, Overlay.slotOf_eq, ← cell]
  rfl

theorem Overlay.restoreCell_eq (o : Overlay) (p : PlaneController) (k i : Nat) :
    o.restoreCell (o.top + k) p (o.left + i) = { p with
      cells := p.cells.set cellSpec (o.firstCell p.columns k + i) (p.save.get saveSpec (o.firstSlot k + i)) } := by
  have cell : (o.top + k) * p.columns + (o.left + i) = o.firstCell p.columns k + i := (Nat.add_assoc ..).symm
  rw [Overlay.restoreCell, Overlay.slotOf_eq, ← cell]
  rfl

/-- The first `n` columns saved: the slots hold what the cells held, and the cells the fill. -/
theorem saveColumns_eq (wf : p.cells.WF cellSpec) (k n : Nat) :
    (List.range n).foldl (fun p i => o.saveCell (o.top + k) p (o.left + i)) p = { p with
      cells := setRow cellSpec p.cells (o.firstCell p.columns k) n fun _ => o.fill
      save := setRow saveSpec p.save (o.firstSlot k) n fun i => p.cells.get cellSpec (o.firstCell p.columns k + i) } := by
  induction n with
  | zero => rfl
  | succ n ih =>
    have unread : (setRow cellSpec p.cells (o.firstCell p.columns k) n fun _ => o.fill).get cellSpec
        (o.firstCell p.columns k + n) = p.cells.get cellSpec (o.firstCell p.columns k + n) :=
      setRow_get_outside wf fun i below => by omega
    rw [List.range_succ, List.foldl_append, ih, setRow_succ, setRow_succ, ← unread]
    exact Overlay.saveCell_eq ..

/-- The first `n` columns restored: the cells hold what the slots hold. -/
theorem restoreColumns_eq (k n : Nat) :
    (List.range n).foldl (fun p i => o.restoreCell (o.top + k) p (o.left + i)) p = { p with
      cells := setRow cellSpec p.cells (o.firstCell p.columns k) n fun i => p.save.get saveSpec (o.firstSlot k + i) } := by
  induction n with
  | zero => rfl
  | succ n ih =>
    rw [List.range_succ, List.foldl_append, ih, setRow_succ]
    exact Overlay.restoreCell_eq ..

/-- The cells of the plane and the save area after a row is saved. -/
abbrev PlaneController.savedCells (p : PlaneController) (o : Overlay) (k : Nat) : Tab CellValue :=
  setRow cellSpec p.cells (o.firstCell p.columns k) o.width fun _ => o.fill

abbrev PlaneController.savedSlots (p : PlaneController) (o : Overlay) (k : Nat) : Tab CellValue :=
  setRow saveSpec p.save (o.firstSlot k) o.width fun i => p.cells.get cellSpec (o.firstCell p.columns k + i)

/-- The cells of the plane after a row is restored. -/
abbrev PlaneController.restoredCells (p : PlaneController) (o : Overlay) (k : Nat) : Tab CellValue :=
  setRow cellSpec p.cells (o.firstCell p.columns k) o.width fun i => p.save.get saveSpec (o.firstSlot k + i)

theorem saveRow_eq (wf : p.cells.WF cellSpec) (k : Nat) :
    o.columnList.foldl (o.saveCell (o.top + k)) p = { p with cells := p.savedCells o k, save := p.savedSlots o k } :=
  (columnList_foldl _ p).trans (saveColumns_eq wf k o.width)

theorem restoreRow_eq (p : PlaneController) (k : Nat) :
    o.columnList.foldl (o.restoreCell (o.top + k)) p = { p with cells := p.restoredCells o k } :=
  (columnList_foldl _ p).trans (restoreColumns_eq k o.width)

/-- The bounds of the row of an overlay: its cells in the plane, its slots in the save area. -/
structure RowFits (p : PlaneController) (o : Overlay) (k : Nat) : Prop where
  cells : o.firstCell p.columns k + o.width ≤ 6144
  slots : o.firstSlot k + o.width ≤ 3072

theorem rowFits_of_inv {s : State} (inv : s.Inv) {low : List Overlay} {k : Nat} (stack : s.plane.stack = low ++ [o])
    (row : k < o.height) : RowFits s.plane o k := by
  have top : s.plane.topOverlay = some o := by rw [PlaneController.topOverlay, stack, List.getLast?_concat]
  obtain ⟨-, room, -, -, -, bottom, right⟩ := PlaneController.inUse_dropLast inv.overlays top
  refine ⟨?_, ?_⟩
  · calc (o.top + k) * s.plane.columns + o.left + o.width ≤ (o.top + k) * s.plane.columns + s.plane.columns := by omega
      _ = (o.top + k + 1) * s.plane.columns := (Nat.succ_mul ..).symm
      _ ≤ s.plane.rows * s.plane.columns := Nat.mul_le_mul_right _ (by omega)
      _ ≤ 6144 := (Nat.mul_comm ..).trans_le (plane_bounded inv)
  · calc o.offset + k * o.width + o.width = o.offset + (k + 1) * o.width := by rw [Nat.succ_mul, Nat.add_assoc]
      _ ≤ o.offset + o.area := Nat.add_le_add_left (Nat.mul_le_mul_right _ row) _
      _ ≤ 3072 := room

end OverlayRow

/-! ### Row events (R107, R110) -/

section RowEvent

variable {s : State} {o : Overlay} {k : Nat} {low : List Overlay} {rest : List PlaneRequest}

theorem exec_openingRow (front : s.plane.inbox = .row :: rest) (top : s.plane.topOverlay = some o)
    (opening : o.state = .opening k) : exec .openingRow s = .next (s.dropPlane.openingRow o k) := by
  simp only [exec, execOpeningRow, front, top, opening]

theorem exec_closingRow (front : s.plane.inbox = .row :: rest) (top : s.plane.topOverlay = some o)
    (closing : o.state = .closing k) : exec .closingRow s = .next (s.dropPlane.closingRow o k) := by
  simp only [exec, execClosingRow, front, top, closing]

theorem dropPlane_low (stack : s.plane.stack = low ++ [o]) : s.dropPlane.plane.stack.dropLast = low :=
  (congrArg List.dropLast stack).trans List.dropLast_concat

/-- A row saved and more to come. -/
theorem openingRow_more (wf : s.plane.cells.WF cellSpec) (stack : s.plane.stack = low ++ [o]) (more : k + 1 < o.height) :
    s.dropPlane.openingRow o k = { s with plane := { s.plane with
      inbox := s.plane.inbox.tail ++ [.row], cells := s.plane.savedCells o k, save := s.plane.savedSlots o k,
      stack := low ++ [{ o with state := .opening (k + 1) }] } } := by
  have row : o.columnList.foldl (o.saveCell (o.top + k)) s.dropPlane.plane = _ := saveRow_eq (p := s.dropPlane.plane) wf k
  simp only [State.openingRow, row, more, if_true, PlaneController.setTop, dropPlane_low stack]
  rfl

/-- The last row saved: the overlay is open. -/
theorem openingRow_last (wf : s.plane.cells.WF cellSpec) (stack : s.plane.stack = low ++ [o]) (last : k + 1 = o.height) :
    s.dropPlane.openingRow o k = State.endOverlay { s with plane := { s.plane with
      inbox := s.plane.inbox.tail, cells := s.plane.savedCells o k, save := s.plane.savedSlots o k,
      stack := low ++ [{ o with state := .opened }] } } := by
  have row : o.columnList.foldl (o.saveCell (o.top + k)) s.dropPlane.plane = _ := saveRow_eq (p := s.dropPlane.plane) wf k
  simp only [State.openingRow, row, Nat.not_lt.mpr last.ge, if_false, PlaneController.setTop, dropPlane_low stack]
  rfl

theorem closingRow_more (stack : s.plane.stack = low ++ [o]) (more : k + 1 < o.height) :
    s.dropPlane.closingRow o k = { s with plane := { s.plane with
      inbox := s.plane.inbox.tail ++ [.row], cells := s.plane.restoredCells o k,
      stack := low ++ [{ o with state := .closing (k + 1) }] } } := by
  have row : o.columnList.foldl (o.restoreCell (o.top + k)) s.dropPlane.plane = _ := restoreRow_eq s.dropPlane.plane k
  simp only [State.closingRow, row, more, if_true, PlaneController.setTop, dropPlane_low stack]
  rfl

/-- The last row restored: the overlay is gone. -/
theorem closingRow_last (stack : s.plane.stack = low ++ [o]) (last : k + 1 = o.height) :
    s.dropPlane.closingRow o k = State.endOverlay { s with plane := { s.plane with
      inbox := s.plane.inbox.tail, cells := s.plane.restoredCells o k, stack := low } } := by
  have row : o.columnList.foldl (o.restoreCell (o.top + k)) s.dropPlane.plane = _ := restoreRow_eq s.dropPlane.plane k
  simp only [State.closingRow, row, Nat.not_lt.mpr last.ge, if_false, dropPlane_low stack]
  rfl

/-- What a row event leaves of the cells and the save area, whether rows follow it or not. -/
theorem openingRow_board (wf : s.plane.cells.WF cellSpec) (stack : s.plane.stack = low ++ [o]) (row : k < o.height) :
    (s.dropPlane.openingRow o k).plane.cells = s.plane.savedCells o k ∧
      (s.dropPlane.openingRow o k).plane.save = s.plane.savedSlots o k := by
  obtain more | last : k + 1 < o.height ∨ k + 1 = o.height := by omega
  · rw [openingRow_more wf stack more]
    exact ⟨rfl, rfl⟩
  · rw [openingRow_last wf stack last]
    exact ⟨rfl, rfl⟩

theorem closingRow_board (stack : s.plane.stack = low ++ [o]) (row : k < o.height) :
    (s.dropPlane.closingRow o k).plane.cells = s.plane.restoredCells o k ∧
      (s.dropPlane.closingRow o k).plane.save = s.plane.save := by
  obtain more | last : k + 1 < o.height ∨ k + 1 = o.height := by omega
  · rw [closingRow_more stack more]
    exact ⟨rfl, rfl⟩
  · rw [closingRow_last stack last]
    exact ⟨rfl, rfl⟩

/-- With the top overlay gone, the slots below its region are in use. -/
theorem inUse_below (ok : s.plane.StackOk) (stack : s.plane.stack = low ++ [o]) {p : PlaneController}
    (popped : p.stack = low) : p.inUse = o.offset := by
  have top : s.plane.topOverlay = some o := by rw [PlaneController.topOverlay, stack, List.getLast?_concat]
  have below : s.plane.stack.dropLast = low := by rw [stack, List.dropLast_concat]
  obtain ⟨offset, -⟩ := PlaneController.inUse_dropLast ok top
  obtain ⟨-, regions, -⟩ := PlaneController.stackOk_iff.mp ok.pop
  rw [PlaneController.inUse_eq (by rw [popped, ← below]; exact regions), popped, ← below, offset]

end RowEvent

/-- Settles O58: a row event saves or restores one row of the top overlay; restoring right after saving writes back what
the slots were given. -/
theorem overlayRowsSaveAndRestore : Obligations.OverlayRowsSaveAndRestore := by
  refine ⟨fun s rest low o k inv front stack row => ?events, fun p o row cellsWF saveWF above below region inPlane => ?back⟩
  case events =>
    obtain rfl := tail_of_front front
    have top : s.plane.topOverlay = some o := by rw [PlaneController.topOverlay, stack, List.getLast?_concat]
    have fits := rowFits_of_inv inv stack row
    have cellsWF := inv.stores.cells
    have saveWF := inv.stores.save
    intro cell slot report
    have cellIs (i : Nat) : cell i = o.firstCell s.plane.columns k + i := (Nat.add_assoc ..).symm
    refine ⟨fun opening => ?opening, fun closing => ?closing⟩
    case opening =>
      obtain ⟨cells, save⟩ := openingRow_board cellsWF stack row
      refine answers_of (exec_openingRow front top opening) ⟨fun i inside => ⟨?_, ?_⟩, fun n _ outside => ?_,
        fun n _ outside => ?_, fun more => ?_, fun last => ?_⟩
      · rw [save, cellIs]
        exact setRow_get_inside saveWF inside fits.slots
      · rw [cells, cellIs]
        exact setRow_get_inside cellsWF inside fits.cells
      · rw [cells]
        exact setRow_get_outside cellsWF fun i inside => cellIs i ▸ outside i inside
      · rw [save]
        exact setRow_get_outside saveWF outside
      · rw [openingRow_more cellsWF stack more]
      · rw [openingRow_last cellsWF stack last, inUse_concat stack]
        exact ⟨rfl, inUse_concat (low := low) (o := { o with state := .opened }) rfl⟩
    case closing =>
      obtain ⟨cells, save⟩ := closingRow_board stack row
      refine answers_of (exec_closingRow front top closing) ⟨fun i inside => ?_, fun n _ outside => ?_, save, fun more => ?_,
        fun last => ?_⟩
      · rw [cells, cellIs]
        exact setRow_get_inside cellsWF inside fits.cells
      · rw [cells]
        exact setRow_get_outside cellsWF fun i inside => cellIs i ▸ outside i inside
      · rw [closingRow_more stack more]
      · rw [closingRow_last stack last]
        exact ⟨rfl, inUse_below inv.overlays stack rfl⟩
  case back =>
    obtain ⟨k, rfl⟩ := Nat.exists_eq_add_of_le above
    intro saved restored
    have slots : o.firstSlot k + o.width ≤ 3072 := by
      calc o.offset + k * o.width + o.width = o.offset + (k + 1) * o.width := by rw [Nat.succ_mul, Nat.add_assoc]
        _ ≤ o.offset + o.area := Nat.add_le_add_left (Nat.mul_le_mul_right _ (by omega)) _
        _ ≤ 3072 := region
    have cells : o.firstCell p.columns k + o.width ≤ 6144 := by
      rw [Overlay.firstCell, Nat.add_assoc]
      exact inPlane
    have savedIs : saved = { p with cells := p.savedCells o k, save := p.savedSlots o k } := saveRow_eq cellsWF k
    have restoredIs : restored = { saved with cells := saved.restoredCells o k } := restoreRow_eq saved k
    have savedWF : saved.cells.WF cellSpec := by rw [savedIs]; exact setRow_wf cellsWF _
    have columns : saved.columns = p.columns := by rw [savedIs]; rfl
    refine ⟨fun n _ => ?_, fun i inside => ?_, by rw [restoredIs]⟩
    · rw [restoredIs]
      by_cases inRow : ∃ i < o.width, n = o.firstCell p.columns k + i
      case pos =>
        obtain ⟨i, inside, rfl⟩ := inRow
        rw [← columns] at cells ⊢
        refine (setRow_get_inside savedWF inside cells).trans ?_
        rw [savedIs]
        exact setRow_get_inside saveWF inside slots
      case neg =>
        have outside : ∀ i < o.width, n ≠ o.firstCell p.columns k + i := fun i inside same => inRow ⟨i, inside, same⟩
        refine (setRow_get_outside savedWF (columns ▸ outside)).trans ?_
        rw [savedIs]
        exact setRow_get_outside cellsWF outside
    · rw [savedIs, ← Nat.add_assoc]
      exact setRow_get_inside cellsWF inside cells

end Sys2Proof.Machine
